-- ==== Sys2Proof/Word.lean ====
section
/-! DEFINITION. The word types of the VL-2416 model: bytes, host addresses, tags, segment and channel numbers.
-/
namespace Sys2Proof

/-- One byte of a record or of a segment. -/
abbrev Byte := BitVec 8

/-- An address of host memory (spec/11_record_formats_and_status_codes.md, R174: 8-byte address fields). -/
abbrev HostAddr := BitVec 64

/-- A request's tag, chosen by the host and echoed (R25). -/
abbrev Tag := BitVec 16

/-- A segment number, 0 to 511 (R9). -/
abbrev SegId := Fin 512

/-- A channel number: 0 is the control channel, 1 to 15 are data channels (R155). -/
abbrev ChanId := Fin 16

end Sys2Proof
end

