-- ==== Sys2Proof/Syntax.lean ====
section
/-! DEFINITION. The commands and events of the VL-2416: one constructor per row of spec/opcode_table.json.
-/
namespace Sys2Proof

/-- How a read of host memory by the link interface ended (R163): a host read error, or the bytes read. -/
inductive ReadResult where
  | error
  | data (bytes : List Byte)
  deriving DecidableEq, Repr

/-- The three causes of a host reset (R166). -/
inductive ResetCause where
  | enableZero
  | hotReset
  | functionLevelReset
  deriving DecidableEq, Repr

/-- The commands and events that reach the part, one per row of the operation table, with the data each brings.
A channel operand names the channel whose executing request, transfer or timer the event belongs to.
Voltages are in mV; comparator times are in units of 10 µs of the device timer (section 3.1). -/
inductive Instr where
  /-- HOST_RESET (R166). -/
  | hostReset (cause : ResetCause)
  /-- ENABLE: a DEVCTL write with bit 0 set (R151). -/
  | enable
  /-- NOTIFY: the fields of a NOTIFY write (R150, R153). -/
  | notify (chan : BitVec 4) (index : BitVec 12)
  /-- RETIRE: the fields of a RETIRE write (R150, R154). -/
  | retire (chan : BitVec 4) (index : BitVec 12)
  /-- REGISTER_WRITE: a write of `width` bytes to an offset of the 4 KiB window (R150). -/
  | registerWrite (offset : BitVec 12) (width : Nat) (value : BitVec 32)
  /-- FETCH_END: the end of the one request fetch in flight (R157). -/
  | fetchEnd (result : ReadResult)
  /-- APPEND, SEAL, ABORT, READ, FLUSH, RELEASE: the channel's executing request of that kind is taken by its
  owning block (R159). -/
  | append (chan : ChanId)
  | sealTxn (chan : ChanId)
  | abort (chan : ChanId)
  | read (chan : ChanId)
  | flush (chan : ChanId)
  | release (chan : ChanId)
  /-- The control requests, taken on channel 0 (R159). -/
  | format
  | setClock
  | recoveryReport
  | openChannel
  | closeChannel
  | configure
  | query
  | alertWait
  /-- WAIT_LIST_RESERVATION (R84). -/
  | waitListReservation
  /-- STAGING_BUFFER_CLAIM (R29). -/
  | stagingBufferClaim
  /-- PAYLOAD_READ_END: the end of the payload read of a channel's APPEND (R30). -/
  | payloadReadEnd (chan : ChanId) (result : ReadResult)
  /-- TXN_EXPIRY: the device timer reaches the deadline of the transaction with this key (R49). -/
  | txnExpiry (chan : ChanId) (hostId : Nat)
  /-- READ_BUFFER_CLAIM (R22). -/
  | readBufferClaim
  /-- READ_DATA_WRITE_END: the end of the host write of a channel's READ (R23). -/
  | readDataWriteEnd (chan : ChanId) (ok : Bool)
  /-- FORMAT_RESET (R105). -/
  | formatReset
  /-- STORE_PASS_END: the check values of write and verify agree or differ (R76). -/
  | storePassEnd (agree : Bool)
  /-- IDLE_TIMER_EXPIRY (R74). -/
  | idleTimerExpiry
  /-- CHECKPOINT_WRITE_END: the verify agrees or differs (R93). -/
  | checkpointWriteEnd (verified : Bool)
  /-- MEASUREMENT: the converter's reading of V in mV (R57). -/
  | measurement (millivolts : Nat)
  /-- CHARGED: rising crossing of the 10.0 V comparator (R54). -/
  | charged
  /-- NOT_CHARGED: still CHARGING 2000 ms after charge start (R54). -/
  | notCharged
  /-- LEARN_START, LEARN_END: rising crossings of the 3.0 V and the 9.0 V comparator at this device time (R55). -/
  | learnStart (time : Nat)
  | learnEnd (time : Nat)
  /-- LEARN_TIMEOUT: 600 ms after the 3.0 V crossing (R55). -/
  | learnTimeout
  /-- SUPPLY_FAIL: VDD falls below 2.95 V (R117). -/
  | supplyFail
  /-- SUPPLY_RETURN: VDD rises above 3.10 V; the reading of V should RECALL be entered (R53, R117). -/
  | supplyReturn (millivolts : Nat)
  /-- CLOSING_MARK_WRITE_END: the verify agrees or differs; the reading of V should RECALL be entered (R124, R126). -/
  | closingMarkWriteEnd (verified : Bool) (millivolts : Nat)
  /-- RECALL_COMPLETION (R133). -/
  | recallCompletion
  /-- END_OF_SCAN (R142). -/
  | endOfScan
  /-- PSTORE_REQUEST: the supervisor held PSTORE# low for this many ns after a falling edge (R127). -/
  | pstoreRequest (lowNanoseconds : Nat)
  /-- CLOCK_TICK: the 32nd crystal edge (R108). -/
  | clockTick
  /-- CLOCK_TRANSFER_APPLICATION (R112). -/
  | clockTransferApplication
  /-- OSCILLATOR_STOP: 2 ms without an edge (R114). -/
  | oscillatorStop
  /-- OSCILLATOR_RESTART: an edge while STOPPED (R114). -/
  | oscillatorRestart
  /-- BATTERY_CROSSING: VBAT crosses 2.0 V, rising (`good`) or falling (R109). -/
  | batteryCrossing (good : Bool)
  /-- BATTERY_DOMAIN_LOSS: VBAT falls below 2.0 V in OFF (R108). -/
  | batteryDomainLoss
  /-- COMPLETION_RECORD_WRITE_END, STATUS_BLOCK_WRITE_END: the end of a channel's write to host memory, without
  error or with a host write error (R160, R161). -/
  | completionRecordWriteEnd (chan : ChanId) (ok : Bool)
  | statusBlockWriteEnd (chan : ChanId) (ok : Bool)
  /-- HOLDOFF_EXPIRY of a channel's holdoff timer (R162). -/
  | holdoffExpiry (chan : ChanId)
  /-- REPORT_WRITE_END, SNAPSHOT_WRITE_END: the end of channel 0's data write (R149, R170). -/
  | reportWriteEnd (ok : Bool)
  | snapshotWriteEnd (ok : Bool)
  deriving DecidableEq, Repr

end Sys2Proof
end

