-- ==== Sys2Proof/Decode.lean ====
section
/-! DEFINITION. Words that spell a command. No row of spec/opcode_table.json gives bits (every row's "fields" is empty and
none has "fixed"), so no word spells a command; the records that cross the link are read in Machine/Operands.lean.
-/
namespace Sys2Proof

/-- The command a word of `nbits` bits spells by the table's bits: none, because the table gives no row any bits. -/
def decodeTableWord (_nbits _w : Nat) : Option Instr := none

end Sys2Proof
end

