-- ==== Sys2Proof/Config.lean ====
section
/-! DEFINITION. The free values of the model: what the manual leaves open, as constants without a body.
Nothing in Lean can evaluate one or prove a value of it, so a claim that mentions one holds for every value.
-/
namespace Sys2Proof

/-- How many more bytes a store pass in WRITING has copied when another event writes into its segment or cuts
it short (R76, R81, R125: "stops at an arbitrary byte"). Applied to the state's counter of free values. Log entry 6. -/
opaque Config.freePosition : Nat → Nat

/-- The bytes a shadow segment holds after a pass whose verify failed (R76, R79: the copy cannot be trusted).
Applied to the counter of free values and the byte offset. Log entry 7. -/
opaque Config.freeByte : Nat → Nat → Byte

/-- Whether the slot of a checkpoint write cut short still holds its old contents: of a recovery checkpoint write at a supply
failure (R146: "invalid or holds the older checkpoint"), and of a background write being finished in EMERGENCY at the entry
to OFF (R125 has no row for it). Applied to the counter of free values. Log entry 8. -/
opaque Config.freeSlotSurvives : Nat → Bool

/-- The contents of the battery domain after VBAT fell below 2.0 V in OFF (R108: "then undefined").
Applied to the counter of free values: tick counter, epoch. Log entry 9. -/
opaque Config.freeTicks : Nat → Nat
opaque Config.freeEpoch : Nat → Nat
/-- The stop latch and the valid marker of a lost battery domain (R108). Log entry 9. -/
opaque Config.freeStopLatch : Nat → Bool
opaque Config.freeValidMarker : Nat → Bool

/-- How many bytes of a host write had reached the host when the write was abandoned (R119, R166: "stops at an arbitrary
byte"). Applied to the counter of free values and the write's place in the list of those in progress. Log entry 23. -/
opaque Config.freeCut : Nat → Nat → Nat

/-- Whether an interrupt message in progress when the transfers are abandoned was sent (R119: "either sent whole or not
sent"). Applied to the counter of free values. Log entry 23. -/
opaque Config.freeInterruptSent : Nat → Bool

/-- Whether a capacitance that is no whole number of µF is reported rounded up (R58, R170 give 16-bit and 32-bit
fields "in µF" and no rounding rule). Applied to the capacitance in twelfths of a µF. Log entry 10. -/
opaque Config.capacitanceRoundsUp : Nat → Bool

end Sys2Proof
end

