-- ==== Sys2Proof/Machine/State.lean ====
section
/-! DEFINITION. The state of the VL-2416 as plain data, block by block, and its value at reset (entry to RECALL, R132).
-/
namespace Sys2Proof.Machine

/-- Sparse bytes by address, in one canonical form (Memory.wf): addresses rising, no byte equal to 0, which is what an
unlisted address reads as. -/
abbrev Memory := List Host.Cell

/-- A timestamp: (epoch, ticks) (section 9 of 00_scope.md). -/
structure Stamp where
  epoch : Nat
  ticks : Nat
  deriving DecidableEq, Repr

/-- Device states (R117, R150). -/
inductive DeviceState where
  | off
  | recall
  | recover
  | ready
  | running
  | emergency
  | halted
  deriving DecidableEq, Repr

/-- Reasons of CTRL_FAULT and of channel faults (R150, R155). -/
inductive FaultReason where
  | badBase
  | ringRead
  | completionWrite
  | statusWrite
  | badIndex
  | badRetire
  deriving DecidableEq, Repr

/-- Request kinds (R174, section 11.1). -/
inductive Kind where
  | append
  | sealTxn
  | abort
  | read
  | flush
  | release
  | format
  | setClock
  | recoveryReport
  | openChannel
  | closeChannel
  | configure
  | query
  | alertWait
  deriving DecidableEq, Repr

/-- Status codes (section 11.6, R178). -/
inductive Status where
  | ok
  | invalid
  | notAllowed
  | busy
  | limit
  | hostReadError
  | hostWriteError
  | tooSmall
  | notFormatted
  | nvFault
  | seqExhausted
  | txnLimit
  | txnUnknown
  | txnExpired
  | txnTooLong
  | txnOpenInRange
  | range
  | released
  | discarded
  | notSealed
  | absent
  | cancelled
  | clockRegress
  deriving DecidableEq, Repr

/-- Alert kinds (R172). -/
inductive AlertKind where
  | exposed
  | exposureEnded
  | mediaFault
  | segmentRetired
  | journalFull
  | holdupFault
  | clockStopped
  | channelFault
  deriving DecidableEq, Repr

/-- A request record as read from its 64 bytes (section 11.1). `params` is the 32-byte parameter area. -/
structure Request where
  kind : Kind
  sealFlag : Bool
  storedFlag : Bool
  forceFlag : Bool
  newEpochFlag : Bool
  tag : Tag
  hostId : Nat
  seq : Nat
  addr : HostAddr
  length : Nat
  bufLength : Nat
  params : List Byte
  deriving DecidableEq, Repr

/-- Where an executing request stands (R27 for APPEND and SEAL; R22, R23, R87, R104, R106, R112, R149, R170 for the
others). `handed`: it has passed validation and awaits its owning block (R159). -/
inductive Stage where
  | handed
  | waitReservation
  | waitStaging
  | staging
  | held
  | waitReadBuffer
  | readWrite (seq : Nat) (stamp : Stamp) (bytes : Nat)
  | formatWait
  | formatCheckpoint
  | clockTransfer
  | reportWrite
  | snapshotWrite (storedThrough : Nat) (reading : Stamp)
  deriving DecidableEq, Repr

/-- A channel's executing request with what it holds (R28, R45). -/
structure Executing where
  req : Request
  stage : Stage
  waitReserved : Bool
  txnReserved : Bool
  deriving DecidableEq, Repr

/-- A completion record as the deciding block gives it (R160, section 11.3). `kindCode` is the kind byte as read. -/
structure Completion where
  tag : Tag
  kindCode : Byte
  status : Status
  deferred : Bool
  alertCode : Nat
  alertCount : Nat
  seq : Nat
  stamp : Stamp
  detail : Nat
  deriving DecidableEq, Repr

inductive ChannelState where
  | closed
  | active
  | draining
  | faulted
  deriving DecidableEq, Repr

/-- A channel's rings and status block; absent while CLOSED (R155). -/
structure RingSetup where
  reqAddr : HostAddr
  reqSlots : Nat
  cplAddr : HostAddr
  cplSlots : Nat
  statusAddr : HostAddr
  deriving DecidableEq, Repr

/-- The pending close of a channel: the waiting CLOSE_CHANNEL's tag and the records its FORCE cancelled (R168). -/
structure PendingClose where
  tag : Tag
  cancelled : Nat
  deriving DecidableEq, Repr

/-- One record of the channel table (R155, R168). -/
structure Channel where
  state : ChannelState
  setup : Option RingSetup
  reqConsumer : Nat
  hostProducer : Nat
  cplNext : Nat
  published : Nat
  hostConsumer : Nat
  inFlight : Nat
  exec : Option Executing
  vector : Nat
  threshold : Nat
  holdoff : Nat
  pendingInt : Nat
  holdoffTimer : Option Nat
  ageLimit : Nat
  faultReason : Option FaultReason
  pendingClose : Option PendingClose
  deriving DecidableEq, Repr

/-- The values of a CLOSED channel's record (R155). -/
def Channel.closed : Channel :=
  { state := .closed, setup := none, reqConsumer := 0, hostProducer := 0, cplNext := 0, published := 0,
    hostConsumer := 0, inFlight := 0, exec := none, vector := 0, threshold := 1, holdoff := 0, pendingInt := 0,
    holdoffTimer := none, ageLimit := 0, faultReason := none, pendingClose := none }

/-- Where a completion that has taken its slot stands: behind an earlier one, in its record write, or in its status
block write (R160). -/
inductive PostPhase where
  | queued
  | record
  | status
  deriving DecidableEq, Repr

/-- What a post needs of a channel that became CLOSED before it was posted. Log entry 14. -/
structure Detached where
  statusAddr : HostAddr
  reqConsumer : Nat
  cplSlots : Nat
  vector : Nat
  deriving DecidableEq, Repr

/-- A completion between its slot and the end of its post (R160). -/
structure Post where
  chan : ChanId
  slot : Nat
  addr : HostAddr
  completion : Completion
  phase : PostPhase
  detached : Option Detached
  deriving DecidableEq, Repr

/-- Why a status block write was begun (R161). `ignored`: nothing depends on its end. -/
inductive StatusPurpose where
  | post
  | postDetached
  | becameActive
  | ignored
  deriving DecidableEq, Repr

/-- A status block write in progress, or following one in progress on the same channel (R161). -/
structure StatusWrite where
  chan : ChanId
  addr : HostAddr
  purpose : StatusPurpose
  deriving DecidableEq, Repr

/-- What the link interface puts on the link: reads and writes of host memory, interrupt messages (log entry 15).
`abandoned`: every transfer in progress is abandoned (R119, R166), or at a channel fault the host writes that it drops
(R164). It lists each of these host writes with its address and how many of its bytes reach the host, and says whether an
interrupt message then in progress is sent: true at a channel fault (log entries 23 and 39). -/
inductive LinkAction where
  | read (addr : HostAddr) (length : Nat)
  | write (addr : HostAddr) (bytes : List Byte)
  | interrupt (vector : Nat)
  | abandoned (cuts : List (HostAddr × Nat)) (interruptSent : Bool)
  deriving DecidableEq, Repr

/-- A record of the alert list (R171). -/
structure AlertRecord where
  kind : AlertKind
  count : Nat
  seqValue : Nat
  detail : Nat
  stamp : Stamp
  deriving DecidableEq, Repr

structure ChannelController where
  chans : Vector Channel 16
  fetch : Option ChanId
  lastServed : ChanId
  fetchPaused : Bool
  alerts : List AlertRecord
  alertWaiters : List Tag
  posts : List Post
  statusWrites : List StatusWrite
  deriving DecidableEq, Repr

/-- The registers of the window and the latched control base (R150, R151). -/
structure Window where
  enable : Bool
  ctrlBaseLo : BitVec 32
  ctrlBaseHi : BitVec 32
  latchedBase : HostAddr
  ctrlFault : Option FaultReason
  deriving DecidableEq, Repr

/-- A claimed staging buffer (R29). -/
structure StagingBuffer where
  chan : ChanId
  data : List Byte
  deriving DecidableEq, Repr

structure Staging where
  buffers : List StagingBuffer
  waiters : List ChanId
  deriving DecidableEq, Repr

inductive SegState where
  | free
  | openS
  | full
  | freeing
  | failed
  | retired
  deriving DecidableEq, Repr

/-- A record of the segment table (R10). -/
structure Segment where
  state : SegState
  firstSeq : Option Nat
  lastSeq : Option Nat
  fill : Nat
  unstoredFrom : Option Nat
  inStore : Bool
  snapshot : Option Nat
  retry : Nat
  deriving DecidableEq, Repr

/-- The FREE form of R13. -/
def Segment.freeForm : Segment :=
  { state := .free, firstSeq := none, lastSeq := none, fill := 0, unstoredFrom := none, inStore := false,
    snapshot := none, retry := 0 }

/-- A claimed read buffer with its snapshot (R22, R23). -/
structure ReadBuffer where
  chan : ChanId
  data : List Byte
  deriving DecidableEq, Repr

structure Journal where
  segs : Vector Segment 512
  chain : List SegId
  sram : Memory
  nextSeq : Nat
  head : Nat
  format : BitVec 16
  formatted : Bool
  full : Bool
  readBuffers : List ReadBuffer
  readWaiters : List ChanId
  deriving DecidableEq, Repr

/-- A record of the transaction table (R43); `expired` is its state. -/
structure TxnRecord where
  serial : Nat
  chan : ChanId
  hostId : Nat
  expired : Bool
  count : Nat
  firstSeq : Nat
  lastSeq : Nat
  deadline : Option Nat
  deriving DecidableEq, Repr

structure TxnUnit where
  table : List TxnRecord
  nextSerial : Nat
  deriving DecidableEq, Repr

inductive HoldReason where
  | budget
  | space
  deriving DecidableEq, Repr

/-- A record of the held set (R35, R64). -/
structure HeldRecord where
  chan : ChanId
  tag : Tag
  reason : HoldReason
  footprint : Nat
  key : Option Nat
  deriving DecidableEq, Repr

structure Budget where
  b : Nat
  limit : Nat
  headroom : Nat
  held : List HeldRecord
  exposed : Bool
  pressure : Bool
  deriving DecidableEq, Repr

inductive ChargeState where
  | charging
  | charged
  | discharging
  deriving DecidableEq, Repr

inductive LearningState where
  | idle
  | waiting
  | timing
  | ended
  deriving DecidableEq, Repr

/-- The hold-up monitor (R53). Capacitances are in twelfths of a µF, so that C_cap = 50 mA × t ÷ 6.0 V is exact for t in
units of 10 µs; V in mV; device times in µs. -/
structure Monitor where
  charge : ChargeState
  learning : LearningState
  learned : Option Nat
  inUse : Nat
  v : Nat
  c : Nat
  chargeStart : Nat
  faultRaised : Bool
  sagStart : Option Nat
  sagRaised : Bool
  keptCrossing : Nat
  nextMeasurement : Nat
  deriving DecidableEq, Repr

inductive Slot where
  | a
  | b
  deriving DecidableEq, Repr

/-- A checkpoint (R89). A slot holds one or is not valid; its CRC-32 is that distinction (log entry 13). -/
structure Checkpoint where
  generation : BitVec 32
  format : BitVec 16
  head : Nat
  nextSeq : Nat
  nextSerial : Nat
  lastStamp : Option Stamp
  clockValid : Bool
  learned : Option Nat
  retired : List SegId
  failed : List SegId
  emergency : Bool
  dirtyAtEmergency : Nat
  exposedAtEmergency : Bool
  deriving DecidableEq, Repr

/-- A closing mark (R124). -/
structure ClosingMark where
  generation : BitVec 32
  storedCount : Nat
  failedList : List SegId
  overflow : Bool
  deriving DecidableEq, Repr

/-- The nonvolatile array operation in flight (R75, R93, R124). `written` is how many bytes the pass of a job has
copied: below 4096 its phase is WRITING, at 4096 VERIFYING (R76). `failures` counts failed tries. -/
inductive Operation where
  | job (seg : SegId) (written : Nat)
  | checkpoint (slot : Slot) (contents : Checkpoint) (failures : Nat)
  | closingMark (contents : ClosingMark) (failures : Nat)
  deriving DecidableEq, Repr

inductive WaitKind where
  | appendStored
  | appendExposed
  | flush
  deriving DecidableEq, Repr

/-- A waiting record of the wait list (R84, R85). -/
structure Waiter where
  chan : ChanId
  tag : Tag
  kind : WaitKind
  target : Nat
  seq : Nat
  stamp : Stamp
  reqKind : Kind
  serial : Nat
  index : Nat
  deriving DecidableEq, Repr

inductive LineStorePhase where
  | none
  | segments
  | checkpoint
  deriving DecidableEq, Repr

inductive EmergencyPhase where
  | none
  | finishing
  | checkpoint
  | segments
  | closing
  | ended
  deriving DecidableEq, Repr

structure StoreEngine where
  queue : List SegId
  op : Option Operation
  storedThrough : Nat
  waiting : List Waiter
  reservationWaiters : List ChanId
  metadataDirty : Bool
  jobsSinceDirty : Nat
  newest : Option (Slot × BitVec 32)
  idleDelay : Nat
  idleTimer : Option Nat
  lineStore : LineStorePhase
  phase : EmergencyPhase
  storedCount : Nat
  failedList : List SegId
  failedOverflow : Bool
  emergencyGeneration : BitVec 32
  handedD : Nat
  handedExposed : Bool
  deriving DecidableEq, Repr

/-- The nonvolatile array (section 4.7, R124, R133). -/
structure NvArray where
  shadow : Memory
  slotA : Option Checkpoint
  slotB : Option Checkpoint
  closing : Option ClosingMark
  deriving DecidableEq, Repr

/-- The supply monitor (R117, R127). -/
structure Supply where
  good : Bool
  latch : Bool
  driveLow : Bool
  deriving DecidableEq, Repr

/-- A pending SET_CLOCK transfer (R112). -/
structure Transfer where
  ticks : Nat
  newEpoch : Bool
  tag : Tag
  deriving DecidableEq, Repr

/-- The journal clock (R107), what R115 records for the decision of R116, and the level of the VBAT pin (R109). A stop
declared outside OFF is recorded in `stopRecorded` beside the one that R115 finds (DEDUCED, log entry 32). -/
structure Clock where
  ticks : Nat
  epoch : Nat
  intact : Bool
  stopLatch : Bool
  validMarker : Bool
  oscRunning : Bool
  batteryGood : Bool
  clockValid : Bool
  lastStamp : Option Stamp
  transfer : Option Transfer
  batteryHeld : Bool
  stopRecorded : Bool
  vbatGood : Bool
  deriving DecidableEq, Repr

inductive Outcome where
  | clean
  | incomplete
  | unformatted
  deriving DecidableEq, Repr

/-- The recovery report (R147). -/
structure Report where
  outcome : Outcome
  checkpointUsed : Option (Slot × BitVec 32)
  format : BitVec 16
  head : Nat
  nextSeq : Nat
  nextSerial : Nat
  liveEntries : Nat
  sealedTxns : Nat
  discardedTxns : Nat
  voidEntries : Nat
  absentRanges : List (Nat × Nat)
  absentOverflow : Bool
  absentTotal : Nat
  segmentsRetired : Nat
  unlistedFailures : Bool
  clockLost : Bool
  exposedAtLoss : Bool
  dirtyAtLoss : Nat
  storedAtLoss : Option Nat
  checkpointFailed : Bool
  deriving DecidableEq, Repr

/-- The recovery unit (R135, R136, R146, R147). `mark`: the closing mark whose stored count is reported; its failed list
is used only with a CLEAN outcome (R136). -/
structure Recovery where
  report : Option Report
  building : Option Report
  scanning : Bool
  slot : Option Slot
  checkpoint : Option Checkpoint
  outcome : Outcome
  mark : Option ClosingMark
  deriving DecidableEq, Repr

structure State where
  pending : List Instr
  now : Nat
  free : Nat
  out : List LinkAction
  device : DeviceState
  window : Window
  cc : ChannelController
  staging : Staging
  journal : Journal
  txns : TxnUnit
  budget : Budget
  monitor : Monitor
  store : StoreEngine
  array : NvArray
  supply : Supply
  clock : Clock
  recovery : Recovery
  deriving DecidableEq, Repr

/-- No step of this model ends in a fault: the manual gives every event of its table an effect in every state
(NOTES.md, Stops). The type has no constructor. -/
inductive Fault where
  deriving DecidableEq, Repr

/-- Reasons for a refusal. -/
inductive Refusal where
  /-- Raised only by an arm of exec whose command has no meaning yet; safe. No arm of this model uses it. -/
  | notModelled (mnemonic : String)
  deriving DecidableEq, Repr

abbrev Result := Host.Outcome State Fault Refusal

/-- The state right after reset: the entry to RECALL (R132) of a part supplied for the first time (log entry 4), with
V read as 0 mV, so that learning waits for the 3.0 V crossing (R55). Journal values that the manual leaves undefined
until recovery stand in their empty form (log entry 5). -/
def State.reset : State :=
  { pending := [], now := 0, free := 0, out := [], device := .recall,
    window := { enable := false, ctrlBaseLo := 0, ctrlBaseHi := 0, latchedBase := 0, ctrlFault := none },
    cc := { chans := Vector.replicate 16 Channel.closed, fetch := none, lastServed := 15, fetchPaused := false,
            alerts := [], alertWaiters := [], posts := [], statusWrites := [] },
    staging := { buffers := [], waiters := [] },
    journal := { segs := Vector.replicate 512 Segment.freeForm, chain := [], sram := [], nextSeq := 1, head := 0,
                 format := 0, formatted := false, full := false, readBuffers := [], readWaiters := [] },
    txns := { table := [], nextSerial := 1 },
    budget := { b := 0, limit := 512, headroom := 8, held := [], exposed := false, pressure := true },
    monitor := { charge := .charging, learning := .waiting, learned := none, inUse := 1200, v := 0, c := 0,
                 chargeStart := 0, faultRaised := false, sagStart := none, sagRaised := false, keptCrossing := 0,
                 nextMeasurement := 5000 },
    store := { queue := [], op := none, storedThrough := 0, waiting := [], reservationWaiters := [],
               metadataDirty := false, jobsSinceDirty := 0, newest := none, idleDelay := 20, idleTimer := none,
               lineStore := .none, phase := .none, storedCount := 0, failedList := [], failedOverflow := false,
               emergencyGeneration := 0, handedD := 0, handedExposed := false },
    array := { shadow := [], slotA := none, slotB := none, closing := none },
    supply := { good := true, latch := false, driveLow := false },
    clock := { ticks := 0, epoch := 0, intact := true, stopLatch := false, validMarker := false, oscRunning := true,
               batteryGood := true, clockValid := false, lastStamp := none, transfer := none, batteryHeld := false,
               stopRecorded := false, vbatGood := true },
    recovery := { report := none, building := none, scanning := false, slot := none, checkpoint := none,
                  outcome := .unformatted, mark := none } }

end Sys2Proof.Machine
end

