-- ==== Sys2Proof/Machine/Ops.lean ====
section
/-! DEFINITION. Named operations over memory, bytes, the segment table and the channel table.
-/
namespace Sys2Proof.Machine

/-! ### Memory -/

/-- The byte at an address; an unlisted address reads 0. -/
def Memory.read : Memory → Nat → Byte
  | [], _ => 0
  | (b, v) :: m, a => if b = a then v else Memory.read m a

/-- Put a byte in address order. -/
def Memory.insert (a : Nat) (v : Byte) : Memory → Memory
  | [] => [(a, v)]
  | (b, w) :: m =>
    if a < b then (a, v) :: (b, w) :: m
    else if a = b then (a, v) :: m
    else (b, w) :: Memory.insert a v m

/-- Write one byte, keeping the canonical form: writing 0 removes the entry. -/
def Memory.write (m : Memory) (a : Nat) (v : Byte) : Memory :=
  if v = 0 then m.filter (fun c => c.1 != a) else Memory.insert a v m

/-- Write bytes at ascending addresses. -/
def Memory.writeBytes : Memory → Nat → List Byte → Memory
  | m, _, [] => m
  | m, a, v :: vs => Memory.writeBytes (m.write a v) (a + 1) vs

/-- Read `n` bytes at ascending addresses. -/
def Memory.readBytes (m : Memory) (a : Nat) : Nat → List Byte
  | 0 => []
  | n + 1 => m.read a :: Memory.readBytes m (a + 1) n

/-- Set the bytes of `lo ≤ a < hi` to zero (R14). -/
def Memory.clear (m : Memory) (lo hi : Nat) : Memory :=
  m.filter (fun c => !(decide (lo ≤ c.1) && decide (c.1 < hi)))

/-- Copy the bytes of `lo ≤ a < hi` from `src` over `dst` (R76). -/
def Memory.copyRange (src dst : Memory) (lo hi : Nat) : Memory :=
  dst.filter (fun c => decide (c.1 < lo)) ++
    (src.filter (fun c => decide (lo ≤ c.1) && decide (c.1 < hi)) ++
      dst.filter (fun c => decide (hi ≤ c.1) && decide (lo ≤ c.1)))

/-- The canonical form: addresses strictly rising, no entry equal to what an unlisted address reads as. -/
abbrev Memory.wf (m : Memory) : Prop :=
  List.Pairwise (fun c d : Host.Cell => c.1 < d.1) m ∧ ∀ c ∈ m, c.2 ≠ 0

/-- The address of a segment's byte 0 (R9). -/
def segBase (i : SegId) : Nat := i.val * 4096

/-! ### Lists -/

/-- Change the first element that satisfies `p`. -/
def modifyFirst {α : Type} (p : α → Bool) (f : α → α) : List α → List α
  | [] => []
  | x :: xs => if p x then f x :: xs else x :: modifyFirst p f xs

/-- A stable sort by a key. -/
def sortByKey {α : Type} (key : α → Nat) : List α → List α
  | [] => []
  | x :: xs =>
    -- `x` goes before the equal keys of the rest, so equal keys keep their order
    let rest := sortByKey key xs
    rest.takeWhile (fun y => key y < key x) ++ x :: rest.dropWhile (fun y => key y < key x)

/-- The first `n` bytes, padded with zeros to `n`. -/
def fitBytes (n : Nat) (bytes : List Byte) : List Byte :=
  (bytes ++ List.replicate n 0).take n

/-! ### Little-endian fields (R174) -/

/-- The low `n` bytes of a value, least significant first. -/
def leBytes : Nat → Nat → List Byte
  | 0, _ => []
  | n + 1, v => BitVec.ofNat 8 v :: leBytes n (v / 256)

/-- The value of bytes, least significant first. -/
def leValue : List Byte → Nat
  | [] => 0
  | b :: bs => b.toNat + 256 * leValue bs

/-- The value of the `n`-byte field at an offset of a record. -/
def fieldAt (bytes : List Byte) (off n : Nat) : Nat := leValue ((bytes.drop off).take n)

/-- Bit `i` of a value, as a flag. -/
def bitAt (v i : Nat) : Bool := v.testBit i

/-- A flag placed at a bit position. -/
def flagBit (f : Bool) (i : Nat) : Nat := if f then 2 ^ i else 0

/-! ### CRC-32 (R3) -/

/-- One bit of the reflected division by the generator polynomial of R3. -/
def crcBit (r : BitVec 32) : BitVec 32 :=
  if r.getLsbD 0 then (r >>> 1) ^^^ 0xEDB88320#32 else r >>> 1

/-- One byte, least significant bit first. -/
def crcByte (r : BitVec 32) (b : Byte) : BitVec 32 :=
  crcBit (crcBit (crcBit (crcBit (crcBit (crcBit (crcBit (crcBit (r ^^^ b.setWidth 32))))))))

/-- The CRC-32 of R3: the register starts at all ones and the result is inverted. -/
def crc32 (bytes : List Byte) : BitVec 32 := ~~~ (bytes.foldl crcByte 0xFFFFFFFF#32)

/-! ### Timestamps -/

/-- Epoch first, then ticks (00_scope.md, section 9). -/
def Stamp.le (a b : Stamp) : Bool := a.epoch < b.epoch || (a.epoch == b.epoch && a.ticks ≤ b.ticks)

def Stamp.zero : Stamp := { epoch := 0, ticks := 0 }

/-- The greater of the stamps that are present (R116). -/
def Stamp.greater : Option Stamp → Option Stamp → Option Stamp
  | none, y => y
  | x, none => x
  | some a, some b => if Stamp.le a b then some b else some a

/-- The reading of the clock (R107). -/
def Clock.reading (c : Clock) : Stamp := { epoch := c.epoch, ticks := c.ticks }

/-! ### Segment table and channel table -/

/-- A table of 512 records from a function of the segment number. -/
def buildSegs (f : SegId → Segment) : Vector Segment 512 := ⟨⟨(List.finRange 512).map f⟩, by simp⟩

/-- A table of 16 records from a function of the channel number. -/
def buildChans (f : ChanId → Channel) : Vector Channel 16 := ⟨⟨(List.finRange 16).map f⟩, by simp⟩

def State.seg (s : State) (i : SegId) : Segment := s.journal.segs[i]

def State.setSeg (s : State) (i : SegId) (x : Segment) : State :=
  { s with journal.segs := s.journal.segs.set i x }

def State.chan (s : State) (c : ChanId) : Channel := s.cc.chans[c]

def State.setChan (s : State) (c : ChanId) (x : Channel) : State :=
  { s with cc.chans := s.cc.chans.set c x }

def State.modSeg (s : State) (i : SegId) (f : Segment → Segment) : State := s.setSeg i (f (s.seg i))

def State.modChan (s : State) (c : ChanId) (f : Channel → Channel) : State := s.setChan c (f (s.chan c))

/-- Record an action of the link interface, newest first. -/
def State.emit (s : State) (a : LinkAction) : State := { s with out := a :: s.out }

/-- The device timer stands at `t` or later: an event that the manual places at a device time is taken no earlier
than it (log entry 3). -/
def State.reachTime (s : State) (t : Nat) : State := { s with now := max s.now t }

/-! ### Fields of a channel's rings; 0 while absent -/

def Channel.reqSlots (ch : Channel) : Nat := (ch.setup.map RingSetup.reqSlots).getD 0
def Channel.cplSlots (ch : Channel) : Nat := (ch.setup.map RingSetup.cplSlots).getD 0
def Channel.reqAddr (ch : Channel) : HostAddr := (ch.setup.map RingSetup.reqAddr).getD 0
def Channel.cplAddr (ch : Channel) : HostAddr := (ch.setup.map RingSetup.cplAddr).getD 0
def Channel.statusAddr (ch : Channel) : HostAddr := (ch.setup.map RingSetup.statusAddr).getD 0

/-- Subtraction of ring indices modulo the ring's slots (section 9.2). -/
def ringDiff (a b slots : Nat) : Nat := (a + slots - b) % slots

end Sys2Proof.Machine
end

