-- ==== Sys2Proof/Machine/Flags.lean ====
section
/-! DEFINITION. Conditions and counts computed from State: D, the MEDIA_FAULT condition, free and covered segments,
reservations, pressure, credit, and the register window's reads.
-/
namespace Sys2Proof.Machine

/-! ### Segments -/

/-- A segment is dirty exactly when its unstored-from is present (R10). -/
def Segment.dirty (g : Segment) : Bool := g.unstoredFrom.isSome

/-- How many segments satisfy a test. -/
def State.countSegs (s : State) (p : Segment → Bool) : Nat := s.journal.segs.toList.countP p

/-- The dirty count D (R12). -/
def State.dirtyCount (s : State) : Nat := s.countSegs Segment.dirty

/-- The MEDIA_FAULT condition: at least one segment is FAILED (R103). -/
def State.mediaFault (s : State) : Bool := s.journal.segs.toList.any (fun g => g.state == .failed)

/-- The segments in a state, ascending: the failed set and the retired set of R89. -/
def State.segsIn (s : State) (st : SegState) : List SegId :=
  (List.finRange 512).filter (fun i => (s.seg i).state == st)

/-- The OPEN segment: when there is one, it is the tail of the chain (R17). -/
def State.openSegment (s : State) : Option SegId :=
  match s.journal.chain.getLast? with
  | some i => if (s.seg i).state = .openS then some i else none
  | none => none

/-- The append point (R14): the OPEN segment's number and fill. -/
def State.appendPoint (s : State) : Option (SegId × Nat) :=
  s.openSegment.map (fun i => (i, (s.seg i).fill))

/-- A segment is covered when its last seq is at or below head (R97, R98). -/
def Segment.coveredBy (g : Segment) (n : Nat) : Bool :=
  match g.lastSeq with
  | some l => l ≤ n
  | none => false

/-- The OPEN segment is covered and no store of it is in flight: it counts as FREE (R98). -/
def State.coveredOpenCounts (s : State) : Bool :=
  match s.openSegment with
  | some i => (s.seg i).coveredBy s.journal.head && !(s.seg i).inStore
  | none => false

/-- A segment counts as FREE (R62, R65, R98). -/
def State.freeExists (s : State) : Bool :=
  s.journal.segs.toList.any (fun g => g.state == .free) || s.coveredOpenCounts

/-- The lowest unstored-from among dirty segments. -/
def State.lowestUnstored (s : State) : Option Nat := (s.journal.segs.toList.filterMap Segment.unstoredFrom).min?

/-- S as R82 defines it. -/
def State.storedThroughNow (s : State) : Nat :=
  match s.lowestUnstored with
  | some u => u - 1
  | none => s.journal.nextSeq - 1

/-! ### Reservations (R28, R43, R84) -/

/-- How many executing requests satisfy a test. -/
def State.countExec (s : State) (p : Executing → Bool) : Nat :=
  s.cc.chans.toList.countP (fun ch => match ch.exec with | some r => p r | none => false)

/-- The reservation count of the transaction unit (R43). -/
def State.txnReservations (s : State) : Nat := s.countExec Executing.txnReserved

/-- Reserved records of the wait list (R84). -/
def State.waitReservations (s : State) : Nat := s.countExec Executing.waitReserved

/-- A wait-list record is free (R84: 128 records). -/
def State.waitRecordFree (s : State) : Bool := s.waitReservations + s.store.waiting.length < 128

/-- The transaction record of a key (R43). -/
def State.findTxn (s : State) (c : ChanId) (hostId : Nat) : Option TxnRecord :=
  s.txns.table.find? (fun t => t.chan == c && t.hostId == hostId)

/-! ### Device state -/

/-- READY or RUNNING. -/
def State.working (s : State) : Bool := s.device == .ready || s.device == .running

/-- The budget unit evaluates exposure and pressure: not in EMERGENCY or HALTED (R60, R118), nor in OFF. -/
def State.budgetLive (s : State) : Bool := !(s.device == .emergency || s.device == .halted || s.device == .off)

/-- FORMAT is accepted and waits: the store engine starts no further operation (R104). -/
def State.formatHold (s : State) : Bool :=
  match (s.chan 0).exec with
  | some r => r.stage == .formatWait
  | none => false

/-! ### Budget -/

/-- The level of the pressure signal (R68). -/
def State.pressureLevel (s : State) : Bool :=
  decide (s.dirtyCount + s.budget.headroom ≥ s.budget.b) || s.budget.held.any (fun h => h.reason == .budget)

/-- The capacity for a capacitance in twelfths of a µF and a voltage in mV (R57):
½ C (V² − 6.25) × 0.75 − 1.2 mJ, over 60 µJ, rounded down and clamped, in exact integers. -/
def capacity (inUse v : Nat) : Nat :=
  let energy := inUse * (v * v - 6250000)
  if energy < 38400000000 then 0 else min 512 ((energy - 38400000000) / 1920000000)

/-- A capacitance in whole µF; when it is no whole number, the rounding is free (log entry 10). -/
def microfarads (twelfths : Nat) : Nat :=
  if twelfths % 12 = 0 then twelfths / 12
  else twelfths / 12 + (if Config.capacitanceRoundsUp twelfths then 1 else 0)

/-! ### Channels -/

/-- The unretired count (R155). -/
def Channel.unretired (ch : Channel) : Nat := ringDiff ch.cplNext ch.hostConsumer ch.cplSlots

/-- Pending records (R153). -/
def Channel.pendingRecords (ch : Channel) : Nat := ringDiff ch.hostProducer ch.reqConsumer ch.reqSlots

/-- Credit (R158). -/
def Channel.credit (ch : Channel) : Bool := ch.inFlight + ch.unretired + 1 ≤ ch.cplSlots - 1

/-- ACTIVE or DRAINING. -/
def Channel.live (ch : Channel) : Bool := ch.state == .active || ch.state == .draining

/-- A channel is eligible for fetch (R157), but for the fetch in flight, which the arbiter tests. -/
def State.eligible (s : State) (c : ChanId) : Bool :=
  let ch := s.chan c
  s.device == .running && !s.cc.fetchPaused && ch.state == .active && decide (0 < ch.pendingRecords) && ch.credit &&
    ch.exec.isNone

/-! ### The register window (R150, R152) -/

def Window.base (w : Window) : HostAddr := w.ctrlBaseHi ++ w.ctrlBaseLo

/-- A control base is valid when it is nonzero and its low 12 bits are zero (R150). -/
def Window.baseValid (w : Window) : Bool := w.base != 0 && w.base.extractLsb' 0 12 == 0

/-- Device state codes of DEVSTAT (R150); in OFF the window does not answer. -/
def DeviceState.code : DeviceState → Nat
  | .off => 0
  | .recall => 1
  | .recover => 2
  | .ready => 3
  | .running => 4
  | .emergency => 5
  | .halted => 6

/-- Fault reason codes (R150); 0 for none. -/
def FaultReason.code : FaultReason → Nat
  | .badBase => 1
  | .ringRead => 2
  | .completionWrite => 3
  | .statusWrite => 4
  | .badIndex => 5
  | .badRetire => 6

def reasonCode (r : Option FaultReason) : Nat := (r.map FaultReason.code).getD 0

/-- DEVSTAT (R150, R152). -/
def State.devstat (s : State) : BitVec 32 :=
  BitVec.ofNat 32 (s.device.code + flagBit s.window.ctrlFault.isSome 4 + reasonCode s.window.ctrlFault * 256)

/-- What a 32-bit read of the window at an offset returns; none in OFF, where the window does not answer (R150). -/
def State.readWindow (s : State) (offset : BitVec 12) : Option (BitVec 32) :=
  if s.device = .off then none
  else if offset = 0x000 then some (if s.window.enable then 1 else 0)
  else if offset = 0x004 then some s.devstat
  else if offset = 0x008 then some s.window.ctrlBaseLo
  else if offset = 0x00C then some s.window.ctrlBaseHi
  else some 0

/-- A read of another width returns the bytes of the 32-bit register it covers (R150): the byte at one offset. -/
def State.readWindowByte (s : State) (offset : BitVec 12) : Option Byte :=
  (s.readWindow (offset &&& 0xFFC)).map (fun w => w.extractLsb' (8 * (offset.toNat % 4)) 8)

end Sys2Proof.Machine
end

