-- ==== Sys2Proof/Machine/Operands.lean ====
section
/-! DEFINITION. The records that cross the link (11_record_formats_and_status_codes.md): reading a request record,
record validation, and the bytes of every record the part writes.
-/
namespace Sys2Proof.Machine

/-! ### Codes (R174, R178) -/

def Kind.code : Kind → Nat
  | .append => 0x01
  | .sealTxn => 0x02
  | .abort => 0x03
  | .read => 0x04
  | .flush => 0x05
  | .release => 0x06
  | .format => 0x10
  | .setClock => 0x11
  | .recoveryReport => 0x12
  | .openChannel => 0x13
  | .closeChannel => 0x14
  | .configure => 0x15
  | .query => 0x16
  | .alertWait => 0x17

def Kind.ofCode (n : Nat) : Option Kind :=
  [Kind.append, .sealTxn, .abort, .read, .flush, .release, .format, .setClock, .recoveryReport, .openChannel,
    .closeChannel, .configure, .query, .alertWait].find? (fun k => k.code == n)

def Status.code : Status → Nat
  | .ok => 0
  | .invalid => 1
  | .notAllowed => 2
  | .busy => 3
  | .limit => 4
  | .hostReadError => 5
  | .hostWriteError => 6
  | .tooSmall => 7
  | .notFormatted => 8
  | .nvFault => 9
  | .seqExhausted => 10
  | .txnLimit => 11
  | .txnUnknown => 12
  | .txnExpired => 13
  | .txnTooLong => 14
  | .txnOpenInRange => 15
  | .range => 16
  | .released => 17
  | .discarded => 18
  | .notSealed => 19
  | .absent => 20
  | .cancelled => 21
  | .clockRegress => 22

def AlertKind.code : AlertKind → Nat
  | .exposed => 1
  | .exposureEnded => 2
  | .mediaFault => 3
  | .segmentRetired => 4
  | .journalFull => 5
  | .holdupFault => 6
  | .clockStopped => 7
  | .channelFault => 8

def ChannelState.code : ChannelState → Nat
  | .closed => 0
  | .active => 1
  | .draining => 2
  | .faulted => 3

def Slot.code : Slot → Nat
  | .a => 1
  | .b => 2

/-! ### Reading a request record (section 11.1) -/

def parseRequest (k : Kind) (b : List Byte) : Request :=
  let flags := fieldAt b 1 1
  { kind := k, sealFlag := bitAt flags 0, storedFlag := bitAt flags 1, forceFlag := bitAt flags 2,
    newEpochFlag := bitAt flags 3, tag := BitVec.ofNat 16 (fieldAt b 2 2), hostId := fieldAt b 4 2,
    seq := fieldAt b 8 6, addr := BitVec.ofNat 64 (fieldAt b 16 8), length := fieldAt b 24 4,
    bufLength := fieldAt b 28 4, params := fitBytes 32 (b.drop 32) }

/-- A field of the parameter area, by its offset in the record. -/
def Request.param (r : Request) (off n : Nat) : Nat := fieldAt r.params (off - 32) n

/-- The entry a request asks for ends its transaction: a SEAL request, or an APPEND with the SEAL flag (R2). -/
def Request.final (r : Request) : Bool := r.kind == .sealTxn || r.sealFlag

/-! ### Record validation (R175, R176) -/

/-- Kinds allowed on a channel (R159, section 10.1). -/
def Kind.allowedOn (k : Kind) (c : ChanId) : Bool :=
  match k with
  | .append | .sealTxn | .abort | .read | .flush => c != 0
  | .release => true
  | .format | .setClock | .recoveryReport | .openChannel | .closeChannel | .configure | .query | .alertWait => c == 0

/-- Flag bits a kind allows (R176): bit 0 SEAL, 1 STORED, 2 FORCE, 3 NEW_EPOCH. -/
def Kind.allowedFlags : Kind → Nat
  | .append => 3
  | .sealTxn => 2
  | .closeChannel => 4
  | .setClock => 8
  | _ => 0

def between (lo v hi : Nat) : Bool := decide (lo ≤ v) && decide (v ≤ hi)

/-- An age limit's values: 0, or 10 to 600,000 ms (R167). -/
def ageLimitValid (v : Nat) : Bool := v == 0 || between 10 v 600000

/-- The host transaction id a kind admits: nonzero under the SEAL flag, for SEAL and for ABORT (R176). -/
def Kind.hostIdAllowed (k : Kind) (sealFlag : Bool) (hostId : Nat) : Bool :=
  match k with
  | .append => !sealFlag || hostId != 0
  | .sealTxn | .abort => hostId != 0
  | _ => hostId == 0

/-- The seq argument a kind admits (R176). -/
def Kind.seqAllowed (k : Kind) (seqArg : Nat) : Bool :=
  match k with
  | .read => seqArg != 0
  | .release => true
  | _ => seqArg == 0

/-- The host address a kind admits: any, or zero (R176). -/
def Kind.addrAllowed (k : Kind) (addr : Nat) : Bool :=
  match k with
  | .append | .read | .recoveryReport | .query => true
  | _ => addr == 0

/-- The length a kind admits (R176). -/
def Kind.lengthAllowed (k : Kind) (len : Nat) : Bool :=
  match k with
  | .append => between 1 len 4064
  | _ => len == 0

/-- The host buffer length a kind admits: any, or zero (R176). -/
def Kind.bufLengthAllowed (k : Kind) (len : Nat) : Bool :=
  match k with
  | .read | .recoveryReport | .query => true
  | _ => len == 0

/-- The fields before the parameter area: each with its offset and whether its value is allowed (R176). The seq argument
is one field of 8 bytes, whose bytes 14 and 15 are reserved (section 11.1). -/
def headChecks (k : Kind) (b : List Byte) : List (Nat × Bool) :=
  [ (1, fieldAt b 1 1 &&& (255 - k.allowedFlags) == 0),
    (4, k.hostIdAllowed (bitAt (fieldAt b 1 1) 0) (fieldAt b 4 2)),
    (6, fieldAt b 6 2 == 0),
    (8, k.seqAllowed (fieldAt b 8 6) && fieldAt b 14 2 == 0),
    (16, k.addrAllowed (fieldAt b 16 8)),
    (24, k.lengthAllowed (fieldAt b 24 4)),
    (28, k.bufLengthAllowed (fieldAt b 28 4)) ]

/-- The parameters of OPEN_CHANNEL (R167, section 11.1). -/
def openChecks (b : List Byte) : List (Nat × Bool) :=
  [ (32, fieldAt b 32 8 != 0 && fieldAt b 32 8 % 64 == 0),
    (40, fieldAt b 40 8 != 0 && fieldAt b 40 8 % 32 == 0),
    (48, fieldAt b 48 8 != 0 && fieldAt b 48 8 % 16 == 0),
    (56, fieldAt b 56 1 % 16 != 0),
    (57, between 1 (fieldAt b 57 1) 32),
    (58, between 4 (fieldAt b 58 1 % 16) 12 && between 4 (fieldAt b 58 1 / 16) 12),
    (59, fieldAt b 59 2 ≤ 4095),
    (61, ageLimitValid (fieldAt b 61 3)) ]

/-- The parameters of CONFIGURE (R169, R176): an unselected value must be zero. -/
def configureChecks (b : List Byte) : List (Nat × Bool) :=
  let sel := fieldAt b 32 1
  let named := bitAt sel 3 || bitAt sel 4 || bitAt sel 5 || bitAt sel 6
  let value (bit off n : Nat) (valid : Nat → Bool) : Nat × Bool :=
    (off, if bitAt sel bit then valid (fieldAt b off n) else fieldAt b off n == 0)
  [ (32, sel != 0 && decide (sel < 128)),
    (33, if named then between 1 (fieldAt b 33 1) 15 else fieldAt b 33 1 == 0),
    value 0 34 2 (fun v => between 1 v 512),
    value 1 36 1 (fun v => v ≤ 64),
    value 3 37 1 (fun v => v ≤ 15),
    value 4 38 1 (fun v => between 1 v 32),
    (39, fieldAt b 39 1 == 0),
    value 2 40 2 (fun v => between 1 v 1000),
    value 5 42 2 (fun v => v ≤ 4095),
    value 6 44 4 ageLimitValid,
    (48, fieldAt b 48 16 == 0) ]

/-- The parameter area of a kind (R176). T of SET_CLOCK is one field of 8 bytes, with bytes 38 and 39 reserved (section
11.1). Reserved bytes that a layout leaves together are one field (log entry 16). -/
def paramChecks (k : Kind) (b : List Byte) : List (Nat × Bool) :=
  match k with
  | .openChannel => openChecks b
  | .closeChannel => [(32, between 1 (fieldAt b 32 1) 15), (33, fieldAt b 33 31 == 0)]
  | .configure => configureChecks b
  | .setClock => [(32, fieldAt b 38 2 == 0), (40, fieldAt b 40 24 == 0)]
  | _ => [(32, fieldAt b 32 32 == 0)]

/-- The offset of the failing field of lowest offset (R175, test 3). -/
def failingOffset (k : Kind) (b : List Byte) : Option Nat :=
  ((headChecks k b ++ paramChecks k b).find? (fun x => !x.2)).map Prod.fst

inductive Validation where
  | passed (r : Request)
  | refused (status : Status) (detail : Nat)
  deriving DecidableEq, Repr

/-- Record validation, its tests in order (R175). -/
def validateRecord (c : ChanId) (b : List Byte) : Validation :=
  match Kind.ofCode (fieldAt b 0 1) with
  | none => .refused .invalid 0
  | some k =>
    if k.allowedOn c then
      match failingOffset k b with
      | some off => .refused .invalid off
      | none => .passed (parseRequest k b)
    else .refused .notAllowed c.val

/-! ### Records the part writes -/

/-- A timestamp: 2-byte epoch and 6-byte ticks (R174). -/
def stampBytes (t : Stamp) : List Byte := leBytes 2 t.epoch ++ leBytes 6 t.ticks

/-- The 32-byte completion record (section 11.3). -/
def completionBytes (x : Completion) : List Byte :=
  leBytes 2 x.tag.toNat ++ x.kindCode :: leBytes 1 x.status.code ++ leBytes 1 (flagBit x.deferred 0) ++
    leBytes 1 x.alertCode ++ leBytes 1 x.alertCount ++ leBytes 1 0 ++ leBytes 8 x.seq ++ stampBytes x.stamp ++
    leBytes 8 x.detail

/-- The 16-byte status block (section 11.5). -/
def statusBytes (consumer published : Nat) (st : ChannelState) (reason : Option FaultReason) : List Byte :=
  leBytes 2 consumer ++ leBytes 2 published ++ leBytes 1 st.code ++ leBytes 1 (reasonCode reason) ++
    List.replicate 10 0

/-- A completion of a request with its tag and kind, and no alert fields. -/
def Request.completion (r : Request) (status : Status) (seq : Nat) (stamp : Stamp) (detail : Nat) : Completion :=
  { tag := r.tag, kindCode := BitVec.ofNat 8 r.kind.code, status := status, deferred := false, alertCode := 0,
    alertCount := 0, seq := seq, stamp := stamp, detail := detail }

/-- A refusal before any effect: seq 0 and timestamp zero. -/
def Request.refusal (r : Request) (status : Status) (detail : Nat) : Completion :=
  r.completion status 0 Stamp.zero detail

/-- The detail of an APPEND or SEAL: serial in bytes 0 to 3, index in bytes 4 and 5 (section 11.3). -/
def entryDetail (serial index : Nat) : Nat := serial + index * 2 ^ 32

/-- The detail of a CLOSE_CHANNEL (section 11.3). -/
def closeDetail (c : ChanId) (from_ : ChannelState) (reason : Option FaultReason) (cancelled : Nat) : Nat :=
  c.val + from_.code * 2 ^ 8 + reasonCode reason * 2 ^ 16 + cancelled * 2 ^ 32

/-- The completion of a waiting record (R85, R88); for a FLUSH the detail is S at the posting. -/
def Waiter.completion (w : Waiter) (status : Status) (storedThrough : Nat) : Completion :=
  { tag := w.tag, kindCode := BitVec.ofNat 8 w.reqKind.code, status := status, deferred := true, alertCode := 0,
    alertCount := 0, seq := w.seq, stamp := w.stamp,
    detail := if w.kind = .flush then storedThrough else entryDetail w.serial w.index }

/-- The completion of an ALERT_WAIT (R173). -/
def AlertRecord.completion (a : AlertRecord) (tag : Tag) (deferred : Bool) : Completion :=
  { tag := tag, kindCode := BitVec.ofNat 8 Kind.alertWait.code, status := .ok, deferred := deferred,
    alertCode := a.kind.code, alertCount := a.count, seq := a.seqValue, stamp := a.stamp, detail := a.detail }

/-! ### The query snapshot (R170, section 11.5) -/

def LineStorePhase.code : LineStorePhase → Nat
  | .none => 0
  | .segments => 1
  | .checkpoint => 2

/-- The flag word at offset 4 of the snapshot. -/
def State.snapshotFlags (s : State) : Nat :=
  flagBit s.budget.exposed 0 + flagBit s.mediaFault 1 + flagBit s.store.metadataDirty 2 +
    flagBit (s.budget.held.any (fun h => h.reason == .budget)) 3 + flagBit s.journal.full 4 +
    flagBit s.clock.clockValid 5 + flagBit (!s.clock.oscRunning) 6 + flagBit (!s.clock.batteryGood) 7 +
    flagBit s.clock.lastStamp.isSome 8 + s.store.lineStore.code * 2 ^ 9

/-- Bytes 0 to 31 of the snapshot: states, flags, head, next seq, S. -/
def State.snapshotJournal (s : State) : List Byte :=
  leBytes 1 s.device.code ++ leBytes 1 (flagBit s.journal.formatted 0) ++ leBytes 2 s.journal.format.toNat ++
    leBytes 4 s.snapshotFlags ++ leBytes 8 s.journal.head ++ leBytes 8 s.journal.nextSeq ++
    leBytes 8 s.store.storedThrough

/-- Bytes 32 to 49: D, B, C, L, H, held set, reservation waiters, alerts, V, capacitances. -/
def State.snapshotBudget (s : State) : List Byte :=
  leBytes 2 s.dirtyCount ++ leBytes 2 s.budget.b ++ leBytes 2 s.monitor.c ++ leBytes 2 s.budget.limit ++
    leBytes 1 s.budget.headroom ++ leBytes 1 s.budget.held.length ++ leBytes 1 s.store.reservationWaiters.length ++
    leBytes 1 s.cc.alerts.length ++ leBytes 2 s.monitor.v ++ leBytes 2 (microfarads s.monitor.inUse) ++
    leBytes 2 ((s.monitor.learned.map microfarads).getD 0)

/-- Bytes 50 to 63: segment counts, transaction records, alert waiters, wait list. -/
def State.snapshotCounts (s : State) : List Byte :=
  leBytes 2 (s.countSegs (fun g => g.state == .free)) ++ leBytes 2 (s.countSegs (fun g => g.state == .retired)) ++
    leBytes 2 (s.countSegs (fun g => g.state == .failed)) ++ leBytes 2 s.journal.chain.length ++
    leBytes 1 (s.txns.table.countP (fun t => !t.expired)) ++ leBytes 1 (s.txns.table.countP (fun t => t.expired)) ++
    leBytes 1 s.txnReservations ++ leBytes 1 s.cc.alertWaiters.length ++ leBytes 1 s.waitReservations ++
    leBytes 1 s.store.waiting.length

/-- The 128 bytes of the query snapshot. -/
def State.snapshotBytes (s : State) : List Byte :=
  s.snapshotJournal ++ s.snapshotBudget ++ s.snapshotCounts ++ stampBytes s.clock.reading ++
    stampBytes (s.clock.lastStamp.getD Stamp.zero) ++ List.replicate 48 0

/-! ### The recovery report (R147, section 11.5) -/

def Outcome.code : Outcome → Nat
  | .clean => 1
  | .incomplete => 2
  | .unformatted => 3

def rangeBytes (r : Nat × Nat) : List Byte := leBytes 8 r.1 ++ leBytes 8 r.2

/-- The flag byte at offset 2 of the report. -/
def Report.flags (r : Report) : Nat :=
  flagBit r.absentOverflow 0 + flagBit r.unlistedFailures 1 + flagBit r.exposedAtLoss 2 + flagBit r.clockLost 3 +
    flagBit r.checkpointFailed 4 + flagBit r.storedAtLoss.isSome 5

/-- Bytes 0 to 15 of the report: outcome, slot, flags, generation, format, segments retired, counts at the loss. -/
def Report.lossBytes (r : Report) : List Byte :=
  leBytes 1 r.outcome.code ++ leBytes 1 ((r.checkpointUsed.map (fun x => x.1.code)).getD 0) ++ leBytes 1 r.flags ++
    leBytes 1 0 ++ leBytes 4 ((r.checkpointUsed.map (fun x => x.2.toNat)).getD 0) ++ leBytes 2 r.format.toNat ++
    leBytes 2 r.segmentsRetired ++ leBytes 2 r.dirtyAtLoss ++ leBytes 2 (r.storedAtLoss.getD 0)

/-- Bytes 16 to 71: head, next seq, next serial, transactions, entries, absent total. -/
def Report.countBytes (r : Report) : List Byte :=
  leBytes 8 r.head ++ leBytes 8 r.nextSeq ++ leBytes 4 r.nextSerial ++ leBytes 4 r.sealedTxns ++
    leBytes 4 r.discardedTxns ++ leBytes 4 0 ++ leBytes 8 r.liveEntries ++ leBytes 8 r.voidEntries ++
    leBytes 8 r.absentTotal

/-- The 256 bytes of a recovery report. -/
def Report.bytes (r : Report) : List Byte :=
  r.lossBytes ++ r.countBytes ++ fitBytes 128 (r.absentRanges.flatMap rangeBytes) ++ List.replicate 56 0

/-- The report's bytes; a report that is absent is all zero (R177). -/
def Recovery.reportBytes (r : Recovery) : List Byte :=
  (r.report.map Report.bytes).getD (List.replicate 256 0)

/-! ### The entry header (section 11.4, R1, R4) -/

structure Header where
  format : BitVec 16
  stateByte : Byte
  sealFlag : Bool
  clockValid : Bool
  channel : Nat
  length : Nat
  seq : Nat
  hostId : Nat
  serial : Nat
  index : Nat
  stamp : Stamp
  crc : BitVec 32
  deriving DecidableEq, Repr

/-- State byte codes: 1 LIVE, 2 VOID. -/
def liveByte : Byte := 1
def voidByte : Byte := 2

def parseHeader (b : List Byte) : Header :=
  let flags := fieldAt b 3 1
  { format := BitVec.ofNat 16 (fieldAt b 0 2), stateByte := BitVec.ofNat 8 (fieldAt b 2 1), sealFlag := bitAt flags 0,
    clockValid := bitAt flags 1, channel := flags / 16, length := fieldAt b 4 2, seq := fieldAt b 6 6,
    hostId := fieldAt b 12 2, serial := fieldAt b 14 4, index := fieldAt b 18 2,
    stamp := { epoch := fieldAt b 20 2, ticks := fieldAt b 22 6 }, crc := BitVec.ofNat 32 (fieldAt b 28 4) }

/-- The 28 header bytes before the CRC-32 field. -/
def Header.bodyBytes (h : Header) : List Byte :=
  leBytes 2 h.format.toNat ++ h.stateByte ::
    leBytes 1 (flagBit h.sealFlag 0 + flagBit h.clockValid 1 + h.channel * 16) ++ leBytes 2 h.length ++
    leBytes 6 h.seq ++ leBytes 2 h.hostId ++ leBytes 4 h.serial ++ leBytes 2 h.index ++ stampBytes h.stamp

def Header.bytes (h : Header) : List Byte := h.bodyBytes ++ leBytes 4 h.crc.toNat

/-- The check value of R3: the header bytes without the state byte and the CRC field, then the payload. -/
def entryCrc (headerBytes payload : List Byte) : BitVec 32 :=
  crc32 (headerBytes.take 2 ++ ((headerBytes.drop 3).take 25 ++ payload))

/-- The footprint of a payload length (R4). -/
def footprint (length : Nat) : Nat := 32 + (length + 31) / 32 * 32

end Sys2Proof.Machine
end

