-- ==== Sys2Proof/Machine/Posting.lean ====
section
/-! DEFINITION. Shared operations of the channel controller: interrupts, status blocks, posting of completions, drains,
alerts (09, R156 to R162; 10, R171).
-/
namespace Sys2Proof.Machine

/-! ### Interrupts (R162) -/

/-- Send the channel's interrupt: one message with its vector; the count becomes 0 and the timer stops. -/
def sendInterrupt (c : ChanId) (s : State) : State :=
  (s.modChan c (fun ch => { ch with pendingInt := 0, holdoffTimer := none })).emit (.interrupt (s.chan c).vector)

/-- A completion has been posted on the channel: coalescing takes it (R162). -/
def coalesce (c : ChanId) (s : State) : State :=
  let ch := s.chan c
  let count := ch.pendingInt + 1
  let s := s.modChan c (fun ch => { ch with pendingInt := count })
  if ch.threshold ≤ count ∨ ch.holdoff = 0 then sendInterrupt c s
  else if count = 1 then s.modChan c (fun ch => { ch with holdoffTimer := some (s.now + ch.holdoff) })
  else s

/-! ### Status block (R161) -/

/-- The status block of a channel as its record stands. -/
def Channel.statusBlock (ch : Channel) : List Byte :=
  statusBytes ch.reqConsumer ch.published ch.state ch.faultReason

/-- Begin a status block write; it carries the record as it stands, and follows a write in progress (R161). It follows one
of the same channel, also when that is of the status block the channel had before it was opened again (DESIGN CHOICE, log
entry 44). -/
def beginStatusWrite (c : ChanId) (purpose : StatusPurpose) (addr : HostAddr) (bytes : List Byte) (s : State) : State :=
  let s := { s with
    cc.statusWrites := s.cc.statusWrites ++ [({ chan := c, addr := addr, purpose := purpose } : StatusWrite)] }
  s.emit (.write addr bytes)

/-- Begin a write of the channel's own status block. -/
def writeStatus (c : ChanId) (purpose : StatusPurpose) (s : State) : State :=
  beginStatusWrite c purpose (s.chan c).statusAddr (s.chan c).statusBlock s

/-! ### Abandoned transfers (R119, R166) -/

/-- The write of a request's data to host memory, in progress (R23, R149, R170): its address and its length. -/
def Executing.hostWrite (r : Executing) : Option (HostAddr × Nat) :=
  match r.stage with
  | .readWrite _ _ bytes => some (r.req.addr, bytes)
  | .reportWrite => some (r.req.addr, 256)
  | .snapshotWrite _ _ => some (r.req.addr, 128)
  | .handed | .waitReservation | .waitStaging | .staging | .held | .waitReadBuffer | .formatWait | .formatCheckpoint
  | .clockTransfer => none

/-- The status block writes and how many of their bytes may have reached the host: 16 of the first on its channel, none
of one that follows another in progress (R161). R161 orders the writes of one status block; that the writes of one channel are
ordered alike when it was opened again with another status block address is the model's choice (log entry 44). -/
def statusLimits : List ChanId → List StatusWrite → List (HostAddr × Nat)
  | _, [] => []
  | seen, w :: ws => (w.addr, if seen.contains w.chan then 0 else 16) :: statusLimits (w.chan :: seen) ws

/-- The host writes in progress: the data of requests, completion records, status blocks, each with how many of its
bytes may have reached the host (R119). -/
def State.hostWrites (s : State) : List (HostAddr × Nat) :=
  s.cc.chans.toList.filterMap (fun ch => ch.exec.bind Executing.hostWrite) ++
    ((s.cc.posts.filter (fun p => p.phase == .record)).map (fun p => (p.addr, 32)) ++
      statusLimits [] s.cc.statusWrites)

/-- Host writes stop, each at an arbitrary byte: a free value at most the bytes that may have reached the host. -/
def cutWrites (free : Nat) (writes : List (HostAddr × Nat)) : List (HostAddr × Nat) :=
  writes.zipIdx.map (fun x => (x.1.1, min x.1.2 (Config.freeCut free x.2)))

/-- Where the host writes in progress stop (R119, log entry 23). -/
def State.writeCuts (s : State) : List (HostAddr × Nat) := cutWrites s.free s.hostWrites

/-- Every transfer in progress is abandoned (R119, R166): each host write stops at an arbitrary byte, and an interrupt
message is sent whole or not at all. -/
def abandonTransfers (s : State) : State :=
  State.emit { s with free := s.free + 1 } (.abandoned s.writeCuts (Config.freeInterruptSent s.free))

/-- The host writes in progress that a fault of the channel drops: the data of its executing request, and the record of
a completion not yet posted, but for a record write whose error is the fault itself (R164). -/
def State.faultWrites (s : State) (c : ChanId) (reason : FaultReason) : List (HostAddr × Nat) :=
  ((s.chan c).exec.bind Executing.hostWrite).toList ++
    (if reason = .completionWrite then []
     else (s.cc.posts.filter (fun p => p.chan == c && p.detached.isNone && p.phase == .record)).map
       (fun p => (p.addr, 32)))

/-- A fault drops host writes in progress: how many of their bytes reach the host is a free value, up to all of them. For a
completion record this is R164's "abandoned unwritten"; whether the link carries on the data write of a dropped request
the manual does not say (the model's choice, log entry 39). Interrupt messages are not touched. -/
def dropWrites (c : ChanId) (reason : FaultReason) (s : State) : State :=
  match s.faultWrites c reason with
  | [] => s
  | w :: ws => State.emit { s with free := s.free + 1 } (.abandoned (cutWrites s.free (w :: ws)) true)

/-! ### Posting (R160) -/

/-- The channel's oldest unposted completion. -/
def State.firstPost (s : State) (c : ChanId) : Option Post := s.cc.posts.find? (fun p => p.chan == c)

/-- A completion has been posted whose channel had become CLOSED before (R156): coalescing takes it by the CLOSED record's
threshold 1 and holdoff 0, so its interrupt is sent now and nothing stays counted (R155, R162). The vector is the one that
the channel had (the model's choice, log entry 14). -/
def coalesceDetached (c : ChanId) (s : State) : State :=
  match (s.firstPost c).bind Post.detached with
  | some d => s.emit (.interrupt d.vector)
  | none => s

/-- Change the channel's oldest unposted completion. -/
def modFirstPost (c : ChanId) (f : Post → Post) (s : State) : State :=
  { s with cc.posts := modifyFirst (fun p => p.chan == c) f s.cc.posts }

/-- Step 2: when the channel's oldest unposted completion still waits, its record write begins. -/
def beginRecordWrite (c : ChanId) (s : State) : State :=
  match s.firstPost c with
  | some p =>
    if p.phase = .queued then
      (modFirstPost c (fun p => { p with phase := .record }) s).emit (.write p.addr (completionBytes p.completion))
    else s
  | none => s

/-- Step 1: a completion takes the slot at completion next slot; in-flight falls by one and with it unretired rises
by one (R158). A channel that is neither ACTIVE nor DRAINING takes none. -/
def takeSlot (c : ChanId) (x : Completion) (s : State) : State :=
  let ch := s.chan c
  if ch.live then
    let p : Post :=
      { chan := c, slot := ch.cplNext, addr := ch.cplAddr + BitVec.ofNat 64 (32 * ch.cplNext), completion := x,
        phase := .queued, detached := none }
    let s := s.setChan c { ch with cplNext := (ch.cplNext + 1) % ch.cplSlots, inFlight := ch.inFlight - 1 }
    beginRecordWrite c { s with cc.posts := s.cc.posts ++ [p] }
  else s

/-- Completions of a channel that becomes CLOSED keep what their posts need (log entry 14). -/
def detachPosts (c : ChanId) (s : State) : State :=
  let ch := s.chan c
  let d : Detached :=
    { statusAddr := ch.statusAddr, reqConsumer := ch.reqConsumer, cplSlots := ch.cplSlots, vector := ch.vector }
  { s with
    cc.posts := s.cc.posts.map (fun p =>
      if p.chan == c && p.detached.isNone then { p with detached := some d } else p),
    cc.statusWrites := s.cc.statusWrites.map (fun w =>
      if w.chan == c then
        match w.purpose with
        | .post => { w with purpose := .postDetached }
        | .becameActive => { w with purpose := .ignored }
        | _ => w
      else w) }

/-- At a fault, completions that have taken slots and are not yet posted are abandoned, and status block writes in
progress no longer post anything (R164). -/
def abandonPosts (c : ChanId) (s : State) : State :=
  { s with
    cc.posts := s.cc.posts.filter (fun p => !(p.chan == c && p.detached.isNone)),
    cc.statusWrites := s.cc.statusWrites.map (fun w =>
      if w.chan == c && w.purpose != .postDetached then { w with purpose := .ignored } else w) }

/-- The end of a drain (R156): the status block shows CLOSED, a pending interrupt is sent, the record takes its
CLOSED values, and the waiting CLOSE_CHANNEL completes (R168). -/
def closeDrained (c : ChanId) (s : State) : State :=
  let ch := s.chan c
  let s := beginStatusWrite c .ignored ch.statusAddr
    (statusBytes ch.reqConsumer ch.published .closed ch.faultReason) s
  let s := if 0 < ch.pendingInt then sendInterrupt c s else s
  let s := (detachPosts c s).setChan c Channel.closed
  match ch.pendingClose with
  | some pc =>
    takeSlot 0 { tag := pc.tag, kindCode := BitVec.ofNat 8 Kind.closeChannel.code, status := .ok, deferred := false,
                 alertCode := 0, alertCount := 0, seq := 0, stamp := Stamp.zero,
                 detail := closeDetail c .draining none pc.cancelled } s
  | none => s

/-- A DRAINING channel whose in-flight count is 0 becomes CLOSED (R156). -/
def drainCheck (c : ChanId) (s : State) : State :=
  if (s.chan c).state = .draining ∧ (s.chan c).inFlight = 0 then closeDrained c s else s

/-- Hand a completion for posting (R160), with the drain it may end. -/
def handCompletion (c : ChanId) (x : Completion) (s : State) : State := drainCheck c (takeSlot c x s)

/-! ### Alerts (R171, R172) -/

/-- Fold an occurrence into the alert list: the record of its kind counts it, or a record joins the tail. -/
def foldAlert (kind : AlertKind) (seqValue detail : Nat) (stamp : Stamp) (alerts : List AlertRecord) :
    List AlertRecord :=
  if alerts.any (fun a => a.kind == kind) then
    alerts.map (fun a =>
      if a.kind == kind then
        { a with count := min 255 (a.count + 1), seqValue := seqValue, detail := detail, stamp := stamp }
      else a)
  else alerts ++ [{ kind := kind, count := 1, seqValue := seqValue, detail := detail, stamp := stamp }]

/-- Post an alert (R171): its timestamp is the clock's reading at the posting. -/
def postAlert (kind : AlertKind) (seqValue detail : Nat) (s : State) : State :=
  match s.cc.alertWaiters with
  | tag :: rest =>
    takeSlot 0
      (AlertRecord.completion
        { kind := kind, count := 1, seqValue := seqValue, detail := detail, stamp := s.clock.reading } tag true)
      { s with cc.alertWaiters := rest }
  | [] => { s with cc.alerts := foldAlert kind seqValue detail s.clock.reading s.cc.alerts }

/-! ### Fetch (R157) -/

/-- The channels in the arbiter's order: last-served + 1 and on, wrapping, ending with the last-served itself. -/
def servingOrder (last : ChanId) : List ChanId :=
  (List.finRange 16).drop (last.val + 1) ++ (List.finRange 16).take (last.val + 1)

/-- The fetch arbiter (R157): with no fetch in flight it takes the first eligible channel, whose in-flight count rises
by one, and the read of its next record begins. -/
def fetchArbiter (s : State) : State :=
  match s.cc.fetch with
  | some _ => s
  | none =>
    match (servingOrder s.cc.lastServed).find? s.eligible with
    | none => s
    | some c =>
      let ch := s.chan c
      let s := { s with cc.fetch := some c, cc.lastServed := c }
      (s.setChan c { ch with inFlight := ch.inFlight + 1 }).emit
        (.read (ch.reqAddr + BitVec.ofNat 64 (64 * ch.reqConsumer)) 64)

end Sys2Proof.Machine
end

