-- ==== Sys2Proof/Machine/Store.lean ====
section
/-! DEFINITION. Shared operations of the store engine: the store queue, a pass's copying, S and the wait list, checkpoints,
the start of operations, the line store and the emergency sequence (04; 07, sections 7.3 and 7.4).
-/
namespace Sys2Proof.Machine

/-! ### The store queue (R71) -/

/-- A segment joins the queue's tail when it is OPEN or FULL, dirty, not queued and not in store (R71). -/
def queueSeg (i : SegId) (s : State) : State :=
  let g := s.seg i
  if (g.state = .openS ∨ g.state = .full) ∧ g.dirty ∧ !g.inStore ∧ i ∉ s.store.queue then
    { s with store.queue := s.store.queue ++ [i] }
  else s

/-- Queue the OPEN segment, subject to R71 (R73). -/
def queueOpen (s : State) : State :=
  match s.openSegment with
  | some i => queueSeg i s
  | none => s

/-! ### Copying by the pass in flight (R76, R34) -/

/-- Before an event writes into segment `i`, a pass in WRITING on it has copied up to a free position (log entry 6). -/
def advanceCopy (i : SegId) (s : State) : State :=
  match s.store.op with
  | some (.job j written) =>
    if j = i then
      let reached := min 4096 (written + Config.freePosition s.free)
      { s with
        array.shadow := Memory.copyRange s.journal.sram s.array.shadow (segBase i + written) (segBase i + reached),
        store.op := some (.job j reached), free := s.free + 1 }
    else s
  | _ => s

/-- Write bytes into a segment's SRAM, after the pass in flight has advanced. -/
def writeSegment (i : SegId) (off : Nat) (bytes : List Byte) (s : State) : State :=
  let s := advanceCopy i s
  { s with journal.sram := s.journal.sram.writeBytes (segBase i + off) bytes }

/-- The pass copies what it has not yet copied. -/
def finishCopy (i : SegId) (written : Nat) (s : State) : State :=
  { s with array.shadow :=
      Memory.copyRange s.journal.sram s.array.shadow (segBase i + written) (segBase i + 4096) }

/-- After a failed verify the shadow segment's bytes are free (log entry 7). -/
def spoilShadow (i : SegId) (s : State) : State :=
  { s with
    array.shadow := s.array.shadow.writeBytes (segBase i) ((List.range 4096).map (Config.freeByte s.free)),
    free := s.free + 1 }

/-! ### S and the wait list (R82, R83, R85) -/

/-- Hand the completion of a waiting record. -/
def completeWaiter (status : Status) (s : State) (w : Waiter) : State :=
  handCompletion w.chan (w.completion status s.store.storedThrough) s

/-- End every waiting record that satisfies `p`, in wait-list order, each freed at its posting. -/
def finishWaiters (p : Waiter → Bool) (status : Status) (s : State) : State :=
  let done := s.store.waiting.filter p
  done.foldl (completeWaiter status) { s with store.waiting := s.store.waiting.filter (fun w => !p w) }

/-- Recompute S and satisfy the waiters a rise of it covers (R82, R83). -/
def recomputeS (s : State) : State :=
  let old := s.store.storedThrough
  let new := s.storedThroughNow
  let s := { s with store.storedThrough := new }
  if old < new then finishWaiters (fun w => w.target ≤ new) .ok s else s

/-- Fill a wait-list record: it joins the tail, and the OPEN segment is queued when the target lies in it (R73, R84). -/
def fillWaiter (w : Waiter) (s : State) : State :=
  let s := { s with store.waiting := s.store.waiting ++ [w] }
  match s.openSegment with
  | some i =>
    let g := s.seg i
    if g.firstSeq.getD 0 ≤ w.target ∧ w.target ≤ g.lastSeq.getD 0 then queueSeg i s else s
  | none => s

/-! ### Checkpoints (R89 to R92) -/

/-- An event of R91 sets metadata-dirty; from clear it sets jobs since dirty to 0. -/
def setMetadataDirty (s : State) : State :=
  { s with store.metadataDirty := true,
           store.jobsSinceDirty := if s.store.metadataDirty then s.store.jobsSinceDirty else 0 }

/-- The slot and generation of the next checkpoint write (R90). -/
def State.nextSlot (s : State) : Slot × BitVec 32 :=
  match s.store.newest with
  | some (.a, g) => (.b, g + 1)
  | some (.b, g) => (.a, g + 1)
  | none => (.a, 1)

/-- The fields of a background checkpoint, as they stand (R89). -/
def State.backgroundCheckpoint (s : State) : Checkpoint :=
  { generation := s.nextSlot.2, format := s.journal.format, head := s.journal.head, nextSeq := s.journal.nextSeq,
    nextSerial := s.txns.nextSerial, lastStamp := s.clock.lastStamp, clockValid := s.clock.clockValid,
    learned := s.monitor.learned, retired := s.segsIn .retired, failed := s.segsIn .failed, emergency := false,
    dirtyAtEmergency := 0, exposedAtEmergency := false }

/-- Start a background checkpoint write (R92). -/
def startCheckpoint (s : State) : State :=
  { s with store.op := some (.checkpoint s.nextSlot.1 s.backgroundCheckpoint 0), store.metadataDirty := false,
           store.jobsSinceDirty := 0 }

/-- Put contents into a checkpoint slot; none is a slot that is not valid. -/
def setSlot (slot : Slot) (x : Option Checkpoint) (s : State) : State :=
  match slot with
  | .a => { s with array.slotA := x }
  | .b => { s with array.slotB := x }

/-! ### Starting operations (R75, R92) -/

/-- Start the job of a segment that has left the queue (R75). -/
def startJobOn (i : SegId) (s : State) : State :=
  let s := s.modSeg i (fun g => { g with inStore := true, retry := 0, snapshot := g.lastSeq })
  { s with store.op := some (.job i 0) }

/-- Take the head of the queue and start its job. -/
def startJob (s : State) : State :=
  match s.store.queue with
  | [] => s
  | i :: rest => startJobOn i { s with store.queue := rest }

/-- FORMAT is channel 0's executing request and its reset event is still to come (R104, R130). -/
def State.formatComing (s : State) : Bool :=
  match (s.chan 0).exec with
  | some r => r.stage == .formatWait || (r.req.kind == .format && r.stage == .handed)
  | none => false

/-- FORMAT is channel 0's executing request and its checkpoint write is in flight (R106, R130). -/
def State.formatCheckpointing (s : State) : Bool :=
  match (s.chan 0).exec with
  | some r => r.stage == .formatCheckpoint
  | none => false

/-- The store engine may start an operation in READY or RUNNING: none is in flight and FORMAT does not hold it. -/
def State.mayStart (s : State) : Bool := s.store.op.isNone && s.working && !s.formatHold

/-- Start the next operation at the end of an event (R75, R92, log entry 12). `test`: the event is one at which the
store engine tests for a checkpoint. The test does not look at the journal state (R94, log entry 46). -/
def startNext (test : Bool) (s : State) : State :=
  if s.mayStart then
    if test ∧ s.store.metadataDirty ∧ (s.store.queue = [] ∨ 32 ≤ s.store.jobsSinceDirty) then startCheckpoint s
    else startJob s
  else s

/-! ### Line store (R128, R129) -/

/-- The line store ends: fetching resumes and PSTORE# is released. -/
def endLineStore (s : State) : State :=
  { s with store.lineStore := .none, cc.fetchPaused := false, supply.driveLow := false }

/-- The test of R129 at an event that leaves D at 0 with no operation in flight. While FORMAT's reset event is to come,
the line store waits for it: FORMAT's checkpoint write is its CHECKPOINT phase (R130, log entry 25). -/
def lineStoreTest (s : State) : State :=
  if s.store.lineStore ≠ .none ∧ s.working ∧ s.store.op = none ∧ s.dirtyCount = 0 then
    if s.formatComing then s
    else if s.store.metadataDirty then startCheckpoint { s with store.lineStore := .checkpoint }
    else endLineStore s
  else s

/-- The end of the line store's checkpoint write (R129). While FORMAT's reset event is to come, the line store goes back to
phase SEGMENTS and waits for FORMAT's write (R130, log entry 25). -/
def lineStoreAfterCheckpoint (verified : Bool) (s : State) : State :=
  if 0 < s.dirtyCount then queueOpen { s with store.lineStore := .segments }
  else if s.formatComing then { s with store.lineStore := .segments }
  else if verified ∧ s.store.metadataDirty then startCheckpoint { s with store.lineStore := .checkpoint }
  else endLineStore s

/-- A line store begins (R128). It takes a FORMAT's checkpoint write in flight as its CHECKPOINT phase (R130). -/
def beginLineStore (s : State) : State :=
  queueOpen
    { s with
      supply.driveLow := true, supply.latch := false, cc.fetchPaused := true,
      store.lineStore := if s.formatCheckpointing then .checkpoint else .segments }

/-- The end of an event: the line store's test, the start of an operation, the fetch arbiter (log entry 12). -/
def settle (test : Bool) (s : State) : State := fetchArbiter (startNext test (lineStoreTest s))

/-! ### The emergency sequence (R121 to R124) -/

/-- Start the emergency checkpoint (R122). -/
def startEmergencyCheckpoint (s : State) : State :=
  let contents :=
    { s.backgroundCheckpoint with
      emergency := true, dirtyAtEmergency := s.store.handedD, exposedAtEmergency := s.store.handedExposed }
  { s with store.phase := .checkpoint, store.emergencyGeneration := contents.generation,
           store.op := some (.checkpoint s.nextSlot.1 contents 0) }

/-- The closing mark as it stands (R124). -/
def State.closingMark (s : State) : ClosingMark :=
  { generation := s.store.emergencyGeneration, storedCount := s.store.storedCount,
    failedList := s.store.failedList, overflow := s.store.failedOverflow }

/-- The next operation of the SEGMENTS phase: the queue round, then the chain round, then CLOSING (R123, R124). -/
def nextEmergencySegment (s : State) : State :=
  match s.store.queue with
  | i :: rest => startJobOn i { s with store.queue := rest }
  | [] =>
    match s.journal.chain.find? (fun i => (s.seg i).dirty && (s.seg i).state != .failed) with
    | some i => startJobOn i s
    | none => { s with store.phase := .closing, store.op := some (.closingMark s.closingMark 0) }

/-- An operation of the sequence has ended: go on by the phase (R121 to R123). -/
def emergencyAdvance (s : State) : State :=
  match s.store.phase with
  | .finishing => startEmergencyCheckpoint s
  | .checkpoint => nextEmergencySegment { s with store.phase := .segments }
  | .segments => nextEmergencySegment s
  | .none => s
  | .closing => s
  | .ended => s

end Sys2Proof.Machine
end

