-- ==== Sys2Proof/Machine/BudgetUnit.lean ====
section
/-! DEFINITION. Shared operations of the budget unit: pressure, exposure, the held set, and the end of an executing
request with all it holds (03; 02, section 2.4; 05, R101).
-/
namespace Sys2Proof.Machine

/-! ### Pressure and exposure -/

/-- Recompute pressure; a change of level goes to the store engine, which queues the dirty OPEN segment when it is
asserted (R68, R73). -/
def recomputePressure (s : State) : State :=
  if s.budgetLive then
    let level := s.pressureLevel
    if level = s.budget.pressure then s
    else
      let s := { s with budget.pressure := level }
      if level then queueOpen s else s
  else s

/-- The detail of EXPOSED and EXPOSURE_ENDED: D and B (R172, section 11.3). -/
def exposureDetail (d b : Nat) : Nat := d + b * 2 ^ 16

/-- Re-evaluate the exposure state (R66, R67). At its end the waiting APPEND_EXPOSED records are satisfied, but those that
`lost` accepts: their entries have just been lost with a failed segment, and R39 lets them not complete OK. -/
def evalExposureBut (lost : Waiter → Bool) (s : State) : State :=
  if s.budgetLive then
    let d := s.dirtyCount
    if s.budget.exposed then
      if d ≤ s.budget.b then
        finishWaiters (fun w => w.kind == .appendExposed && !lost w) .ok
          (postAlert .exposureEnded 0 (exposureDetail d s.budget.b) { s with budget.exposed := false })
      else s
    else if s.budget.b < d then
      postAlert .exposed 0 (exposureDetail d s.budget.b) { s with budget.exposed := true }
    else s
  else s

/-- The evaluation at every event but a segment's failure: no entry has been lost. -/
abbrev evalExposure (s : State) : State := evalExposureBut (fun _ => false) s

/-! ### The journal-full flag (R101) -/

/-- The flag clears at the event after which no held record has reason SPACE. -/
def clearFull (s : State) : State :=
  if s.budget.held.any (fun h => h.reason == .space) then s else { s with journal.full := false }

/-- A held record takes reason SPACE: while the flag is clear it is set and JOURNAL_FULL is posted. -/
def noteSpace (fp : Nat) (s : State) : State :=
  if s.journal.full then s
  else
    postAlert .journalFull s.journal.head
      (s.journal.chain.length + s.countSegs (fun g => g.state == .retired) * 2 ^ 16 + fp * 2 ^ 32)
      { s with journal.full := true }

/-- What follows every change of the held set (R68, R101). -/
def heldChanged (s : State) : State := recomputePressure (clearFull s)

/-! ### The end of an executing request -/

/-- The held record of a channel leaves the held set; the records behind it keep their order (R37, R64). -/
def dropHeld (c : ChanId) (s : State) : State :=
  if s.budget.held.any (fun h => h.chan == c) then
    heldChanged { s with budget.held := s.budget.held.filter (fun h => h.chan != c) }
  else s

/-- The channel's execution ends: whatever the request holds or waits for is returned (R28, R29, R22, R45). -/
def endExecution (c : ChanId) (s : State) : State :=
  let s := s.modChan c (fun ch => { ch with exec := none })
  dropHeld c
    { s with
      staging.buffers := s.staging.buffers.filter (fun b => b.chan != c),
      staging.waiters := s.staging.waiters.filter (fun x => x != c),
      journal.readBuffers := s.journal.readBuffers.filter (fun b => b.chan != c),
      journal.readWaiters := s.journal.readWaiters.filter (fun x => x != c),
      store.reservationWaiters := s.store.reservationWaiters.filter (fun x => x != c) }

/-- The executing request of a channel completes: its execution ends as its completion takes a slot (R159, R160). -/
def completeExec (c : ChanId) (x : Completion) (s : State) : State := handCompletion c x (endExecution c s)

/-- Set the stage of a channel's executing request. -/
def setStage (c : ChanId) (st : Stage) (s : State) : State :=
  s.modChan c (fun ch => { ch with exec := ch.exec.map (fun r => { r with stage := st }) })

/-- One held request completes with a status (R37). -/
def endHeld (status : Status) (s : State) (h : HeldRecord) : State :=
  match (s.chan h.chan).exec with
  | some r => completeExec h.chan (r.req.refusal status 0) s
  | none => dropHeld h.chan s

/-- Every held request completes with a status, in held-set order (R37). -/
def endAllHeld (status : Status) (s : State) : State := s.budget.held.foldl (endHeld status) s

/-- The command acts on the executing request of channel `c` when it is of kind `k` and in a stage that `p` accepts;
otherwise its event cannot occur and nothing changes (log entry 1). -/
def withExec (c : ChanId) (k : Kind) (p : Stage → Bool) (f : Executing → State → State) (s : State) : State :=
  match (s.chan c).exec with
  | some r => if r.req.kind = k ∧ p r.stage then f r s else s
  | none => s

/-- The request has been handed to its owning block and is to be taken (R159). -/
def Stage.isHanded (st : Stage) : Bool := st == .handed

end Sys2Proof.Machine
end

