-- ==== Sys2Proof/Machine/Entries.lean ====
section
/-! DEFINITION. Entries in the segments: walking headers, lookup, VOID marks (01, sections 1.1, 1.8, 1.9), and the end of
a channel's transactions (02, R52).
-/
namespace Sys2Proof.Machine

/-- The headers of a segment from an offset up to its fill, with their offsets (R4, R21). -/
def walkFrom (mem : Memory) (base fill : Nat) : Nat → Nat → List (Nat × Header)
  | 0, _ => []
  | fuel + 1, off =>
    if off + 32 ≤ fill then
      let h := parseHeader (mem.readBytes (base + off) 32)
      (off, h) :: walkFrom mem base fill fuel (off + footprint h.length)
    else []

/-- The entries of a segment: at most 128 footprints of 32 bytes fit (R4). -/
def State.entriesOf (s : State) (i : SegId) : List (Nat × Header) :=
  walkFrom s.journal.sram (segBase i) (s.seg i).fill 128 0

/-- The segment whose range of sequence numbers holds `seq` (R21). -/
def Segment.holdsSeq (g : Segment) (seq : Nat) : Bool :=
  match g.firstSeq, g.lastSeq with
  | some a, some b => between a seq b
  | _, _ => false

/-- Search the chain for an entry (R21): its segment, offset and header. -/
def State.lookup (s : State) (seq : Nat) : Option (SegId × Nat × Header) :=
  match s.journal.chain.find? (fun i => (s.seg i).holdsSeq seq) with
  | none => none
  | some i => ((s.entriesOf i).find? (fun e => e.2.seq == seq)).map (fun e => (i, e.1, e.2))

/-- Where the entries of a transaction stand: the headers of its serial between two sequence numbers (R19). -/
def State.entriesOfTxn (s : State) (serial first last : Nat) : List (SegId × Nat) :=
  s.journal.chain.flatMap (fun i =>
    ((s.entriesOf i).filter (fun e => e.2.serial == serial && between first e.2.seq last)).map (fun e => (i, e.1)))

/-- Set the state byte of one header to VOID: SRAM only (R19, R20). -/
def markVoid (s : State) (e : SegId × Nat) : State := writeSegment e.1 (e.2 + 2) [voidByte] s

/-- Make every entry of a transaction VOID (R19). -/
def voidTxn (t : TxnRecord) (s : State) : State :=
  (s.entriesOfTxn t.serial t.firstSeq t.lastSeq).foldl markVoid s

/-- End every transaction of the channels `p` accepts: OPEN ones are made VOID, and all records are removed (R52). -/
def endTxns (p : ChanId → Bool) (s : State) : State :=
  let ended := s.txns.table.filter (fun t => p t.chan && !t.expired)
  let s := ended.foldl (fun s t => voidTxn t s) s
  { s with txns.table := s.txns.table.filter (fun t => !p t.chan) }

/-- Remove the transaction record of a key. -/
def removeTxn (c : ChanId) (hostId : Nat) (s : State) : State :=
  { s with txns.table := s.txns.table.filter (fun t => !(t.chan == c && t.hostId == hostId)) }

end Sys2Proof.Machine
end

