-- ==== Sys2Proof/Machine/Commit.lean ====
section
/-! DEFINITION. The commit attempt, the commit and the grant run (02, sections 2.3 to 2.7; 03, sections 3.5 and 3.6;
01, sections 1.5 to 1.7).
-/
namespace Sys2Proof.Machine

/-! ### The transaction check (R45) -/

inductive TxnVerdict where
  | pass
  | passReserve
  | refuse (status : Status)
  deriving DecidableEq, Repr

/-- The transaction check of a request whose host transaction id is nonzero (R45). -/
def txnCheck (c : ChanId) (r : Executing) (s : State) : TxnVerdict :=
  match s.findTxn c r.req.hostId with
  | none =>
    if r.req.kind = .sealTxn then .refuse .txnUnknown
    else if r.req.sealFlag then .pass
    else if r.txnReserved then .pass
    else if s.txns.table.length + s.txnReservations < 64 then .passReserve
    else .refuse .txnLimit
  | some t =>
    if t.expired then .refuse .txnExpired
    else if t.count ≤ 1022 ∨ r.req.final then .pass
    else .refuse .txnTooLong

/-! ### Admission (R32, R62, R63) -/

/-- A new segment must be opened (R14). -/
def State.needsNew (s : State) (fp : Nat) : Bool :=
  match s.openSegment with
  | none => true
  | some i => 4096 - (s.seg i).fill < fp

/-- The commit needs a clean segment dirtied (R32). -/
def State.needsClean (s : State) (fp : Nat) : Bool :=
  s.needsNew fp ||
    match s.openSegment with
    | none => true
    | some i => !(s.seg i).dirty

/-- The two checks of the admission test in order (R62). -/
def State.ownRefusal (s : State) (fp : Nat) : Option HoldReason :=
  if s.needsNew fp && !s.freeExists then some .space
  else if s.budget.b < s.dirtyCount + 1 then some .budget
  else none

/-- The admission test: a grant takes its own checks; any other attempt joins a held set that is not empty (R62, R63). -/
def State.admission (s : State) (grant : Bool) (fp : Nat) : Option HoldReason :=
  match grant, s.budget.held with
  | false, oldest :: _ => some ((s.ownRefusal fp).getD oldest.reason)
  | _, _ => s.ownRefusal fp

/-- Hold a request: it joins the tail, or at a grant keeps its place with the new reason (R35, R36, R101). -/
def holdRequest (grant : Bool) (c : ChanId) (r : Executing) (reason : HoldReason) (s : State) : State :=
  let fp := footprint r.req.length
  let key := if r.req.hostId = 0 then none else some r.req.hostId
  let held :=
    if grant then s.budget.held.map (fun h => if h.chan == c then { h with reason := reason } else h)
    else s.budget.held ++
      [({ chan := c, tag := r.req.tag, reason := reason, footprint := fp, key := key } : HeldRecord)]
  let s := setStage c .held { s with budget.held := held }
  heldChanged (match reason with
    | .space => noteSpace fp s
    | .budget => s)

/-! ### Opening and closing segments (R14, R15, R18, R98) -/

/-- The order of the search for a segment to open: above the tail, wrapping, ending at the tail itself (R18). -/
def allocationOrder (tail : Option SegId) : List SegId :=
  match tail with
  | none => List.finRange 512
  | some t => (List.finRange 512).drop (t.val + 1) ++ (List.finRange 512).take (t.val + 1)

/-- The lowest FREE segment in that order. -/
def State.allocate (s : State) (tail : Option SegId) : Option SegId :=
  (allocationOrder tail).find? (fun i => (s.seg i).state == .free)

/-- A segment becomes FREE: its record takes the FREE form, and it leaves the queue and the chain (R13, R97). -/
def freeSegment (i : SegId) (s : State) : State :=
  let s := s.setSeg i Segment.freeForm
  { s with store.queue := s.store.queue.filter (fun j => j != i),
           journal.chain := s.journal.chain.filter (fun j => j != i) }

/-- The commit closes the OPEN segment: it becomes FULL and is queued, or, when a release has covered it, is freed
(R15, R72, R98). Its idle timer stops (R74). A FULL segment joins the queue here, before the segment that the commit opens
(the model's choice, log entry 38). With a covered segment that the re-queue of R77 has left dirty, its unstored-from leaves
the table: S is recomputed, and the records that it now covers complete before the commit's own completion (R82, R83; the
place is the model's choice, log entry 37). Every other commit leaves S as it is (R82), that of a grant within a RELEASE among
them: the release has left the covered OPEN segment clean, and its own recomputation of S follows its grants (R97). -/
def closeOpen (s : State) : State :=
  match s.openSegment with
  | none => s
  | some i =>
    let g := s.seg i
    let s := { s with store.idleTimer := none }
    if g.coveredBy s.journal.head then
      if g.inStore then s.modSeg i (fun g => { g with state := .freeing })
      else if g.dirty then recomputeS (freeSegment i s)
      else freeSegment i s
    else queueSeg i (s.modSeg i (fun g => { g with state := .full }))

/-- Open a segment: zero-filled, OPEN, at the tail of the chain (R14). -/
def openNew (tail : Option SegId) (s : State) : State :=
  match s.allocate tail with
  | none => s
  | some j =>
    let s := s.setSeg j { Segment.freeForm with state := .openS }
    { s with journal.sram := s.journal.sram.clear (segBase j) (segBase j + 4096),
             journal.chain := s.journal.chain ++ [j] }

/-- Step 1 of a commit. -/
def prepareSegment (fp : Nat) (s : State) : State :=
  if s.needsNew fp then openNew s.journal.chain.getLast? (closeOpen s) else s

/-! ### Serials and records of transactions (R46, R47, R48) -/

/-- The next serial after `n`, past every serial a record of the table holds (R47). -/
def advanceSerial (table : List TxnRecord) : Nat → Nat → Nat
  | 0, n => if n ≥ 4294967295 then 1 else n + 1
  | fuel + 1, n =>
    let m := if n ≥ 4294967295 then 1 else n + 1
    if table.any (fun t => t.serial == m) then advanceSerial table fuel m else m

/-- The serial and index of an entry (R46): of a standalone entry both are 0. -/
def State.entrySerial (s : State) (c : ChanId) (r : Request) : Nat × Nat :=
  if r.hostId = 0 then (0, 0)
  else
    match s.findTxn c r.hostId with
    | some t => (t.serial, t.count)
    | none => (s.txns.nextSerial, 0)

/-- The deadline of a transaction opened now (R48). -/
def State.deadlineFor (s : State) (c : ChanId) : Option Nat :=
  if (s.chan c).ageLimit = 0 then none else some (s.now + (s.chan c).ageLimit * 1000)

/-- The transaction unit takes the entry (R46). -/
def reportTxn (c : ChanId) (r : Request) (seq : Nat) (s : State) : State :=
  if r.hostId = 0 then s
  else
    match s.findTxn c r.hostId with
    | some _ =>
      if r.final then removeTxn c r.hostId s
      else
        { s with txns.table := s.txns.table.map (fun t =>
            if t.chan == c && t.hostId == r.hostId then { t with count := t.count + 1, lastSeq := seq } else t) }
    | none =>
      let serial := s.txns.nextSerial
      let next := advanceSerial s.txns.table 64 serial
      if r.final then { s with txns.nextSerial := next }
      else
        let t : TxnRecord :=
          { serial := serial, chan := c, hostId := r.hostId, expired := false, count := 1, firstSeq := seq,
            lastSeq := seq, deadline := s.deadlineFor c }
        { s with txns.nextSerial := next, txns.table := s.txns.table ++ [t] }

/-! ### The commit (R33) -/

/-- The payload a channel's staging buffer holds. -/
def State.payloadOf (s : State) (c : ChanId) : List Byte :=
  match s.staging.buffers.find? (fun b => b.chan == c) with
  | some b => b.data
  | none => []

/-- The header of the entry, its CRC last (R1, R3, R33 step 6). -/
def State.entryHeader (s : State) (c : ChanId) (r : Request) (payload : List Byte) : Header :=
  let id := s.entrySerial c r
  let h : Header :=
    { format := s.journal.format, stateByte := liveByte, sealFlag := r.final, clockValid := s.clock.clockValid,
      channel := c.val, length := r.length, seq := s.journal.nextSeq, hostId := r.hostId, serial := id.1,
      index := id.2, stamp := s.clock.reading, crc := 0 }
  { h with crc := entryCrc h.bodyBytes payload }

/-- Steps 5 to 7: payload, then header, into the OPEN segment, and the record's update (R11, R33, R34). -/
def placeEntry (i : SegId) (h : Header) (payload : List Byte) (s : State) : State :=
  let off := (s.seg i).fill
  let s := writeSegment i (off + 32) payload s
  let s := writeSegment i off h.bytes s
  s.modSeg i (fun g =>
    let fill := off + footprint h.length
    { g with fill := fill, lastSeq := some h.seq, firstSeq := some (g.firstSeq.getD h.seq),
             unstoredFrom := some (g.unstoredFrom.getD h.seq),
             state := if fill = 4096 then .full else g.state })

/-- Step 8 at the store engine: a FULL segment is queued; an OPEN one is queued under pressure or in a line store's
SEGMENTS phase, and its idle timer starts afresh (R72, R73, R74, R129). -/
def reportStore (i : SegId) (s : State) : State :=
  if (s.seg i).state = .openS then
    let s := { s with store.idleTimer := some (s.now + s.store.idleDelay * 1000) }
    if s.budget.pressure ∨ s.store.lineStore = .segments then queueSeg i s else s
  else queueSeg i { s with store.idleTimer := none }

/-- The waiting record of a deferred APPEND or SEAL (R39, R40, R84). -/
def entryWaiter (c : ChanId) (r : Request) (kind : WaitKind) (h : Header) : Waiter :=
  { chan := c, tag := r.tag, kind := kind, target := h.seq, seq := h.seq, stamp := h.stamp, reqKind := r.kind,
    serial := h.serial, index := h.index }

/-- Step 10: the completion is posted directly, or deferred to the wait list (R39, R40, R41). A granted request leaves the
held set here (the model's choice of the place within the event, log entry 41). -/
def decideCompletion (c : ChanId) (r : Request) (h : Header) (s : State) : State :=
  if r.storedFlag then fillWaiter (entryWaiter c r .appendStored h) (endExecution c s)
  else if s.budget.exposed then fillWaiter (entryWaiter c r .appendExposed h) (endExecution c s)
  else completeExec c (r.completion .ok h.seq h.stamp (entryDetail h.serial h.index)) s

/-- Steps 2 to 4: next seq advances, and last stamp is the reading the entry carries. -/
def takeSeq (s : State) : State :=
  { s with journal.nextSeq := s.journal.nextSeq + 1, clock.lastStamp := some s.clock.reading }

/-- Step 7 at the budget unit: a segment that was clean has become dirty, and D has risen by one. -/
def reportDirtied (wasDirty : Bool) (s : State) : State := if wasDirty then s else recomputePressure s

/-- The entry is placed and reported to the budget unit, the transaction unit and the store engine. At a grant the request's
held record still counts in the pressure that these steps meet: it leaves at step 10 (the model's choice, log entry 41). -/
def recordEntry (i : SegId) (c : ChanId) (r : Request) (h : Header) (payload : List Byte) (s : State) : State :=
  reportStore i
    (reportTxn c r h.seq (reportDirtied (s.seg i).dirty (placeEntry i h payload (takeSeq s))))

/-- A commit: one event at the journal manager (R33). -/
def commit (c : ChanId) (r : Request) (s : State) : State :=
  let s := prepareSegment (footprint r.length) s
  match s.openSegment with
  | none => s
  | some i =>
    let payload := if r.kind = .append then s.payloadOf c else []
    let h := s.entryHeader c r payload
    decideCompletion c r h (recordEntry i c r h payload s)

/-! ### The commit attempt (R31) -/

/-- The tests 1 to 4 of R31: a refusal's status, when one applies. -/
def refusalAt (c : ChanId) (r : Executing) (s : State) : Option Status :=
  if (s.chan c).state = .draining ∧ r.req.hostId ≠ 0 then some .cancelled
  else if s.journal.nextSeq = 2 ^ 48 - 1 then some .seqExhausted
  else if s.mediaFault then some .nvFault
  else if r.req.hostId = 0 then none
  else
    match txnCheck c r s with
    | .refuse status => some status
    | _ => none

/-- A transaction reservation is taken when the check passes with one (R45). -/
def takeTxnReservation (c : ChanId) (r : Executing) (s : State) : State :=
  if r.req.hostId ≠ 0 ∧ txnCheck c r s = .passReserve then
    s.modChan c (fun ch => { ch with exec := ch.exec.map (fun r => { r with txnReserved := true }) })
  else s

/-- One commit attempt of a channel's executing request (R31); `grant` when it follows a grant (R36). -/
def commitAttempt (grant : Bool) (c : ChanId) (r : Executing) (s : State) : State :=
  match refusalAt c r s with
  | some status =>
    let s := if status = .txnExpired then removeTxn c r.req.hostId s else s
    completeExec c (r.req.refusal status 0) s
  | none =>
    let s := takeTxnReservation c r s
    let fp := footprint r.req.length
    if s.needsClean fp then
      match s.admission grant fp with
      | some reason => holdRequest grant c r reason s
      | none => commit c r.req s
    else commit c r.req s

/-! ### Grants (R65) -/

/-- The oldest record is grantable (R65). -/
def State.grantable (s : State) (h : HeldRecord) : Bool :=
  (match h.reason with
    | .budget => decide (s.dirtyCount + 1 ≤ s.budget.b)
    | .space => s.freeExists) ||
  (match s.openSegment with
    | some i => (s.seg i).dirty && decide ((s.seg i).fill + h.footprint ≤ 4096)
    | none => false)

/-- A grant run of at most `fuel` grants: it ends at a record that is not grantable or is held again (R65). -/
def grantLoop : Nat → State → State
  | 0, s => s
  | fuel + 1, s =>
    match s.budget.held with
    | [] => s
    | h :: _ =>
      if s.grantable h then
        match (s.chan h.chan).exec with
        | none => s
        | some r =>
          let s' := commitAttempt true h.chan r s
          if (s'.budget.held.head?.map HeldRecord.chan) = some h.chan then s' else grantLoop fuel s'
      else s

/-- A grant run (R65): every grant that does not end it removes a record, so the held set's length bounds it. -/
def grantRun (s : State) : State := grantLoop s.budget.held.length s

/-- The budget unit takes a report that D has fallen (R61): exposure, pressure and a grant run, against D as it stands
at the report (log entry 18). `lost`: the waiting records that an end of exposure does not satisfy (R39). -/
def onReliefBut (lost : Waiter → Bool) (s : State) : State :=
  if s.budgetLive then grantRun (recomputePressure (evalExposureBut lost s)) else s

/-- The report at every event but a segment's failure. -/
abbrev onRelief (s : State) : State := onReliefBut (fun _ => false) s

/-- The budget unit takes a report that a segment became FREE or came to count as FREE (R61). -/
def onFreed (s : State) : State := if s.budgetLive then grantRun s else s

end Sys2Proof.Machine
end

