-- ==== Sys2Proof/Machine/Link.lean ====
section
/-! DEFINITION. The register window, host reset, channel faults, fetch ends and the ends of posting writes (09).
-/
namespace Sys2Proof.Machine

/-! ### Channel faults (R164, R165) -/

/-- The oldest held record is the channel's. -/
def State.oldestIs (s : State) (c : ChanId) : Bool := (s.budget.held.head?.map HeldRecord.chan) == some c

/-- A grant run when the oldest held record has left at an event of R37 (R65). -/
def grantAfter (oldestLeft : Bool) (s : State) : State := if oldestLeft then grantRun s else s

/-- Step 2 of R164: the channel's outstanding work is dropped without completion. -/
def dropWork (c : ChanId) (s : State) : State :=
  let s := endExecution c s
  let s := { s with
    cc.fetch := if s.cc.fetch = some c then none else s.cc.fetch,
    store.waiting := s.store.waiting.filter (fun w => w.chan != c) }
  abandonPosts c s

/-- What a fault of channel 0 adds (R152, R165, R168, R171): CTRL_FAULT with the first cause, the alert waiters
discarded, the waiting closes dropped. -/
def controlFault (reason : FaultReason) (s : State) : State :=
  { s with
    window.ctrlFault := some (s.window.ctrlFault.getD reason),
    cc.alertWaiters := [],
    cc.chans := buildChans (fun d => { s.chan d with pendingClose := none }) }

/-- The close that waited for the drain of a channel that has faulted (R168). -/
def closeFaulted (c : ChanId) (reason : FaultReason) (s : State) : State :=
  match (s.chan c).pendingClose with
  | some pc =>
    takeSlot 0
      { tag := pc.tag, kindCode := BitVec.ofNat 8 Kind.closeChannel.code, status := .ok, deferred := false,
        alertCode := 0, alertCount := 0, seq := 0, stamp := Stamp.zero,
        detail := closeDetail c .faulted (some reason) pc.cancelled }
      (s.setChan c Channel.closed)
  | none => s

/-- Steps 1 to 3 of R164: the channel is FAULTED, its work is dropped with its host writes in progress, its unposted slots
are taken back; a fault of channel 0 adds its own effects. -/
def beginFault (c : ChanId) (reason : FaultReason) (s : State) : State :=
  let s := dropWrites c reason s
  let s := s.modChan c (fun ch => { ch with state := .faulted, faultReason := some reason })
  let s := dropWork c s
  let s := s.modChan c (fun ch => { ch with inFlight := 0, cplNext := ch.published })
  if c = 0 then controlFault reason s else s

/-- What a fault tells the host (R164): the status block, but for a failed status write, the interrupt, the alert. -/
def reportFault (c : ChanId) (reason : FaultReason) (s : State) : State :=
  let s := if reason = .statusWrite then s else writeStatus c .ignored s
  postAlert .channelFault 0 (c.val + reason.code * 2 ^ 8) (sendInterrupt c s)

/-- A channel fault (R164), of an ACTIVE or DRAINING channel. The CHANNEL_FAULT alert, and with it the completion of an
ALERT_WAIT that waits, comes before the pending close's completion (R168); the grant run for an oldest held record that left
(R65) is taken last in the event, after both. Both orders are the model's choice (log entry 33). -/
def faultChannel (c : ChanId) (reason : FaultReason) (s : State) : State :=
  if (s.chan c).live then
    grantAfter (s.oldestIs c)
      (closeFaulted c reason (reportFault c reason (endTxns (fun d => d == c) (beginFault c reason s))))
  else s

/-! ### Host reset (R166) -/

/-- What the blocks clear at a host reset, the transactions apart (R166). -/
def dropHostWork (s : State) : State :=
  { s with
    window.enable := false, window.ctrlFault := none,
    cc.chans := Vector.replicate 16 Channel.closed, cc.fetch := none, cc.lastServed := 15, cc.alertWaiters := [],
    cc.posts := [], cc.statusWrites := [],
    staging.buffers := [], staging.waiters := [],
    journal.readBuffers := [], journal.readWaiters := [],
    store.waiting := [], store.reservationWaiters := [],
    budget.held := [],
    device := if s.device = .running then .ready else s.device }

/-- The host reset at every block. In OFF the part holds none of this (log entry 23). A store that a FORMAT held back starts
(R165). The line store, its phase, the fetch-paused flag and PSTORE# are unchanged (R127, R128, R130): the line store's test
is left to a later event (log entry 40), and the fetch arbiter finds no channel. -/
def hostReset (s : State) : State :=
  if s.device = .off then s
  else startNext false (heldChanged (dropHostWork (endTxns (fun _ => true) (abandonTransfers s))))

/-! ### ENABLE (R151, R134) -/

/-- Channel 0 at its entry to ACTIVE (R155). -/
def controlChannel (base : HostAddr) : Channel :=
  { Channel.closed with
    state := .active,
    setup := some { reqAddr := base, reqSlots := 32, cplAddr := base + 2048, cplSlots := 32,
                    statusAddr := base + 3072 } }

/-- The device enters RUNNING: the control base is latched and channel 0 becomes ACTIVE (R151, R155, R161). -/
def enterRunning (s : State) : State :=
  let base := s.window.base
  writeStatus 0 .becameActive
    (State.setChan { s with device := .running, window.latchedBase := base } 0 (controlChannel base))

/-- CTRL_FAULT with reason BAD_BASE; a CTRL_FAULT already set keeps its first cause (R152). -/
def badBase (s : State) : State := { s with window.ctrlFault := some (s.window.ctrlFault.getD .badBase) }

/-- A write of ENABLE 1 (R151). -/
def enableWrite (s : State) : State :=
  if s.device = .off then s
  else
    let s := { s with window.enable := true }
    if s.device = .ready ∧ s.window.ctrlFault = none then
      if s.window.baseValid then settle false (enterRunning s) else badBase s
    else s

/-! ### NOTIFY and RETIRE (R153, R154) -/

def notifyWrite (c : ChanId) (p : Nat) (s : State) : State :=
  let ch := s.chan c
  if s.working ∧ ch.live then
    settle false
      (if ch.reqSlots ≤ p then faultChannel c .badIndex s
       else s.setChan c { ch with hostProducer := p })
  else s

def retireWrite (c : ChanId) (r : Nat) (s : State) : State :=
  let ch := s.chan c
  if s.working ∧ ch.live then
    settle false
      (if ch.cplSlots ≤ r ∨ ringDiff ch.published ch.hostConsumer ch.cplSlots < ringDiff r ch.hostConsumer ch.cplSlots
       then faultChannel c .badRetire s
       else s.setChan c { ch with hostConsumer := r })
  else s

/-! ### Register writes (R150) -/

/-- A write of 32 bits at an offset of the window: the fields of the six registers, all other writes ignored. -/
def windowWrite (offset : BitVec 12) (value : BitVec 32) (s : State) : State :=
  if offset = 0x000 then if value.getLsbD 0 then enableWrite s else hostReset s
  else if offset = 0x008 then { s with window.ctrlBaseLo := value }
  else if offset = 0x00C then { s with window.ctrlBaseHi := value }
  else if offset = 0x010 then notifyWrite (value.extractLsb' 0 4).toFin (value.extractLsb' 16 12).toNat s
  else if offset = 0x014 then retireWrite (value.extractLsb' 0 4).toFin (value.extractLsb' 16 12).toNat s
  else s

/-- HOST_RESET (R166): its three causes act alike. -/
def execHostReset (_cause : ResetCause) (s : State) : Result := .next (hostReset s)

/-- ENABLE (R151). -/
def execEnable (s : State) : Result := .next (enableWrite s)

/-- NOTIFY (R153). -/
def execNotify (chan : BitVec 4) (index : BitVec 12) (s : State) : Result :=
  .next (notifyWrite chan.toFin index.toNat s)

/-- RETIRE (R154). -/
def execRetire (chan : BitVec 4) (index : BitVec 12) (s : State) : Result :=
  .next (retireWrite chan.toFin index.toNat s)

/-- REGISTER_WRITE (R150): a write of another width than 32 bits is ignored, and so is any write in OFF. -/
def execRegisterWrite (offset : BitVec 12) (width : Nat) (value : BitVec 32) (s : State) : Result :=
  .next (if width = 4 ∧ s.device ≠ .off then windowWrite offset value s else s)

/-! ### Fetch end (R157, R175) -/

/-- The completion of a record that validation refuses: its tag and kind byte as read (R175). -/
def refusedRecord (bytes : List Byte) (status : Status) (detail : Nat) : Completion :=
  { tag := BitVec.ofNat 16 (fieldAt bytes 2 2), kindCode := BitVec.ofNat 8 (fieldAt bytes 0 1), status := status,
    deferred := false, alertCode := 0, alertCount := 0, seq := 0, stamp := Stamp.zero, detail := detail }

/-- The fetched record becomes the executing request, or is refused by validation (R157, R175). -/
def takeRecord (c : ChanId) (bytes : List Byte) (s : State) : State :=
  let s := State.modChan { s with cc.fetch := none } c (fun ch =>
    { ch with reqConsumer := (ch.reqConsumer + 1) % ch.reqSlots })
  match validateRecord c bytes with
  | .refused status detail => handCompletion c (refusedRecord bytes status detail) s
  | .passed r =>
    s.modChan c (fun ch =>
      { ch with exec := some { req := r, stage := .handed, waitReserved := false, txnReserved := false } })

/-- FETCH_END (R157, R163). -/
def execFetchEnd (result : ReadResult) (s : State) : Result :=
  .next
    (match s.cc.fetch with
     | none => s
     | some c =>
       settle false
         (match result with
          | .error => faultChannel c .ringRead { s with cc.fetch := none }
          | .data bytes => takeRecord c (fitBytes 64 bytes) s))

/-! ### The ends of posting writes (R160, R161) -/

/-- The oldest detached completions of a channel are given up after a host write error (log entry 14). -/
def dropDetached (c : ChanId) (s : State) : State :=
  beginRecordWrite c
    { s with cc.posts := s.cc.posts.filter (fun p => !(p.chan == c && p.detached.isSome)) }

/-- Step 3 of R160 begins: the published index covers the slot and the status block is written. -/
def publish (c : ChanId) (p : Post) (s : State) : State :=
  let s := modFirstPost c (fun p => { p with phase := .status }) s
  match p.detached with
  | none =>
    writeStatus c .post (s.modChan c (fun ch => { ch with published := (p.slot + 1) % ch.cplSlots }))
  | some d =>
    beginStatusWrite c .postDetached d.statusAddr
      (statusBytes d.reqConsumer ((p.slot + 1) % d.cplSlots) .closed none) s

/-- COMPLETION_RECORD_WRITE_END (R160). -/
def execCompletionRecordWriteEnd (chan : ChanId) (ok : Bool) (s : State) : Result :=
  .next
    (match s.firstPost chan with
     | none => s
     | some p =>
       if p.phase = .record then
         if ok then publish chan p s
         else if p.detached.isNone then settle false (faultChannel chan .completionWrite s)
         else dropDetached chan s
       else s)

/-- The oldest completion of a channel is posted: the next one's record write begins (R160). -/
def popPost (c : ChanId) (s : State) : State :=
  beginRecordWrite c { s with cc.posts := s.cc.posts.eraseP (fun p => p.chan == c) }

/-- The end of a status block write by its purpose (R161). -/
def endStatusWrite (c : ChanId) (purpose : StatusPurpose) (ok : Bool) (s : State) : State :=
  match purpose with
  | .ignored => s
  | .becameActive => if ok then s else settle false (faultChannel c .statusWrite s)
  | .post => if ok then popPost c (coalesce c s) else settle false (faultChannel c .statusWrite s)
  | .postDetached => if ok then popPost c (coalesceDetached c s) else dropDetached c s

/-- STATUS_BLOCK_WRITE_END (R161, R162): the channel's oldest write in progress ends. Writes of one channel are taken in
order also across a new opening with another status block address (DESIGN CHOICE, log entry 44). -/
def execStatusBlockWriteEnd (chan : ChanId) (ok : Bool) (s : State) : Result :=
  .next
    (match s.cc.statusWrites.find? (fun w => w.chan == chan) with
     | none => s
     | some w =>
       endStatusWrite chan w.purpose ok
         { s with cc.statusWrites := s.cc.statusWrites.eraseP (fun w => w.chan == chan) })

/-- HOLDOFF_EXPIRY (R162): the interrupt is sent when the count is at least 1; the timer stops. -/
def execHoldoffExpiry (chan : ChanId) (s : State) : Result :=
  .next
    (match (s.chan chan).holdoffTimer with
     | none => s
     | some t =>
       let s := s.reachTime t
       if 0 < (s.chan chan).pendingInt then sendInterrupt chan s
       else s.modChan chan (fun ch => { ch with holdoffTimer := none }))

end Sys2Proof.Machine
end

