-- ==== Sys2Proof/Machine/Requests.lean ====
section
/-! DEFINITION. The data-channel requests and the events of their stages: APPEND, SEAL, FLUSH, ABORT, READ, the hand-overs,
transaction expiry (01, section 1.9; 02; 04, section 4.6).
-/
namespace Sys2Proof.Machine

/-! ### Reservation and staging (R27, R28, R29, R84) -/

/-- Put a channel's executing request. -/
def setExec (c : ChanId) (r : Executing) (s : State) : State := s.modChan c (fun ch => { ch with exec := some r })

/-- The APPEND claims a staging buffer and its payload read begins (R29, R30). -/
def takeStaging (c : ChanId) (r : Executing) (s : State) : State :=
  let s := setStage c .staging
    { s with staging.buffers := s.staging.buffers ++ [({ chan := c, data := [] } : StagingBuffer)] }
  s.emit (.read r.req.addr r.req.length)

/-- The APPEND holds its reservation and goes to staging, or waits (R29). -/
def claimStaging (c : ChanId) (r : Executing) (s : State) : State :=
  if s.staging.buffers.length < 4 ∧ s.staging.waiters = [] then takeStaging c r s
  else setStage c .waitStaging { s with staging.waiters := s.staging.waiters ++ [c] }

/-- FLUSH at its execution (R87). -/
def flushExecute (c : ChanId) (r : Executing) (s : State) : State :=
  let target := s.journal.nextSeq - 1
  if s.mediaFault then completeExec c (r.req.refusal .nvFault 0) s
  else if target = 0 ∨ target ≤ s.store.storedThrough then
    completeExec c (r.req.completion .ok target Stamp.zero s.store.storedThrough) s
  else
    fillWaiter
      { chan := c, tag := r.req.tag, kind := .flush, target := target, seq := target, stamp := Stamp.zero,
        reqKind := .flush, serial := 0, index := 0 }
      (endExecution c s)

/-- A request that has its wait-list record goes on to its next stage (R28, R87). -/
def afterReservation (c : ChanId) (r : Executing) (s : State) : State :=
  match r.req.kind with
  | .append => claimStaging c r s
  | .sealTxn => commitAttempt false c r s
  | .flush => flushExecute c r s
  | _ => s

/-- The request reserves a wait-list record and goes on. -/
def takeReservation (c : ChanId) (r : Executing) (s : State) : State :=
  afterReservation c { r with waitReserved := true } (setExec c { r with waitReserved := true } s)

/-- The formatted check and the reservation of APPEND, SEAL and FLUSH (R27, R28, R84, R87, R94). -/
def beginDurable (c : ChanId) (r : Executing) (s : State) : State :=
  if !s.journal.formatted then completeExec c (r.req.refusal .notFormatted 0) s
  else if s.waitRecordFree ∧ s.store.reservationWaiters = [] then takeReservation c r s
  else setStage c .waitReservation { s with store.reservationWaiters := s.store.reservationWaiters ++ [c] }

/-- APPEND (R25, R27). -/
def execAppend (chan : ChanId) (s : State) : Result :=
  .next (settle false (withExec chan .append Stage.isHanded (beginDurable chan) s))

/-- SEAL (R26, R27). -/
def execSeal (chan : ChanId) (s : State) : Result :=
  .next (settle false (withExec chan .sealTxn Stage.isHanded (beginDurable chan) s))

/-- FLUSH (R87). -/
def execFlush (chan : ChanId) (s : State) : Result :=
  .next (settle false (withExec chan .flush Stage.isHanded (beginDurable chan) s))

/-- WAIT_LIST_RESERVATION (R84): the head of the reservation waiters takes a free record. -/
def execWaitListReservation (s : State) : Result :=
  .next
    (match s.store.reservationWaiters with
     | [] => s
     | c :: rest =>
       match (s.chan c).exec with
       | none => s
       | some r =>
         if s.waitRecordFree then
           settle false (takeReservation c r { s with store.reservationWaiters := rest })
         else s)

/-- STAGING_BUFFER_CLAIM (R29): the APPEND that began to wait first takes a free buffer. -/
def execStagingBufferClaim (s : State) : Result :=
  .next
    (match s.staging.waiters with
     | [] => s
     | c :: rest =>
       match (s.chan c).exec with
       | none => s
       | some r =>
         if s.staging.buffers.length < 4 then takeStaging c r { s with staging.waiters := rest } else s)

/-- The payload has been read into the channel's staging buffer (R30). -/
def stagePayload (c : ChanId) (length : Nat) (bytes : List Byte) (s : State) : State :=
  { s with staging.buffers := s.staging.buffers.map (fun b =>
      if b.chan == c then { b with data := fitBytes length bytes } else b) }

/-- PAYLOAD_READ_END (R30, R31, R163). -/
def execPayloadReadEnd (chan : ChanId) (result : ReadResult) (s : State) : Result :=
  .next
    (settle false
      (withExec chan .append (fun st => st == .staging)
        (fun r s =>
          match result with
          | .error => completeExec chan (r.req.refusal .hostReadError 0) s
          | .data bytes => commitAttempt false chan r (stagePayload chan r.req.length bytes s))
        s))

/-! ### Transactions (R49, R51) -/

/-- ABORT at the transaction unit (R51). -/
def abortExecute (c : ChanId) (r : Executing) (s : State) : State :=
  match s.findTxn c r.req.hostId with
  | none => completeExec c (r.req.refusal .txnUnknown 0) s
  | some t =>
    if t.expired then completeExec c (r.req.refusal .txnExpired 0) (removeTxn c r.req.hostId s)
    else
      completeExec c (r.req.completion .ok t.lastSeq Stamp.zero t.count) (removeTxn c r.req.hostId (voidTxn t s))

/-- ABORT (R51). -/
def execAbort (chan : ChanId) (s : State) : Result :=
  .next (settle false (withExec chan .abort Stage.isHanded (abortExecute chan) s))

/-- The record of a key becomes EXPIRED and its entries are made VOID (R49). -/
def expireTxn (t : TxnRecord) (s : State) : State :=
  voidTxn t
    { s with txns.table := s.txns.table.map (fun u =>
        if u.chan == t.chan && u.hostId == t.hostId then { u with expired := true } else u) }

/-- The channel's held request that carries the key completes TXN_EXPIRED, and the record is removed (R37, R49). The grant
run for an oldest record that left (R65) is taken last in the event (the model's choice, log entry 33). -/
def expireHeld (c : ChanId) (hostId : Nat) (s : State) : State :=
  match (s.chan c).exec with
  | some r =>
    if r.stage = .held ∧ r.req.hostId = hostId then
      let oldestLeft := s.oldestIs c
      grantAfter oldestLeft (completeExec c (r.req.refusal .txnExpired 0) (removeTxn c hostId s))
    else s
  | none => s

/-- TXN_EXPIRY (R49): of an OPEN record with a deadline, in READY or RUNNING (R48). -/
def execTxnExpiry (chan : ChanId) (hostId : Nat) (s : State) : Result :=
  .next
    (match s.findTxn chan hostId with
     | none => s
     | some t =>
       match t.deadline with
       | none => s
       | some d =>
         if s.working ∧ !t.expired then settle false (expireHeld chan hostId (expireTxn t (s.reachTime d))) else s)

/-! ### READ (R21 to R24) -/

/-- A READ's refusal carries the requested seq and timestamp zero (R21). -/
def refuseRead (c : ChanId) (r : Executing) (status : Status) (detail : Nat) (s : State) : State :=
  completeExec c (r.req.completion status r.req.seq Stamp.zero detail) s

/-- Test 7: the entry is copied into the read buffer and its host write begins (R23). -/
def copyEntry (c : ChanId) (r : Executing) (i : SegId) (off : Nat) (h : Header) (s : State) : State :=
  let data := s.journal.sram.readBytes (segBase i + off) (32 + h.length)
  let s := { s with journal.readBuffers := s.journal.readBuffers.map (fun b =>
    if b.chan == c then { b with data := data } else b) }
  (setStage c (.readWrite h.seq h.stamp (32 + h.length)) s).emit (.write r.req.addr data)

/-- The lookup of R21, its tests in order. -/
def readLookup (c : ChanId) (r : Executing) (s : State) : State :=
  if r.req.seq ≤ s.journal.head then refuseRead c r .released 0 s
  else if s.journal.nextSeq ≤ r.req.seq then refuseRead c r .range 0 s
  else
    match s.lookup r.req.seq with
    | none => refuseRead c r .absent 0 s
    | some (i, off, h) =>
      if h.stateByte = voidByte then refuseRead c r .discarded 0 s
      else if h.serial ≠ 0 ∧ s.txns.table.any (fun t => t.serial == h.serial) then refuseRead c r .notSealed 0 s
      else if r.req.bufLength < 32 + h.length then refuseRead c r .tooSmall (32 + h.length) s
      else copyEntry c r i off h s

/-- The READ claims a read buffer and makes its lookup (R22). -/
def takeReadBuffer (c : ChanId) (r : Executing) (s : State) : State :=
  readLookup c r { s with journal.readBuffers := s.journal.readBuffers ++ [({ chan := c, data := [] } : ReadBuffer)] }

/-- READ: the formatted check, then a read buffer or the wait for one (R21, R22, R94). -/
def beginRead (c : ChanId) (r : Executing) (s : State) : State :=
  if !s.journal.formatted then completeExec c (r.req.refusal .notFormatted 0) s
  else if s.journal.readBuffers.length < 2 ∧ s.journal.readWaiters = [] then takeReadBuffer c r s
  else setStage c .waitReadBuffer { s with journal.readWaiters := s.journal.readWaiters ++ [c] }

/-- READ (R21). -/
def execRead (chan : ChanId) (s : State) : Result :=
  .next (settle false (withExec chan .read Stage.isHanded (beginRead chan) s))

/-- READ_BUFFER_CLAIM (R22): the oldest waiting READ takes a returned buffer. -/
def execReadBufferClaim (s : State) : Result :=
  .next
    (match s.journal.readWaiters with
     | [] => s
     | c :: rest =>
       match (s.chan c).exec with
       | none => s
       | some r =>
         if s.journal.readBuffers.length < 2 then
           settle false (takeReadBuffer c r { s with journal.readWaiters := rest })
         else s)

/-- The end of a READ's host write (R23). After a host write error the completion carries timestamp zero: R23 gives its status,
seq and detail only (the model's choice, log entry 45). -/
def endRead (c : ChanId) (ok : Bool) (r : Executing) (s : State) : State :=
  match r.stage with
  | .readWrite seq stamp bytes =>
    if ok then completeExec c (r.req.completion .ok seq stamp bytes) s
    else refuseRead c r .hostWriteError 0 s
  | _ => s

/-- READ_DATA_WRITE_END (R23, R163). -/
def execReadDataWriteEnd (chan : ChanId) (ok : Bool) (s : State) : Result :=
  .next (settle false (withExec chan .read (fun _ => true) (endRead chan ok) s))

end Sys2Proof.Machine
end

