-- ==== Sys2Proof/Machine/Release.lean ====
section
/-! DEFINITION. RELEASE, retirement and FORMAT (05).
-/
namespace Sys2Proof.Machine

/-! ### Retirement (R102) -/

/-- The segment's record at retirement; it leaves the chain (R102, steps 1 and 2). -/
def retireSegment (i : SegId) (s : State) : State :=
  let s := s.setSeg i { Segment.freeForm with state := .retired }
  { s with journal.chain := s.journal.chain.filter (fun j => j != i) }

/-- The SEGMENT_RETIRED alert of a segment whose record stood as `g` (R102, R172). -/
def retiredAlert (i : SegId) (g : Segment) (s : State) : State :=
  postAlert .segmentRetired (g.lastSeq.getD 0) (i.val + g.firstSeq.getD 0 * 2 ^ 16) (setMetadataDirty s)

/-- The alerts and metadata reports of a list of retired segments, with their records as they stood. -/
def reportRetired (retired : List (SegId × Segment)) (s : State) : State :=
  retired.foldl (fun s x => retiredAlert x.1 x.2 s) s

/-! ### Applying a release (R97, R98) -/

/-- What a release does with one covered member of the chain, by its state (R97, R98). -/
def releaseMember (s : State) (i : SegId) : State :=
  let g := s.seg i
  match g.state with
  | .full => if g.inStore then s.setSeg i { g with state := .freeing } else freeSegment i s
  | .openS =>
    if g.inStore then s
    else
      State.setSeg { s with store.queue := s.store.queue.filter (fun j => j != i) } i { g with unstoredFrom := none }
  | .failed => retireSegment i s
  | .freeing => s
  | .free => s
  | .retired => s

/-- The covered run at the front of the chain (R97). -/
def State.coveredMembers (s : State) (n : Nat) : List SegId :=
  s.journal.chain.takeWhile (fun i => (s.seg i).coveredBy n)

/-- A covered member becomes FREE at the release, or comes to count as FREE (R97, R98). -/
def State.relieves (s : State) (i : SegId) : Bool :=
  ((s.seg i).state == .full || (s.seg i).state == .openS) && !(s.seg i).inStore

/-- The reports of a release to the budget unit, each taken as one event (R61, R97 step 1): every fall of D in turn,
then every segment that became FREE or came to count as FREE. The walk has ended, so each report finds D with every fall
of the release in it, and with the commits that the grants of earlier reports have made (log entry 18). -/
def reportRelief (falls freed : Nat) (s : State) : State :=
  (List.range freed).foldl (fun s _ => onFreed s) ((List.range falls).foldl (fun s _ => onRelief s) s)

/-- Test 5 of R95: head rises to `n` and the covered members are treated (R97). The retirements are reported in chain order,
and so their alerts are posted: R97 and R102 give no order (the model's choice, log entry 34). -/
def applyRelease (n : Nat) (s : State) : State :=
  let members := s.coveredMembers n
  let before := s.dirtyCount
  let freed := members.countP s.relieves
  let retired := (members.filter (fun i => (s.seg i).state == .failed)).map (fun i => (i, s.seg i))
  let s := members.foldl releaseMember { s with journal.head := n }
  let s := reportRelief (before - s.dirtyCount) freed s
  let s := setMetadataDirty (recomputeS s)
  reportRetired retired s

/-- The two counts of an applied release (R96): segments that became FREE or FREEING, segments retired. They count the
members of the walk: a covered OPEN segment stays OPEN at it and is not counted, also when the commit of a grant within the
same event frees it (the model's choice, log entry 42). -/
def State.releaseCounts (s : State) (n : Nat) : Nat × Nat :=
  let members := s.coveredMembers n
  (members.countP (fun i => (s.seg i).state == .full), members.countP (fun i => (s.seg i).state == .failed))

/-- The lowest first seq of an OPEN transaction at or below `n` (R95, test 4). -/
def State.openTxnInRange (s : State) (n : Nat) : Option Nat :=
  ((s.txns.table.filter (fun t => !t.expired && decide (t.firstSeq ≤ n))).map TxnRecord.firstSeq).min?

/-- RELEASE at its execution event, the tests of R95 in order; the flag says whether the release was applied. -/
def releaseExecute (c : ChanId) (r : Executing) (s : State) : State × Bool :=
  let n := r.req.seq
  let head := s.journal.head
  if !s.journal.formatted then (completeExec c (r.req.refusal .notFormatted 0) s, false)
  else if s.journal.nextSeq ≤ n then
    (completeExec c (r.req.completion .range head Stamp.zero (s.journal.nextSeq - 1)) s, false)
  else if n ≤ head then (completeExec c (r.req.completion .ok head Stamp.zero 0) s, false)
  else
    match s.openTxnInRange n with
    | some first => (completeExec c (r.req.completion .txnOpenInRange head Stamp.zero first) s, false)
    | none =>
      let counts := s.releaseCounts n
      (completeExec c (r.req.completion .ok n Stamp.zero (counts.1 + counts.2 * 2 ^ 16)) (applyRelease n s), true)

/-- RELEASE (R95). An applied release is a test event for a checkpoint (R91, R92). -/
def execRelease (chan : ChanId) (s : State) : Result :=
  .next
    (match (s.chan chan).exec with
     | none => s
     | some r =>
       if r.req.kind = .release ∧ r.stage = .handed then
         let x := releaseExecute chan r s
         settle x.2 x.1
       else s)

/-! ### FORMAT (R104, R105) -/

/-- Every data channel is CLOSED. -/
def State.dataChannelsClosed (s : State) : Bool :=
  (List.finRange 16).all (fun c => c == 0 || (s.chan c).state == .closed)

/-- FORMAT at its acceptance (R104). -/
def formatExecute (r : Executing) (s : State) : State :=
  if s.dataChannelsClosed then setStage 0 .formatWait s
  else completeExec 0 (r.req.refusal .busy 0) s

/-- FORMAT (R104). -/
def execFormat (s : State) : Result :=
  .next (settle false (withExec 0 .format Stage.isHanded formatExecute s))

/-- Steps 3 to 7 of R105, and a pending clock transfer, which FORMAT leaves absent (R107). -/
def clearJournal (s : State) : State :=
  { s with
    journal.segs := buildSegs (fun i => if (s.seg i).state = .retired then s.seg i else Segment.freeForm),
    journal.chain := [], journal.format := s.journal.format + 1, journal.head := 0, journal.nextSeq := 1,
    journal.formatted := true, journal.full := false,
    txns.nextSerial := 1, store.storedThrough := 0, clock.transfer := none }

/-- The start of R105: the queue is emptied, the idle timer stops, and FAILED segments are retired (R102), in ascending
segment number (the model's choice, log entry 34). -/
def retireFailed (s : State) : State :=
  let failed := (s.segsIn .failed).map (fun i => (i, s.seg i))
  let s := { s with store.queue := [], store.idleTimer := none }
  reportRetired failed (failed.foldl (fun s x => retireSegment x.1 s) s)

/-- The reset event of FORMAT (R105); its checkpoint is a running line store's (R130). -/
def resetJournal (s : State) : State :=
  let s := onRelief (setMetadataDirty (clearJournal (retireFailed s)))
  let s := setStage 0 .formatCheckpoint (startCheckpoint s)
  { s with store.lineStore := if s.store.lineStore = .none then .none else .checkpoint }

/-- FORMAT_RESET (R105): taken in READY or RUNNING when FORMAT waits and no operation is in flight. -/
def execFormatReset (s : State) : Result :=
  .next (if s.working ∧ s.formatHold ∧ s.store.op = none then settle false (resetJournal s) else s)

end Sys2Proof.Machine
end

