-- ==== Sys2Proof/Machine/Control.lean ====
section
/-! DEFINITION. The control requests of channel 0: OPEN_CHANNEL, CLOSE_CHANNEL, CONFIGURE, QUERY, ALERT_WAIT (10), and
RECOVERY_REPORT (R149).
-/
namespace Sys2Proof.Machine

/-! ### OPEN_CHANNEL (R167) -/

/-- The data channel an OPEN_CHANNEL names (section 11.1). -/
def Request.openTarget (r : Request) : ChanId := Fin.ofNat 16 (r.param 56 1)

/-- The record of a channel with the parameters of OPEN_CHANNEL (R155, R167). -/
def Request.openedChannel (r : Request) : Channel :=
  { Channel.closed with
    state := .active,
    setup := some { reqAddr := BitVec.ofNat 64 (r.param 32 8), reqSlots := 2 ^ (r.param 58 1 % 16),
                    cplAddr := BitVec.ofNat 64 (r.param 40 8), cplSlots := 2 ^ (r.param 58 1 / 16),
                    statusAddr := BitVec.ofNat 64 (r.param 48 8) },
    vector := r.param 56 1 / 16, threshold := r.param 57 1, holdoff := r.param 59 2, ageLimit := r.param 61 3 }

def openExecute (r : Executing) (s : State) : State :=
  let d := r.req.openTarget
  if (s.chan d).state = .closed then
    completeExec 0 (r.req.completion .ok 0 Stamp.zero d.val)
      (writeStatus d .becameActive (s.setChan d r.req.openedChannel))
  else completeExec 0 (r.req.completion .busy 0 Stamp.zero (s.chan d).state.code) s

/-- OPEN_CHANNEL (R167). -/
def execOpenChannel (s : State) : Result :=
  .next (settle false (withExec 0 .openChannel Stage.isHanded openExecute s))

/-! ### CLOSE_CHANNEL (R168) -/

/-- The data channel a CLOSE_CHANNEL names (section 11.1). -/
def Request.closeTarget (r : Request) : ChanId := Fin.ofNat 16 (r.param 32 1)

/-- The records that FORCE cancels: the waiting records of the channel (R85). -/
def State.waitersOf (s : State) (d : ChanId) : Nat := s.store.waiting.countP (fun w => w.chan == d)

/-- A held request completes CANCELLED as its channel enters DRAINING (R37). -/
def cancelHeld (d : ChanId) (s : State) : State :=
  match (s.chan d).exec with
  | some r => if r.stage = .held then completeExec d (r.req.refusal .cancelled 0) s else s
  | none => s

/-- FORCE completes the channel's waiting records CANCELLED (R85), in wait-list order: R85, R156 and R168 give none (the
model's choice, log entry 33). -/
def cancelWaiters (d : ChanId) (s : State) : State := finishWaiters (fun w => w.chan == d) .cancelled s

/-- The channel's record takes DRAINING and the pending close; channel 0's execution ends without a slot (R168). -/
def markDraining (d : ChanId) (tag : Tag) (n : Nat) (s : State) : State :=
  (endExecution 0 s).modChan d (fun ch =>
    { ch with state := .draining, pendingClose := some { tag := tag, cancelled := n } })

/-- An ACTIVE channel enters DRAINING with a pending close (R52, R156, R168). With FORCE the held request's CANCELLED takes
its slot before those of the waiting records, and the grant run for an oldest held record that left (R65) is taken last
in the event (the model's choices, log entry 33). -/
def beginDrain (d : ChanId) (tag : Tag) (force : Bool) (s : State) : State :=
  let oldestLeft := s.oldestIs d
  let n := if force then s.waitersOf d else 0
  let s := cancelHeld d (endTxns (fun x => x == d) (markDraining d tag n s))
  let s := if force then cancelWaiters d s else s
  grantAfter oldestLeft (drainCheck d s)

/-- CLOSE_CHANNEL by the named channel's state (R168). When FORCE empties a DRAINING channel, the close that waited for its
drain takes its slot before this request's own completion (the model's choice, log entry 36). -/
def closeExecute (r : Executing) (s : State) : State :=
  let d := r.req.closeTarget
  match (s.chan d).state with
  | .closed => completeExec 0 (r.req.completion .ok 0 Stamp.zero (closeDetail d .closed none 0)) s
  | .active => beginDrain d r.req.tag r.req.forceFlag s
  | .draining =>
    if r.req.forceFlag then
      completeExec 0 (r.req.completion .ok 0 Stamp.zero (closeDetail d .draining none (s.waitersOf d)))
        (cancelWaiters d s)
    else completeExec 0 (r.req.completion .busy 0 Stamp.zero d.val) s
  | .faulted =>
    completeExec 0 (r.req.completion .ok 0 Stamp.zero (closeDetail d .faulted (s.chan d).faultReason 0))
      (s.setChan d Channel.closed)

/-- CLOSE_CHANNEL (R168). -/
def execCloseChannel (s : State) : Result :=
  .next (settle false (withExec 0 .closeChannel Stage.isHanded closeExecute s))

/-! ### CONFIGURE (R169, R60) -/

/-- B is recomputed; then exposure, pressure and, when B has risen, a grant run (R60). -/
def recomputeBudget (s : State) : State :=
  let old := s.budget.b
  let s := { s with budget.b := min s.monitor.c s.budget.limit }
  if s.budgetLive then
    let risen := decide (old < s.budget.b)
    grantAfter risen (recomputePressure (evalExposure s))
  else s

/-- Setting `bit` of a CONFIGURE is selected (section 11.1). -/
def Request.selects (r : Request) (bit : Nat) : Bool := bitAt (r.param 32 1) bit

/-- A channel setting is selected. -/
def Request.namesChannel (r : Request) : Bool := r.selects 3 || r.selects 4 || r.selects 5 || r.selects 6

/-- The data channel a CONFIGURE names. -/
def Request.configureTarget (r : Request) : ChanId := Fin.ofNat 16 (r.param 33 1)

/-- The channel's record with the selected settings. -/
def Request.configured (r : Request) (ch : Channel) : Channel :=
  { ch with
    vector := if r.selects 3 then r.param 37 1 else ch.vector,
    threshold := if r.selects 4 then r.param 38 1 else ch.threshold,
    holdoff := if r.selects 5 then r.param 42 2 else ch.holdoff,
    ageLimit := if r.selects 6 then r.param 44 4 else ch.ageLimit }

/-- The selected settings of the named channel. -/
def configureNamed (r : Request) (s : State) : State :=
  if r.namesChannel then s.modChan r.configureTarget r.configured else s

/-- The selected settings of the budget unit and of the store engine. -/
def configureBlocks (r : Request) (s : State) : State :=
  { s with
    budget.limit := if r.selects 0 then r.param 34 2 else s.budget.limit,
    budget.headroom := if r.selects 1 then r.param 36 1 else s.budget.headroom,
    store.idleDelay := if r.selects 2 then r.param 40 2 else s.store.idleDelay }

/-- Every selected value is set, then the budget unit follows (log entry 29). -/
def applyConfigure (r : Request) (s : State) : State :=
  let s := configureBlocks r (configureNamed r s)
  if r.selects 0 then recomputeBudget s
  else if r.selects 1 then recomputePressure s
  else s

/-- The detail of a CONFIGURE: B, L and H (section 11.3). -/
def State.configureDetail (s : State) : Nat := s.budget.b + s.budget.limit * 2 ^ 16 + s.budget.headroom * 2 ^ 32

/-- CONFIGURE at its execution (R169). Its own completion takes its slot after those that its settings bring about (an alert
handed to a waiting ALERT_WAIT, waiting and held records): R169 gives no order (the model's choice, log entry 29). The detail
of a BUSY completion is 0 (the model's choice, log entry 17). -/
def configureExecute (r : Executing) (s : State) : State :=
  if r.req.namesChannel ∧ (s.chan r.req.configureTarget).state ≠ .active then
    completeExec 0 (r.req.refusal .busy 0) s
  else
    let s := applyConfigure r.req s
    completeExec 0 (r.req.completion .ok 0 Stamp.zero s.configureDetail) s

/-- CONFIGURE (R169). -/
def execConfigure (s : State) : Result :=
  .next (settle false (withExec 0 .configure Stage.isHanded configureExecute s))

/-! ### QUERY and RECOVERY_REPORT (R170, R149) -/

def queryExecute (r : Executing) (s : State) : State :=
  if r.req.bufLength < 128 then completeExec 0 (r.req.completion .tooSmall 0 Stamp.zero 128) s
  else
    (setStage 0 (.snapshotWrite s.store.storedThrough s.clock.reading) s).emit (.write r.req.addr s.snapshotBytes)

/-- QUERY (R170). -/
def execQuery (s : State) : Result :=
  .next (settle false (withExec 0 .query Stage.isHanded queryExecute s))

/-- The end of the snapshot's host write (R170). -/
def endQuery (ok : Bool) (r : Executing) (s : State) : State :=
  match r.stage with
  | .snapshotWrite through reading =>
    if ok then completeExec 0 (r.req.completion .ok through reading 128) s
    else completeExec 0 (r.req.refusal .hostWriteError 0) s
  | _ => s

/-- SNAPSHOT_WRITE_END (R170). -/
def execSnapshotWriteEnd (ok : Bool) (s : State) : Result :=
  .next (settle false (withExec 0 .query (fun _ => true) (endQuery ok) s))

def reportExecute (r : Executing) (s : State) : State :=
  if r.req.bufLength < 256 then completeExec 0 (r.req.completion .tooSmall 0 Stamp.zero 256) s
  else (setStage 0 .reportWrite s).emit (.write r.req.addr s.recovery.reportBytes)

/-- RECOVERY_REPORT (R149). -/
def execRecoveryReport (s : State) : Result :=
  .next (settle false (withExec 0 .recoveryReport Stage.isHanded reportExecute s))

/-- REPORT_WRITE_END (R149). -/
def execReportWriteEnd (ok : Bool) (s : State) : Result :=
  .next
    (settle false
      (withExec 0 .recoveryReport (fun st => st == .reportWrite)
        (fun r s =>
          completeExec 0
            (if ok then r.req.completion .ok 0 Stamp.zero 256 else r.req.refusal .hostWriteError 0) s)
        s))

/-! ### ALERT_WAIT (R173) -/

def alertWaitExecute (r : Executing) (s : State) : State :=
  match s.cc.alerts with
  | a :: rest => completeExec 0 (a.completion r.req.tag false) { s with cc.alerts := rest }
  | [] =>
    if s.cc.alertWaiters.length < 4 then
      endExecution 0 { s with cc.alertWaiters := s.cc.alertWaiters ++ [r.req.tag] }
    else completeExec 0 (r.req.refusal .limit 0) s

/-- ALERT_WAIT (R173). -/
def execAlertWait (s : State) : Result :=
  .next (settle false (withExec 0 .alertWait Stage.isHanded alertWaitExecute s))

end Sys2Proof.Machine
end

