-- ==== Sys2Proof/Machine/ClockUnit.lean ====
section
/-! DEFINITION. The journal clock: SET_CLOCK and its application, ticks, the oscillator and the battery (06).
-/
namespace Sys2Proof.Machine

/-! ### SET_CLOCK (R111, R112) -/

/-- The detail of a SET_CLOCK: clock-valid, oscillator status, battery status (section 11.3). -/
def Clock.detail (k : Clock) : Nat :=
  flagBit k.clockValid 0 + flagBit (!k.oscRunning) 8 + flagBit (!k.batteryGood) 16

/-- (epoch, T) is below last stamp (R111 test 2, R112 step 1). -/
def Clock.regresses (k : Clock) (ticks : Nat) : Bool :=
  match k.lastStamp with
  | some m => !Stamp.le m { epoch := k.epoch, ticks := ticks }
  | none => false

/-- SET_CLOCK at its acceptance; while an older transfer is pending it waits (R107, log entry 21). -/
def setClockExecute (r : Executing) (s : State) : State :=
  let k := s.clock
  let ticks := r.req.param 32 6
  if k.transfer.isSome then s
  else if r.req.newEpochFlag ∧ k.epoch = 65535 then
    completeExec 0 (r.req.completion .limit 0 k.reading k.detail) s
  else if !r.req.newEpochFlag ∧ k.regresses ticks then
    completeExec 0 (r.req.completion .clockRegress 0 (k.lastStamp.getD Stamp.zero) k.detail) s
  else
    setStage 0 .clockTransfer
      { s with clock.transfer := some { ticks := ticks, newEpoch := r.req.newEpochFlag, tag := r.req.tag } }

/-- SET_CLOCK (R111). -/
def execSetClock (s : State) : Result :=
  .next (settle false (withExec 0 .setClock Stage.isHanded setClockExecute s))

/-- The SET_CLOCK whose transfer has ended completes, unless channel 0 has dropped it (R113, R165, R166). -/
def completeSetClock (status : Status) (stamp : Stamp) (s : State) : State :=
  withExec 0 .setClock (fun st => st == .clockTransfer)
    (fun r s => completeExec 0 (r.req.completion status 0 stamp s.clock.detail) s) s

/-- The clock with the transfer loaded (R112, steps 2 and 3). -/
def Clock.load (k : Clock) (t : Transfer) : Clock :=
  { k with ticks := t.ticks, epoch := if t.newEpoch then k.epoch + 1 else k.epoch, validMarker := true,
           clockValid := k.oscRunning, transfer := none }

/-- CLOCK_TRANSFER_APPLICATION (R112). A change of the epoch is a metadata-dirty event (R91, R92), in either journal state:
where R94 says that the store engine of an UNFORMATTED journal writes only the recovery checkpoint, the model writes this
background checkpoint too (the model's choice, log entry 46). -/
def execClockTransferApplication (s : State) : Result :=
  .next
    (match s.clock.transfer with
     | none => s
     | some t =>
       if !t.newEpoch ∧ s.clock.regresses t.ticks then
         settle false
           (completeSetClock .clockRegress (s.clock.lastStamp.getD Stamp.zero) { s with clock.transfer := none })
       else
         let s := { s with clock := s.clock.load t }
         let s := if t.newEpoch then setMetadataDirty s else s
         settle t.newEpoch (completeSetClock .ok s.clock.reading s))

/-! ### Ticks, oscillator, battery (R108, R109, R114) -/

/-- CLOCK_TICK (R108): the counter advances, holding at 2^48 - 1. A declared stop freezes it, except in OFF, where
the device side watches nothing. -/
def execClockTick (s : State) : Result :=
  .next
    (if s.clock.oscRunning ∨ s.device = .off then { s with clock.ticks := min (s.clock.ticks + 1) (2 ^ 48 - 1) }
     else s)

/-- OSCILLATOR_STOP (R114): in OFF the battery domain sets its stop latch. Outside OFF the stop is recorded too, so that a
decision of R116 yet to come leaves clock-valid clear (R110, R114; DEDUCED, log entry 32). -/
def execOscillatorStop (s : State) : Result :=
  .next
    (if s.device = .off then { s with clock.stopLatch := true }
     else if s.clock.oscRunning then
       postAlert .clockStopped 0 1
         { s with clock.oscRunning := false, clock.clockValid := false, clock.stopRecorded := true }
     else s)

/-- OSCILLATOR_RESTART (R114): clock-valid stays clear. -/
def execOscillatorRestart (s : State) : Result :=
  .next (if s.device = .off then s else { s with clock.oscRunning := true })

/-- The battery domain loses its contents: the intact marker reads clear at the next entry to RECALL, and the rest is
undefined (R108, log entry 9). -/
def loseBatteryDomain (s : State) : State :=
  { s with
    clock.intact := false, clock.ticks := Config.freeTicks s.free % 2 ^ 48,
    clock.epoch := Config.freeEpoch s.free % 2 ^ 16, clock.stopLatch := Config.freeStopLatch s.free,
    clock.validMarker := Config.freeValidMarker s.free, free := s.free + 1 }

/-- BATTERY_CROSSING (R109). In OFF no status is kept; a fall there loses the domain (R108). -/
def execBatteryCrossing (good : Bool) (s : State) : Result :=
  .next
    (if s.device = .off then
       if good then { s with clock.vbatGood := true } else loseBatteryDomain { s with clock.vbatGood := false }
     else { s with clock.vbatGood := good, clock.batteryGood := good })

/-- BATTERY_DOMAIN_LOSS (R108): VBAT falls below 2.0 V in OFF. -/
def execBatteryDomainLoss (s : State) : Result :=
  .next (if s.device = .off then loseBatteryDomain { s with clock.vbatGood := false } else s)

end Sys2Proof.Machine
end

