-- ==== Sys2Proof/Machine/StoreSteps.lean ====
section
/-! DEFINITION. The ends of store passes and of checkpoint writes, the idle timer, the end of RECOVER, line-store requests
(04; 07, sections 7.3 and 7.4; 08, R134).
-/
namespace Sys2Proof.Machine

/-! ### The end of a job (R77 to R80) -/

/-- Commits were taken into the segment during its job (R77, step 1). -/
def Segment.grewInStore (g : Segment) : Bool :=
  match g.lastSeq, g.snapshot with
  | some l, some n => n < l
  | _, _ => false

/-- The segment's record after a verified job (R77, steps 1 and 2). -/
def Segment.stored (g : Segment) : Segment :=
  { g with unstoredFrom := if g.grewInStore then g.snapshot.map (fun n => n + 1) else none, inStore := false,
           snapshot := none, retry := 0 }

/-- A verified pass ends the job of an OPEN or FULL segment: its record, and the re-queue (R77, steps 1 to 3). -/
def endJob (i : SegId) (s : State) : State :=
  queueSeg i (State.modSeg { s with store.op := none } i Segment.stored)

/-- The segment's record at its failure (R79, step 1). -/
def Segment.failedForm (g : Segment) : Segment :=
  { g with state := .failed, unstoredFrom := none, inStore := false, snapshot := none, retry := 0 }

/-- The segment fails: its record, the idle timer of an OPEN one, the end of the operation (R79, step 1). -/
def failSegment (i : SegId) (s : State) : State :=
  let timer := if (s.seg i).state = .openS then none else s.store.idleTimer
  State.modSeg { s with store.op := none, store.idleTimer := timer } i Segment.failedForm

/-- A failed pass below the third: a new pass begins at once (R78). -/
def retryPass (i : SegId) (s : State) : State :=
  State.modSeg { s with store.op := some (.job i 0) } i (fun g => { g with retry := g.retry + 1 })

/-- Jobs since dirty counts while metadata-dirty is set (R77, step 6). -/
def countJob (s : State) : State :=
  if s.store.metadataDirty then { s with store.jobsSinceDirty := s.store.jobsSinceDirty + 1 } else s

/-- The end of a FREEING segment's job, by any outcome: it becomes FREE (R80). -/
def endFreeing (i : SegId) (s : State) : State := freeSegment i { s with store.op := none }

/-- The alert of a failed segment (R79, R172). -/
def mediaFaultAlert (i : SegId) (u : Nat) (s : State) : State := postAlert .mediaFault u i.val s

/-- A waiting record's entry is lost with failed segment `i`, whose former unstored-from is `u`: it stands in the segment
at or above `u`, where it is neither dirty nor stored. -/
def State.lostWith (s : State) (i : SegId) (u : Nat) (w : Waiter) : Bool :=
  decide (u ≤ w.target) && decide (w.target ≤ (s.seg i).lastSeq.getD 0)

/-- Steps 2 to 7 of R79, in READY or RUNNING. When the fall of D at step 2 ends the exposure, the APPEND_EXPOSED records
complete OK there (R67), but those whose entries are lost with the segment: R39 lets them not, and they complete NV_FAULT at
step 4 (log entry 19). -/
def failureEffects (i : SegId) (u : Nat) (s : State) : State :=
  let s := setMetadataDirty (onReliefBut (s.lostWith i u) s)
  let s := finishWaiters (fun w => u ≤ w.target) .nvFault s
  let s := recomputeS (endAllHeld .nvFault s)
  mediaFaultAlert i u s

/-- A pass has ended in READY or RUNNING, its bytes copied (R77 to R80). -/
def passEnd (i : SegId) (agree : Bool) (s : State) : State :=
  let g := s.seg i
  if g.state = .freeing then
    let s := endFreeing i s
    recomputeS (onRelief s)
  else if agree then
    let s := endJob i s
    let s := if (s.seg i).dirty then s else onRelief s
    countJob (recomputeS s)
  else if g.retry < 2 then retryPass i s
  else failureEffects i (g.unstoredFrom.getD 0) (failSegment i s)

/-- A failure in the SEGMENTS phase joins the failed list, or sets its overflow flag (R123). -/
def listFailure (i : SegId) (s : State) : State :=
  if s.store.failedList.length < 8 then { s with store.failedList := s.store.failedList ++ [i] }
  else { s with store.failedOverflow := true }

/-- The effects of a failure in EMERGENCY, by the phase: the finishing job's is metadata and alert only (R121), a job
of the SEGMENTS phase is listed (R123). -/
def emergencyFailure (i : SegId) (u : Nat) (s : State) : State :=
  if s.store.phase = .segments then listFailure i s else mediaFaultAlert i u (setMetadataDirty s)

/-- The stored count counts the verified jobs of the SEGMENTS phase (R123, R124). -/
def countStored (s : State) : State :=
  if s.store.phase = .segments then { s with store.storedCount := s.store.storedCount + 1 } else s

/-- A pass has ended in EMERGENCY (R121, R123): no S, no waiter, no budget. -/
def emergencyPassEnd (i : SegId) (agree : Bool) (s : State) : State :=
  let g := s.seg i
  if g.state = .freeing then emergencyAdvance (endFreeing i s)
  else if agree then emergencyAdvance (countStored (endJob i s))
  else if g.retry < 2 then retryPass i s
  else emergencyAdvance (emergencyFailure i (g.unstoredFrom.getD 0) (failSegment i s))

/-- The pass's bytes: the rest is copied, and after differing check values what the shadow holds is free (R76). -/
def passBytes (i : SegId) (written : Nat) (agree : Bool) (s : State) : State :=
  let s := finishCopy i written s
  if agree then s else spoilShadow i s

/-- STORE_PASS_END (R76). The end of a job is a test event for a checkpoint (R92). -/
def execStorePassEnd (agree : Bool) (s : State) : Result :=
  .next
    (match s.store.op with
     | some (.job i written) =>
       let s := passBytes i written agree s
       if s.device = .emergency then emergencyPassEnd i agree s
       else settle true (passEnd i agree s)
     | _ => s)

/-- IDLE_TIMER_EXPIRY (R74): the OPEN segment is queued and the timer stops. -/
def execIdleTimerExpiry (s : State) : Result :=
  .next
    (match s.store.idleTimer with
     | none => s
     | some t => settle false (queueOpen { s.reachTime t with store.idleTimer := none }))

/-! ### Checkpoint writes (R93, R106, R134, R145) -/

/-- A write verified: the slot holds the checkpoint, which is the newest (R93). -/
def checkpointStored (slot : Slot) (x : Checkpoint) (s : State) : State :=
  setSlot slot (some x) { s with store.newest := some (slot, x.generation), store.op := none }

/-- The alert of a failed checkpoint write (R93, R172); the emergency checkpoint's posts none (log entry 20). -/
def checkpointAlert (slot : Slot) (x : Checkpoint) (s : State) : State :=
  if x.emergency then s
  else
    postAlert .mediaFault 0 (slot.code * 2 ^ 16)
      { s with store.metadataDirty := true, store.jobsSinceDirty := 0 }

/-- The third verify failed: the slot holds no valid checkpoint (R93). -/
def checkpointLost (slot : Slot) (x : Checkpoint) (s : State) : State :=
  checkpointAlert slot x (setSlot slot none { s with store.op := none })

/-- A verify failed before the third: the write is retried at once with the same contents (R93). -/
def retryCheckpoint (slot : Slot) (x : Checkpoint) (failures : Nat) (s : State) : State :=
  setSlot slot none { s with store.op := some (.checkpoint slot x (failures + 1)) }

/-- ENABLE and the control base are acted on as recovery ends (R134). -/
def leaveRecover (s : State) : State :=
  if s.window.enable then
    if s.window.baseValid then enterRunning s else badBase { s with device := .ready }
  else { s with device := .ready }

/-- The end of the recovery checkpoint write: the report stands, the device leaves RECOVER, a latched line store
begins (R134, R147). -/
def endRecover (ok : Bool) (s : State) : State :=
  let s := leaveRecover { s with
    recovery.report := s.recovery.building.map (fun r => { r with checkpointFailed := !ok }),
    recovery.building := none }
  if s.supply.latch then beginLineStore s else s

/-- FORMAT completes when its checkpoint write ends (R106). -/
def completeFormat (ok : Bool) (s : State) : State :=
  withExec 0 .format (fun st => st == .formatCheckpoint)
    (fun r s =>
      completeExec 0
        (r.req.completion (if ok then .ok else .nvFault) 0 Stamp.zero s.journal.format.toNat) s) s

/-- The write is the line store's: it stands in phase CHECKPOINT, or the write is FORMAT's (R129, R130,
log entry 25). -/
def State.lineStoreWrite (s : State) : Bool :=
  s.store.lineStore == .checkpoint || (s.formatCheckpointing && s.store.lineStore != .none)

/-- A background checkpoint write has ended in READY or RUNNING (R93, R106, R129). -/
def backgroundEnd (ok : Bool) (s : State) : State :=
  let lineStore := s.lineStoreWrite
  let s := completeFormat ok s
  if lineStore then lineStoreAfterCheckpoint ok s else s

/-- What follows the end of a checkpoint write, by the device state. -/
def afterCheckpoint (ok : Bool) (s : State) : State :=
  if s.device = .emergency then emergencyAdvance s
  else if s.device = .recover then settle ok (endRecover ok s)
  else settle ok (backgroundEnd ok s)

/-- CHECKPOINT_WRITE_END (R93). A write that did not succeed is no test event for a checkpoint. At FORMAT's third failed
verify the MEDIA_FAULT alert is posted before FORMAT completes NV_FAULT (R106; the model's choice, log entry 35). -/
def execCheckpointWriteEnd (verified : Bool) (s : State) : Result :=
  .next
    (match s.store.op with
     | some (.checkpoint slot x failures) =>
       if verified then afterCheckpoint true (checkpointStored slot x s)
       else if failures < 2 then retryCheckpoint slot x failures s
       else afterCheckpoint false (checkpointLost slot x s)
     | _ => s)

/-! ### PSTORE# (R127) -/

/-- PSTORE_REQUEST (R127): a low of at least 1 µs while the part's own drive is released. -/
def execPstoreRequest (lowNanoseconds : Nat) (s : State) : Result :=
  .next
    (if 1000 ≤ lowNanoseconds ∧ !s.supply.driveLow then
       if s.working then
         if s.store.lineStore = .none then settle false (beginLineStore s) else s
       else if s.device = .recall ∨ s.device = .recover then { s with supply.latch := true }
       else s
     else s)

end Sys2Proof.Machine
end

