-- ==== Sys2Proof/Machine/MonitorUnit.lean ====
section
/-! DEFINITION. The hold-up monitor: measurement, charging, learning and their faults (03, sections 3.1 to 3.3), and the
entry to OFF (07, R125; 08, R146).
-/
namespace Sys2Proof.Machine

/-! ### Entry to OFF (R125, R146, R108) -/

/-- A checkpoint write cut short whose slot the manual leaves invalid or with its older contents (R146), or says nothing of
(R125: a background write that was being finished): which of the two is a free value. After a failed verify the slot holds
nothing valid. The slot never holds the checkpoint that was being written, also when all its bytes were written and the
verify had not ended: R146's table lets the slot be "torn or rewritten", and its last column has the next start-up choose as
before (the model's choice, log entry 8). -/
def cutCheckpointWrite (slot : Slot) (failures : Nat) (s : State) : State :=
  if failures = 0 ∧ Config.freeSlotSurvives s.free then { s with free := s.free + 1 }
  else setSlot slot none { s with free := s.free + 1 }

/-- An array operation in flight stops at an arbitrary byte (R125). The slot of an emergency checkpoint then fails its CRC;
for a background write in FINISHING the table of R125 has no row (log entry 8). -/
def cutOperation (s : State) : State :=
  match s.store.op with
  | some (.job i _) => advanceCopy i s
  | some (.checkpoint slot x failures) =>
    if x.emergency then setSlot slot none s else cutCheckpointWrite slot failures s
  | some (.closingMark _ _) => { s with array.closing := none }
  | none => s

/-- The device enters OFF: nothing is in flight, PSTORE# is not driven (R127), and a battery that is low loses the
battery domain (R108, R109). -/
def enterOff (s : State) : State :=
  let s := { s with device := .off, store.op := none, supply.good := false, supply.driveLow := false }
  if s.clock.vbatGood then s else loseBatteryDomain s

/-! ### Measurement (R57, R58, R60, R125) -/

/-- HOLDUP_FAULT with a cause and its value (R58, section 11.3). -/
def holdupFault (cause value : Nat) (s : State) : State := postAlert .holdupFault 0 (cause + value * 2 ^ 32) s

/-- The sag run at a measurement, watched in CHARGED (R58). -/
def sagWatch (v : Nat) (s : State) : State :=
  if s.monitor.charge = .charged then
    if 8000 ≤ v then { s with monitor.sagStart := none, monitor.sagRaised := false }
    else
      match s.monitor.sagStart with
      | none => { s with monitor.sagStart := some s.now, monitor.sagRaised := false }
      | some t =>
        if 200000 ≤ s.now - t ∧ !s.monitor.sagRaised then
          holdupFault 3 v { s with monitor.sagRaised := true }
        else s
  else s

/-- V and C are recorded; the next measurement is 5 ms later (R57). -/
def recordMeasurement (v : Nat) (s : State) : State :=
  let s := s.reachTime s.monitor.nextMeasurement
  { s with monitor.v := v, monitor.c := capacity s.monitor.inUse v,
           monitor.nextMeasurement := s.monitor.nextMeasurement + 5000 }

/-- The power controller's decision at a reading below the 2.5 V floor (R125). -/
def powerDecision (v : Nat) (s : State) : State :=
  if (s.device = .emergency ∨ s.device = .halted) ∧ v < 2500 then enterOff (cutOperation s) else s

/-- MEASUREMENT (R57): in every device state but OFF. -/
def execMeasurement (millivolts : Nat) (s : State) : Result :=
  .next
    (if s.device = .off then s
     else
       settle false
         (powerDecision millivolts (sagWatch millivolts (recomputeBudget (recordMeasurement millivolts s)))))

/-! ### Charging (R54) -/

/-- CHARGED (R54). -/
def execCharged (s : State) : Result :=
  .next
    (if s.device ≠ .off ∧ s.monitor.charge = .charging then { s with monitor.charge := .charged } else s)

/-- NOT_CHARGED (R54): 2000 ms after the charge start, once between two entries to RECALL. -/
def execNotCharged (s : State) : Result :=
  .next
    (if s.device ≠ .off ∧ s.monitor.charge = .charging ∧ !s.monitor.faultRaised then
       let s := s.reachTime (s.monitor.chargeStart + 2000000)
       holdupFault 1 s.monitor.v { s with monitor.faultRaised := true }
     else s)

/-! ### Learning (R55) -/

/-- A learning ends with a capacitance in twelfths of a µF, that is 50 mA × t ÷ 6.0 V for t in 10 µs (R55). -/
def endLearning (twelfths : Nat) (s : State) : State :=
  if 1200 ≤ twelfths ∧ twelfths ≤ 56400 then
    { s with monitor.learning := .ended, monitor.learned := some twelfths, monitor.inUse := twelfths }
  else
    holdupFault 2 (microfarads twelfths) { s with monitor.learning := .ended, monitor.learned := none }

/-- LEARN_START (R55). -/
def execLearnStart (time : Nat) (s : State) : Result :=
  .next
    (if s.device ≠ .off ∧ s.monitor.learning = .waiting then
       let s := s.reachTime (time * 10)
       { s with monitor.learning := .timing, monitor.keptCrossing := time }
     else s)

/-- LEARN_END (R55). -/
def execLearnEnd (time : Nat) (s : State) : Result :=
  .next
    (if s.device ≠ .off ∧ s.monitor.learning = .timing then
       endLearning (time - s.monitor.keptCrossing) (s.reachTime (time * 10))
     else s)

/-- LEARN_TIMEOUT (R55): t is taken as 600 ms. -/
def execLearnTimeout (s : State) : Result :=
  .next
    (if s.device ≠ .off ∧ s.monitor.learning = .timing then
       endLearning 60000 (s.reachTime (s.monitor.keptCrossing * 10 + 600000))
     else s)

end Sys2Proof.Machine
end

