-- ==== Sys2Proof/Machine/Power.lean ====
section
/-! DEFINITION. The supply monitor and the power controller: entry to EMERGENCY, to OFF and to RECALL, and the end of the
emergency sequence (07; 08, R132).
-/
namespace Sys2Proof.Machine

/-! ### Entry to EMERGENCY (R118 to R121, R131) -/

/-- What every block takes at the entry, the store engine's sequence apart (R118). -/
def emergencyBlocks (s : State) : State :=
  { s with
    device := .emergency,
    cc.chans := Vector.replicate 16 Channel.closed, cc.fetch := none, cc.alertWaiters := [], cc.posts := [],
    cc.statusWrites := [],
    staging.buffers := [], staging.waiters := [],
    journal.readBuffers := [], journal.readWaiters := [], journal.full := false,
    budget.held := [],
    clock.transfer := none,
    monitor.charge := .discharging, monitor.sagStart := none, monitor.sagRaised := false,
    monitor.learning := if s.monitor.learning = .idle then .idle else .ended,
    store.waiting := [], store.reservationWaiters := [], store.idleTimer := none, store.lineStore := .none,
    store.handedD := s.dirtyCount, store.handedExposed := s.budget.exposed,
    supply.latch := false, supply.driveLow := true }

/-- The emergency sequence begins (R121): an operation in flight is finished first. -/
def beginSequence (s : State) : State :=
  if s.store.op.isSome then { s with store.phase := .finishing } else startEmergencyCheckpoint s

/-- Entry to EMERGENCY (R118). -/
def enterEmergency (s : State) : State := beginSequence (queueOpen (emergencyBlocks (abandonTransfers s)))

/-- A recovery checkpoint write cut short leaves its slot invalid or with its older contents, never with the new ones (R146,
log entry 8). -/
def cutRecoveryWrite (s : State) : State :=
  match s.store.op with
  | some (.checkpoint slot _ failures) => cutCheckpointWrite slot failures s
  | _ => s

/-- A supply failure in RECALL or RECOVER: the device enters OFF and nothing is stored (R146). -/
def abandonStart (s : State) : State :=
  let s := cutRecoveryWrite s
  enterOff { s with recovery.building := none, recovery.scanning := false }

/-- SUPPLY_FAIL (R117, R118, R146): acts when the supply state is GOOD; in OFF the monitor holds nothing. -/
def execSupplyFail (s : State) : Result :=
  .next
    (if s.device = .off ∨ !s.supply.good then s
     else
       let s := { s with supply.good := false }
       if s.working then enterEmergency s
       else if s.device = .recall ∨ s.device = .recover then abandonStart s
       else s)

/-! ### Entry to RECALL (R53, R55, R115, R132) -/

/-- The clock at entry to RECALL (R115). -/
def Clock.atRecall (k : Clock) : Clock :=
  { k with
    ticks := if k.intact then k.ticks else 0, epoch := if k.intact then k.epoch else 0,
    stopLatch := false, validMarker := k.intact && k.validMarker, intact := true, oscRunning := true,
    batteryGood := k.vbatGood, clockValid := false, lastStamp := none, transfer := none, batteryHeld := k.intact,
    stopRecorded := k.intact && k.stopLatch }

/-- The monitor at entry to RECALL, with the first reading of V (R53, R55). -/
def monitorAtRecall (now v : Nat) : Monitor :=
  { State.reset.monitor with
    v := v, chargeStart := now, nextMeasurement := now + 5000,
    learning := if 3000 ≤ v then .idle else .waiting }

/-- Every block at its power-on values (R132). The array, the recovery report, the battery domain and the SRAM that
the recall will overwrite are kept, and so are the model's own queue, time, output and free values. -/
def powerOn (v : Nat) (s : State) : State :=
  { State.reset with
    pending := s.pending, now := s.now, free := s.free, out := s.out,
    journal.sram := s.journal.sram, array := s.array, recovery.report := s.recovery.report,
    clock := s.clock.atRecall, monitor := monitorAtRecall s.now v }

/-- Entry to RECALL: the power-on values, and CLOCK_STOPPED when an intact domain holds its stop latch (R115). -/
def enterRecall (v : Nat) (s : State) : State :=
  if s.clock.intact && s.clock.stopLatch then postAlert .clockStopped 0 2 (powerOn v s) else powerOn v s

/-- SUPPLY_RETURN (R117, R126, R132). -/
def execSupplyReturn (millivolts : Nat) (s : State) : Result :=
  .next
    (if s.device = .off then enterRecall millivolts s
     else if s.supply.good then s
     else if s.device = .halted then enterRecall millivolts s
     else { s with supply.good := true })

/-! ### The closing mark and HALTED (R124, R126) -/

/-- The phase is ENDED: the device enters HALTED, the drive is released, and with a good supply it enters RECALL at
the same event (R118, R124, R126). -/
def endSequence (v : Nat) (s : State) : State :=
  let s := { s with store.op := none, store.phase := .ended, device := .halted, supply.driveLow := false }
  if s.supply.good then enterRecall v s else s

/-- CLOSING_MARK_WRITE_END (R124). -/
def execClosingMarkWriteEnd (verified : Bool) (millivolts : Nat) (s : State) : Result :=
  .next
    (match s.store.op with
     | some (.closingMark m failures) =>
       if verified then endSequence millivolts { s with array.closing := some m }
       else if failures < 2 then
         { s with array.closing := none, store.op := some (.closingMark m (failures + 1)) }
       else endSequence millivolts { s with array.closing := none }
     | _ => s)

end Sys2Proof.Machine
end

