-- ==== Sys2Proof/Machine/RecoveryUnit.lean ====
section
/-! DEFINITION. The recovery unit: the recall completion and the end of the scan (08, sections 8.2 to 8.7).
-/
namespace Sys2Proof.Machine

/-! ### Choosing the checkpoint (R133, R135, R136) -/

/-- The chosen slot and its checkpoint (R135). -/
def chooseCheckpoint : Option Checkpoint → Option Checkpoint → Option (Slot × Checkpoint)
  | none, none => none
  | some x, none => some (.a, x)
  | none, some y => some (.b, y)
  | some x, some y =>
    if y.generation = x.generation + 1 then some (.b, y)
    else if x.generation = y.generation + 1 then some (.a, x)
    else if y.generation.toNat ≤ x.generation.toNat then some (.a, x)
    else some (.b, y)

/-- The closing mark decides a CLEAN outcome: it matches a checkpoint whose emergency flag is set, or follows one
whose flag is clear (R136). -/
def markDecides (x : Checkpoint) (m : ClosingMark) : Bool :=
  if x.emergency then m.generation == x.generation else m.generation == x.generation + 1

/-- The closing mark's stored count is reported: the mark matches or follows, and does not merely match a checkpoint
whose emergency flag is clear, where it counts for nothing (R136, log entry 31). -/
def markCounts (x : Checkpoint) (m : ClosingMark) : Bool :=
  m.generation == x.generation + 1 || (x.emergency && m.generation == x.generation)

/-- The outcome, and the closing mark whose stored count is reported (R136). -/
def judgeOutcome (x : Option Checkpoint) (mark : Option ClosingMark) : Outcome × Option ClosingMark :=
  match x, mark with
  | none, _ => (.unformatted, none)
  | some _, none => (.incomplete, none)
  | some x, some m =>
    (if markDecides x m then .clean else .incomplete, if markCounts x m then some m else none)

/-- The monitor takes the learned capacitance that recovery hands it (R56). -/
def Monitor.handed (m : Monitor) (learned : Option Nat) : Monitor :=
  match m.learning with
  | .idle => { m with learned := learned, inUse := learned.getD 1200 }
  | .waiting => m
  | .timing => m
  | .ended => m

/-- The recall completion (R133, R135, R136, R144). -/
def completeRecall (s : State) : State :=
  let choice := chooseCheckpoint s.array.slotA s.array.slotB
  let judged := judgeOutcome (choice.map Prod.snd) s.array.closing
  { s with
    device := .recover, journal.sram := s.array.shadow,
    monitor := s.monitor.handed (choice.bind (fun x => x.2.learned)),
    store.newest := choice.map (fun x => (x.1, x.2.generation)),
    recovery := { s.recovery with
      building := none, scanning := true, slot := choice.map Prod.fst, checkpoint := choice.map Prod.snd,
      outcome := judged.1, mark := judged.2 } }

/-- RECALL_COMPLETION (R133). -/
def execRecallCompletion (s : State) : Result := .next (if s.device = .recall then completeRecall s else s)

/-! ### The segment scan (R137) -/

/-- The forms of R1 and R2 are broken (R137, test 5). -/
def Header.broken (h : Header) : Bool :=
  !(h.stateByte == liveByte || h.stateByte == voidByte) || h.channel == 0 ||
    (h.seq == 0 || decide (2 ^ 48 - 2 < h.seq)) || decide (1023 < h.index) ||
    (h.serial == 0 && (h.index != 0 || h.hostId != 0 || h.sealFlag)) ||
    (h.serial != 0 && h.hostId == 0) || (h.hostId != 0 && h.serial == 0) ||
    (h.length == 0 && !(h.serial != 0 && h.sealFlag))

/-- The header at an offset passes every test of R137, after a previous accepted seq (0 for none). -/
def acceptHeader (mem : Memory) (base : Nat) (format : BitVec 16) (off prev : Nat) (bytes : List Byte) (h : Header) :
    Bool :=
  !(bytes.all (fun b => b == 0)) && h.format == format && decide (h.length ≤ 4064) &&
    decide (off + footprint h.length ≤ 4096) &&
    entryCrc bytes (mem.readBytes (base + off + 32) h.length) == h.crc && !h.broken && decide (prev < h.seq)

/-- The accepted headers of a segment from an offset on, with their offsets (R137). -/
def scanFrom (mem : Memory) (base : Nat) (format : BitVec 16) : Nat → Nat → Nat → List (Nat × Header)
  | 0, _, _ => []
  | fuel + 1, off, prev =>
    if off + 32 ≤ 4096 then
      let bytes := mem.readBytes (base + off) 32
      let h := parseHeader bytes
      if acceptHeader mem base format off prev bytes h then
        (off, h) :: scanFrom mem base format fuel (off + footprint h.length) h.seq
      else []
    else []

/-! ### What the scan found (R138, R139) -/

/-- A found entry: its segment, offset and header. -/
structure Found where
  seg : SegId
  off : Nat
  header : Header
  deriving DecidableEq, Repr

/-- The values restored from the choice (R136): format, head, next seq, next serial, retired set, segments not
scanned (R139). -/
structure Restored where
  format : BitVec 16
  head : Nat
  nextSeq : Nat
  nextSerial : Nat
  retired : List SegId
  excluded : List SegId
  deriving DecidableEq, Repr

/-- The closing mark whose failed list is used: the one that decided a CLEAN outcome (R136). -/
def Recovery.listedMark (r : Recovery) : Option ClosingMark := if r.outcome = .clean then r.mark else none

def Recovery.restored (r : Recovery) : Restored :=
  match r.checkpoint with
  | none => { format := 0, head := 0, nextSeq := 1, nextSerial := 1, retired := [], excluded := [] }
  | some x =>
    { format := x.format, head := x.head, nextSeq := x.nextSeq, nextSerial := x.nextSerial, retired := x.retired,
      excluded := x.failed ++ (r.listedMark.map ClosingMark.failedList).getD [] }

/-- The found entries of one segment. -/
def scanSegment (mem : Memory) (format : BitVec 16) (i : SegId) : List Found :=
  (scanFrom mem (segBase i) format 128 0 0).map (fun e => { seg := i, off := e.1, header := e.2 })

/-- The found entries of every scanned segment, segment by segment (R137, R139); with no checkpoint nothing is
scanned. -/
def State.scanAll (s : State) : List (List Found) :=
  let r := s.recovery.restored
  if s.recovery.checkpoint.isNone then []
  else
    ((List.finRange 512).filter (fun i => !(r.retired.contains i || r.excluded.contains i))).map
      (scanSegment s.journal.sram r.format)

/-- A segment's recovered range: its first found entry above head to its last found entry (R138). -/
def recoveredRange (head : Nat) (found : List Found) : Option (Nat × Nat) :=
  match found.find? (fun f => decide (head < f.header.seq)), found.getLast? with
  | some a, some b => some (a.header.seq, b.header.seq)
  | _, _ => none

def rangesOverlap (a b : Nat × Nat) : Bool := decide (a.1 ≤ b.2) && decide (b.1 ≤ a.2)

/-- The overlaps of R138 are settled: which ranges are kept, taken in ascending order of their first seq. -/
def settleRanges : List (SegId × Nat × Nat) → List (SegId × Nat × Nat) → List (SegId × Nat × Nat)
  | kept, [] => kept
  | kept, x :: xs => if kept.any (fun k => rangesOverlap k.2 x.2) then settleRanges kept xs
    else settleRanges (kept ++ [x]) xs

/-- The ranges of the scanned segments, ascending in first seq and, where those are equal, in segment number. -/
def rangesOf (head : Nat) (scans : List (List Found)) : List (SegId × Nat × Nat) :=
  sortByKey (fun x => x.2.1)
    (scans.filterMap (fun fs =>
      match fs.head?, recoveredRange head fs with
      | some f, some x => some (f.seg, x)
      | _, _ => none))

/-- The found entries after the overlaps are settled: those of a segment whose range is not kept are set aside
(R138). -/
def keptScans (head : Nat) (scans : List (List Found)) : List (List Found) :=
  let kept := settleRanges [] (rangesOf head scans)
  scans.filter (fun fs =>
    match fs.head?, recoveredRange head fs with
    | some f, some x => kept.any (fun k => k.1 == f.seg && k.2 == x)
    | _, _ => true)

/-! ### Transactions (R140, R141) -/

def aboveHead (head : Nat) (found : List Found) : List Found := found.filter (fun f => decide (head < f.header.seq))

/-- Condition 5 of R140 for lowest index `i`, first found above head at seq `first`. -/
def firstIndexCovered (head i first : Nat) (all own : List Found) : Bool :=
  i == 0 || own.any (fun f => f.header.index + 1 == i && decide (f.header.seq ≤ head)) ||
    ((aboveHead head all).countP (fun f => decide (f.header.seq < first)) == first - 1 - head)

/-- Conditions 2 to 5 of R140 for the `k` of the SEAL entry. When two found entries of the serial above head carry the lowest
index `i`, "the seq of index i" is that of the first of them in the order of the scan, by segment number and then by offset:
R140 is silent there (DESIGN CHOICE, log entry 43). -/
def serialWhole (head k : Nat) (all own : List Found) : Bool :=
  let above := aboveHead head own
  let i := ((above.map (fun f => f.header.index)).min?).getD 0
  let first := ((above.find? (fun f => f.header.index == i)).map (fun f => f.header.seq)).getD 0
  own.all (fun f => decide (f.header.index < k)) &&
    own.all (fun f => f.header.stateByte == liveByte &&
      own.all (fun g => f.header.channel == g.header.channel && f.header.hostId == g.header.hostId)) &&
    ((List.range k).drop i).all (fun j => above.any (fun f => f.header.index == j)) &&
    firstIndexCovered head i first all own

/-- The transaction of a serial is kept (R140). -/
def serialKept (head serial : Nat) (all : List Found) : Bool :=
  let own := all.filter (fun f => f.header.serial == serial)
  match own.filter (fun f => f.header.sealFlag) with
  | [x] => serialWhole head (x.header.index + 1) all own
  | _ => false

/-- The serials that are judged: those with a found entry above head (R140). -/
def judgedSerials (head : Nat) (all : List Found) : List Nat :=
  (((aboveHead head all).map (fun f => f.header.serial)).filter (fun n => n != 0)).eraseDups

/-- The serials whose transactions are discarded (R140). -/
def discardedSerials (head : Nat) (all : List Found) : List Nat :=
  (judgedSerials head all).filter (fun n => !serialKept head n all)

/-- The found entries above head of discarded transactions become VOID (R141). -/
def markDiscarded (head : Nat) (all : List Found) (s : State) : State :=
  let gone := discardedSerials head all
  ((aboveHead head all).filter (fun f => gone.contains f.header.serial)).foldl
    (fun s f => markVoid s (f.seg, f.off)) s

/-! ### Rebuilding (R142, R143) -/

/-- The record of a segment with found entries above head (R143). -/
def fullRecord (found : List Found) : Segment :=
  { Segment.freeForm with
    state := .full, firstSeq := found.head?.map (fun f => f.header.seq),
    lastSeq := found.getLast?.map (fun f => f.header.seq),
    fill := (found.getLast?.map (fun f => f.off + footprint f.header.length)).getD 0 }

/-- The segments that hold recovered entries, with their found entries. -/
def recoveredSegs (head : Nat) (scans : List (List Found)) : List (SegId × List Found) :=
  scans.filterMap (fun fs =>
    match fs.head?, recoveredRange head fs with
    | some f, some _ => some (f.seg, fs)
    | _, _ => none)

/-- The record of segment `i` after the rebuild (R143). -/
def rebuiltSegment (r : Restored) (segs : List (SegId × List Found)) (i : SegId) : Segment :=
  if r.retired.contains i || r.excluded.contains i then { Segment.freeForm with state := .retired }
  else
    match segs.find? (fun x => x.1 == i) with
    | some x => fullRecord x.2
    | none => Segment.freeForm

/-- The chain: the FULL segments ordered by first seq (R143). -/
def rebuiltChain (segs : List (SegId × List Found)) : List SegId :=
  (sortByKey (fun x => ((x.2.head?.map (fun f => f.header.seq)).getD 0)) segs).map Prod.fst

/-- The next serial: the greater of the checkpoint's and the highest found plus one, wrapped to 1 (R142, step 3). -/
def rebuiltSerial (checkpoint : Nat) (all : List Found) : Nat :=
  let n := max checkpoint (((all.map (fun f => f.header.serial)).max?.getD 0) + 1)
  if 2 ^ 32 - 1 < n then 1 else n

/-- Steps 2 to 5 and 8 of R142. -/
def rebuildJournal (r : Restored) (scans : List (List Found)) (s : State) : State :=
  let all := scans.flatten
  let segs := recoveredSegs r.head scans
  let next := max r.nextSeq (((all.map (fun f => f.header.seq)).max?.getD 0) + 1)
  setMetadataDirty
    { s with
      journal.format := r.format, journal.head := r.head, journal.nextSeq := next,
      journal.segs := buildSegs (rebuiltSegment r segs), journal.chain := rebuiltChain segs,
      journal.formatted := s.recovery.outcome != .unformatted, journal.full := false,
      txns.table := [], txns.nextSerial := rebuiltSerial r.nextSerial all,
      store.queue := [], store.storedThrough := next - 1 }

/-! ### The clock's decision (R116) -/

/-- The highest timestamp among the found entries (R144). -/
def highestStamp (all : List Found) : Option Stamp :=
  all.foldl (fun m f => Stamp.greater m (some f.header.stamp)) none

/-- The decision is LOST (R116). -/
def Clock.decidesLost (k : Clock) (m : Option Stamp) : Bool :=
  !k.batteryHeld ||
    match m with
    | some m => !Stamp.le m k.reading
    | none => false

/-- The clock after its decision (R116). A stop declared since the entry to RECALL counts as recorded, so that clock-valid
is never set while the oscillator is STOPPED (R110, R114; DEDUCED, log entry 32). -/
def Clock.decided (k : Clock) (m : Option Stamp) (checkpointValid : Bool) : Clock :=
  if k.decidesLost m then
    match m with
    | none => { k with epoch := 0, ticks := 0, clockValid := false, validMarker := false, lastStamp := none }
    | some x =>
      if x.epoch = 65535 then
        { k with epoch := 65535, ticks := x.ticks, clockValid := false, validMarker := false, lastStamp := some x }
      else
        { k with epoch := x.epoch + 1, ticks := 0, clockValid := false, validMarker := false, lastStamp := some x }
  else
    { k with clockValid := checkpointValid && k.validMarker && !k.stopRecorded, lastStamp := m }

/-! ### The report (R147, R148) -/

/-- The runs of absent sequence numbers from `next` to `last`, given the found ones in ascending order (R148). -/
def absentRuns (last : Nat) : Nat → List Nat → List (Nat × Nat)
  | next, [] => if next ≤ last then [(next, last)] else []
  | next, x :: xs => (if next < x then [(next, x - 1)] else []) ++ absentRuns last (x + 1) xs

def runLength (r : Nat × Nat) : Nat := r.2 + 1 - r.1

/-- A found entry above head is a recovered live entry (R141). -/
def countsLive (gone : List Nat) (f : Found) : Bool :=
  f.header.stateByte == liveByte && !gone.contains f.header.serial

/-- The report as it is built at the end of the scan (R147), after the rebuild. -/
def buildReport (r : Restored) (all : List Found) (lost : Bool) (s : State) : Report :=
  let above := aboveHead r.head all
  let gone := discardedSerials r.head all
  let runs := absentRuns (s.journal.nextSeq - 1) (r.head + 1)
    (sortByKey (fun n => n) (above.map (fun f => f.header.seq)))
  let x := s.recovery.checkpoint
  let emergency := (x.map Checkpoint.emergency).getD false
  { outcome := s.recovery.outcome,
    checkpointUsed := match s.recovery.slot, x with
      | some slot, some x => some (slot, x.generation)
      | _, _ => none,
    format := r.format, head := r.head, nextSeq := s.journal.nextSeq, nextSerial := s.txns.nextSerial,
    liveEntries := above.countP (countsLive gone),
    sealedTxns := (judgedSerials r.head all).length - gone.length, discardedTxns := gone.length,
    voidEntries := above.countP (fun f => !countsLive gone f),
    absentRanges := runs.take 8, absentOverflow := decide (8 < runs.length),
    absentTotal := (runs.map runLength).sum,
    segmentsRetired := (r.excluded.eraseDups.filter (fun i => !r.retired.contains i)).length,
    unlistedFailures := (s.recovery.listedMark.map ClosingMark.overflow).getD false, clockLost := lost,
    exposedAtLoss := emergency && (x.map Checkpoint.exposedAtEmergency).getD false,
    dirtyAtLoss := if emergency then (x.map Checkpoint.dirtyAtEmergency).getD 0 else 0,
    storedAtLoss := s.recovery.mark.map ClosingMark.storedCount, checkpointFailed := false }

/-- Steps 6 and 7 of R142: the clock decides, and the report is built. -/
def decideAndReport (r : Restored) (all : List Found) (s : State) : State :=
  let x := s.recovery.checkpoint
  let m := Stamp.greater (x.bind Checkpoint.lastStamp) (highestStamp all)
  let lost := s.clock.decidesLost m
  let s := { s with clock := s.clock.decided m ((x.map Checkpoint.clockValid).getD false) }
  { s with recovery.building := some (buildReport r all lost s), recovery.scanning := false }

/-- The end-of-scan event (R142), ending with the start of the recovery checkpoint (R145). -/
def endScan (s : State) : State :=
  let r := s.recovery.restored
  let scans := keptScans r.head s.scanAll
  let all := scans.flatten
  startCheckpoint (decideAndReport r all (rebuildJournal r scans (markDiscarded r.head all s)))

/-- END_OF_SCAN (R142). -/
def execEndOfScan (s : State) : Result :=
  .next (if s.device = .recover ∧ s.recovery.scanning then endScan s else s)

end Sys2Proof.Machine
end

