-- ==== Sys2Proof/Machine/Dispatch.lean ====
section
/-! DEFINITION. The meaning of each command: one arm per constructor of Instr, each a call of that command's own meaning.
-/
namespace Sys2Proof.Machine

def exec (i : Instr) (s : State) : Host.Outcome State Fault Refusal :=
  match i with
  | .hostReset cause => Sys2Proof.Machine.execHostReset cause s
  | .enable => Sys2Proof.Machine.execEnable s
  | .notify chan index => Sys2Proof.Machine.execNotify chan index s
  | .retire chan index => Sys2Proof.Machine.execRetire chan index s
  | .registerWrite offset width value => Sys2Proof.Machine.execRegisterWrite offset width value s
  | .fetchEnd result => Sys2Proof.Machine.execFetchEnd result s
  | .append chan => Sys2Proof.Machine.execAppend chan s
  | .sealTxn chan => Sys2Proof.Machine.execSeal chan s
  | .abort chan => Sys2Proof.Machine.execAbort chan s
  | .read chan => Sys2Proof.Machine.execRead chan s
  | .flush chan => Sys2Proof.Machine.execFlush chan s
  | .release chan => Sys2Proof.Machine.execRelease chan s
  | .format => Sys2Proof.Machine.execFormat s
  | .setClock => Sys2Proof.Machine.execSetClock s
  | .recoveryReport => Sys2Proof.Machine.execRecoveryReport s
  | .openChannel => Sys2Proof.Machine.execOpenChannel s
  | .closeChannel => Sys2Proof.Machine.execCloseChannel s
  | .configure => Sys2Proof.Machine.execConfigure s
  | .query => Sys2Proof.Machine.execQuery s
  | .alertWait => Sys2Proof.Machine.execAlertWait s
  | .waitListReservation => Sys2Proof.Machine.execWaitListReservation s
  | .stagingBufferClaim => Sys2Proof.Machine.execStagingBufferClaim s
  | .payloadReadEnd chan result => Sys2Proof.Machine.execPayloadReadEnd chan result s
  | .txnExpiry chan hostId => Sys2Proof.Machine.execTxnExpiry chan hostId s
  | .readBufferClaim => Sys2Proof.Machine.execReadBufferClaim s
  | .readDataWriteEnd chan ok => Sys2Proof.Machine.execReadDataWriteEnd chan ok s
  | .formatReset => Sys2Proof.Machine.execFormatReset s
  | .storePassEnd agree => Sys2Proof.Machine.execStorePassEnd agree s
  | .idleTimerExpiry => Sys2Proof.Machine.execIdleTimerExpiry s
  | .checkpointWriteEnd verified => Sys2Proof.Machine.execCheckpointWriteEnd verified s
  | .measurement millivolts => Sys2Proof.Machine.execMeasurement millivolts s
  | .charged => Sys2Proof.Machine.execCharged s
  | .notCharged => Sys2Proof.Machine.execNotCharged s
  | .learnStart time => Sys2Proof.Machine.execLearnStart time s
  | .learnEnd time => Sys2Proof.Machine.execLearnEnd time s
  | .learnTimeout => Sys2Proof.Machine.execLearnTimeout s
  | .supplyFail => Sys2Proof.Machine.execSupplyFail s
  | .supplyReturn millivolts => Sys2Proof.Machine.execSupplyReturn millivolts s
  | .closingMarkWriteEnd verified millivolts => Sys2Proof.Machine.execClosingMarkWriteEnd verified millivolts s
  | .recallCompletion => Sys2Proof.Machine.execRecallCompletion s
  | .endOfScan => Sys2Proof.Machine.execEndOfScan s
  | .pstoreRequest lowNanoseconds => Sys2Proof.Machine.execPstoreRequest lowNanoseconds s
  | .clockTick => Sys2Proof.Machine.execClockTick s
  | .clockTransferApplication => Sys2Proof.Machine.execClockTransferApplication s
  | .oscillatorStop => Sys2Proof.Machine.execOscillatorStop s
  | .oscillatorRestart => Sys2Proof.Machine.execOscillatorRestart s
  | .batteryCrossing good => Sys2Proof.Machine.execBatteryCrossing good s
  | .batteryDomainLoss => Sys2Proof.Machine.execBatteryDomainLoss s
  | .completionRecordWriteEnd chan ok => Sys2Proof.Machine.execCompletionRecordWriteEnd chan ok s
  | .statusBlockWriteEnd chan ok => Sys2Proof.Machine.execStatusBlockWriteEnd chan ok s
  | .holdoffExpiry chan => Sys2Proof.Machine.execHoldoffExpiry chan s
  | .reportWriteEnd ok => Sys2Proof.Machine.execReportWriteEnd ok s
  | .snapshotWriteEnd ok => Sys2Proof.Machine.execSnapshotWriteEnd ok s

end Sys2Proof.Machine
end

