-- ==== Sys2Proof/Safety.lean ====
section
/-! DEFINITION. The invariants of the part that every step keeps, and the vocabulary of the statements: what a command leaves
as it was, and what it means that a request completes.
-/
namespace Sys2Proof.Machine

/-- Both memories are in the canonical form. -/
def State.MemoriesWf (s : State) : Prop := s.journal.sram.wf ∧ s.array.shadow.wf

/-- The part's fixed limits: four staging buffers (R29), two read buffers (R22), four alert waiters, and an alert list
without two records of one kind, each counting 1 to 255 occurrences (R171). -/
def State.WithinLimits (s : State) : Prop :=
  s.staging.buffers.length ≤ 4 ∧ s.journal.readBuffers.length ≤ 2 ∧ s.cc.alertWaiters.length ≤ 4 ∧
    (s.cc.alerts.map AlertRecord.kind).Nodup ∧ ∀ a ∈ s.cc.alerts, 1 ≤ a.count ∧ a.count ≤ 255

/-- A segment record's sequence numbers lie below `n`, and a RETIRED record has none (R7, R10, R102). -/
def Segment.Below (n : Nat) (g : Segment) : Prop :=
  (∀ l ∈ g.lastSeq, l < n) ∧ (∀ u ∈ g.unstoredFrom, u < n) ∧
    (g.state = .retired → g.lastSeq = none ∧ g.unstoredFrom = none)

/-- S is never greater than next seq - 1 (R82), and every sequence number of the segment table is less than next seq
(R7). -/
def State.SequenceLaw (s : State) : Prop :=
  1 ≤ s.journal.nextSeq ∧ s.store.storedThrough ≤ s.journal.nextSeq - 1 ∧
    ∀ i, (s.seg i).Below s.journal.nextSeq

/-- While the device is in OFF, no array operation is in flight and PSTORE# is not driven (R125, R127, R146). -/
def State.OffIsQuiet (s : State) : Prop := s.device = .off → s.store.op = none ∧ s.supply.driveLow = false

/-- While the oscillator is STOPPED, clock-valid is clear, so that no commit stamps CLOCK_VALID (R110, R114), and the stop is
recorded, so that a recovery decision yet to come leaves it clear (R116, log entry 32). -/
def Clock.StopHolds (k : Clock) : Prop := k.oscRunning = false → k.clockValid = false ∧ k.stopRecorded = true

/-! ### What a command leaves as it was -/

/-- Two records of one segment agree but for the bookkeeping of a store job in flight (R10). -/
def Segment.SameLog (g h : Segment) : Prop :=
  h.state = g.state ∧ h.firstSeq = g.firstSeq ∧ h.lastSeq = g.lastSeq ∧ h.fill = g.fill ∧
    h.unstoredFrom = g.unstoredFrom

/-- Every segment record but those `p` accepts is the same, store jobs apart. -/
def SameSegmentsBut (p : SegId → Prop) (s u : State) : Prop := ∀ i, ¬ p i → (s.seg i).SameLog (u.seg i)

/-- The journal is the same: its bytes, its segments (store jobs apart), its chain and its counters. -/
def SameLog (s u : State) : Prop :=
  u.journal.sram = s.journal.sram ∧ u.journal.chain = s.journal.chain ∧ u.journal.nextSeq = s.journal.nextSeq ∧
    u.journal.head = s.journal.head ∧ u.journal.format = s.journal.format ∧
    u.journal.formatted = s.journal.formatted ∧ ∀ i, (s.seg i).SameLog (u.seg i)

/-- The other units are the same: transactions, array, clock, monitor, recovery, the window, the device state, S and
the wait list, the budget's values and exposure, the alerts, the supply state, the latch, and the device time. -/
def SameUnits (s u : State) : Prop :=
  u.txns = s.txns ∧ u.array = s.array ∧ u.clock = s.clock ∧ u.monitor = s.monitor ∧ u.recovery = s.recovery ∧
    u.window = s.window ∧ u.device = s.device ∧ u.store.storedThrough = s.store.storedThrough ∧
    u.store.waiting = s.store.waiting ∧ u.store.newest = s.store.newest ∧ u.budget.b = s.budget.b ∧
    u.budget.limit = s.budget.limit ∧ u.budget.headroom = s.budget.headroom ∧
    u.budget.exposed = s.budget.exposed ∧ u.cc.alerts = s.cc.alerts ∧ u.cc.alertWaiters = s.cc.alertWaiters ∧
    u.supply.good = s.supply.good ∧ u.supply.latch = s.supply.latch ∧ u.now = s.now ∧ u.pending = s.pending

/-- The journal and the other units are the same. -/
def SameContents (s u : State) : Prop := SameLog s u ∧ SameUnits s u

/-- 1 when the arbiter has begun a fetch on the channel, else 0: by so much its in-flight count rises (R157, R158). -/
def fetchBegun (d : ChanId) (s u : State) : Nat := if s.cc.fetch = none ∧ u.cc.fetch = some d then 1 else 0

/-- Every channel but those `p` accepts is the same, its in-flight count raised by a fetch that the arbiter has begun on
it (R157, R158). -/
def SameChannelsBut (p : ChanId → Prop) (s u : State) : Prop :=
  ∀ d, ¬ p d → u.chan d = { s.chan d with inFlight := (s.chan d).inFlight + fetchBegun d s u }

/-- Every address outside `n` bytes from `a` reads in journal SRAM as it did. -/
def SramSameOutside (a n : Nat) (s u : State) : Prop :=
  ∀ x, x < a ∨ a + n ≤ x → u.journal.sram.read x = s.journal.sram.read x

/-- The fetch arbiter has nothing to choose: with no fetch in flight no channel is eligible (R157). -/
def State.ArbiterAtRest (s : State) : Prop := s.cc.fetch = none → ∀ d, s.eligible d = false

/-- An evaluation of the exposure state against D `d` and B as it stands in `u`, when `evaluated` says there is one: the state
it leaves, and with no alert waiter its one alert at a change, with the detail D and B; without a change the records of
both kinds are as they were (R66, R172). -/
def ExposureFollows (evaluated : Bool) (d : Nat) (s u : State) : Prop :=
  u.budget.exposed = (if evaluated then decide (u.budget.b < d) else s.budget.exposed) ∧
    ∀ kind, kind = AlertKind.exposed ∨ kind = AlertKind.exposureEnded →
      u.cc.alerts.filter (fun a => a.kind == kind) =
        ((if kind = AlertKind.exposed ∧ s.budget.exposed = false ∧ u.budget.exposed = true ∨
              kind = AlertKind.exposureEnded ∧ s.budget.exposed = true ∧ u.budget.exposed = false then
            foldAlert kind 0 (d + u.budget.b * 2 ^ 16) s.clock.reading s.cc.alerts
          else s.cc.alerts).filter (fun a => a.kind == kind))

/-! ### Requests and completions -/

/-- An ACTIVE channel's executing request, of a kind and in a stage. -/
abbrev Executes (c : ChanId) (k : Kind) (st : Stage) (r : Executing) (s : State) : Prop :=
  (s.chan c).state = .active ∧ (s.chan c).exec = some r ∧ r.req.kind = k ∧ r.stage = st

/-- The completions that have taken slots and are not yet posted: channel, slot and record, in order (R160). -/
def State.taken (s : State) : List (ChanId × Nat × Completion) :=
  s.cc.posts.map (fun p => (p.chan, p.slot, p.completion))

/-- The completions that have taken slots and are not yet posted, without their slots: channel and record, in order. -/
def State.takenBy (s : State) : List (ChanId × Completion) := s.cc.posts.map (fun p => (p.chan, p.completion))

/-- Whatever the executing requests of the channels `p` accepts held or waited for is returned (R22, R28, R29, R37), and
when none of them was held the held set's consequences are as they were. -/
def ReturnedFor (p : ChanId → Bool) (s u : State) : Prop :=
  u.staging.buffers = s.staging.buffers.filter (fun b => !p b.chan) ∧
    u.staging.waiters = s.staging.waiters.filter (fun x => !p x) ∧
    u.journal.readBuffers = s.journal.readBuffers.filter (fun b => !p b.chan) ∧
    u.journal.readWaiters = s.journal.readWaiters.filter (fun x => !p x) ∧
    u.store.reservationWaiters = s.store.reservationWaiters.filter (fun x => !p x) ∧
    u.budget.held = s.budget.held.filter (fun h => !p h.chan) ∧
    ((∀ h ∈ s.budget.held, p h.chan = false) →
      u.budget.pressure = s.budget.pressure ∧ u.journal.full = s.journal.full)

/-- Whatever a channel's executing request held or waited for is returned (R22, R28, R29, R37), and when it was not
held the held set's consequences are as they were. -/
def HoldingsReturned (c : ChanId) (s u : State) : Prop :=
  u.staging.buffers = s.staging.buffers.filter (fun b => b.chan != c) ∧
    u.staging.waiters = s.staging.waiters.filter (fun x => x != c) ∧
    u.journal.readBuffers = s.journal.readBuffers.filter (fun b => b.chan != c) ∧
    u.journal.readWaiters = s.journal.readWaiters.filter (fun x => x != c) ∧
    u.store.reservationWaiters = s.store.reservationWaiters.filter (fun x => x != c) ∧
    u.budget.held = s.budget.held.filter (fun h => h.chan != c) ∧
    ((∀ h ∈ s.budget.held, h.chan ≠ c) →
      u.budget.pressure = s.budget.pressure ∧ u.journal.full = s.journal.full)

/-- The channel's executing request has completed: `x` has taken the channel's next slot, the execution has ended, and
the other channels are the same. In flight falls by one at the slot (R158 to R160). -/
def Completed (c : ChanId) (x : Completion) (s u : State) : Prop :=
  u.taken = s.taken ++ [(c, (s.chan c).cplNext, x)] ∧
    u.chan c = { s.chan c with exec := none, cplNext := ((s.chan c).cplNext + 1) % (s.chan c).cplSlots,
                               inFlight := (s.chan c).inFlight - 1 + fetchBegun c s u } ∧
    HoldingsReturned c s u ∧ SameChannelsBut (fun d => d = c) s u

/-- The command answers a next state in which the request has completed with `x` and nothing else has changed. -/
def OnlyCompletes (c : ChanId) (x : Completion) (s : State) (o : Result) : Prop :=
  ∃ u, o = .next u ∧ Completed c x s u ∧ SameContents s u

/-- The channel's execution has ended without a slot: its request stays in flight and waits to be answered (R84, R158,
R173). -/
def Deferred (c : ChanId) (s u : State) : Prop :=
  u.taken = s.taken ∧
    u.chan c = { s.chan c with exec := none, inFlight := (s.chan c).inFlight + fetchBegun c s u } ∧
    HoldingsReturned c s u ∧ SameChannelsBut (fun d => d = c) s u

/-- The executing request has moved on to a stage, completing nothing; the other channels are the same. -/
def MovedTo (c : ChanId) (r : Executing) (s u : State) : Prop :=
  u.chan c = { s.chan c with exec := some r } ∧ u.taken = s.taken ∧ SameChannelsBut (fun d => d = c) s u

/-- The link interface has begun an action, after everything it had begun before (log entry 15). -/
def Emitted (a : LinkAction) (s u : State) : Prop := ∃ later, u.out = later ++ a :: s.out

/-- The fields of a record, each an offset, a size and a value: the record reads there as the value's low bytes (R174). -/
def Laid (b : List Byte) (fields : List (Nat × Nat × Nat)) : Prop :=
  ∀ f ∈ fields, fieldAt b f.1 f.2.1 = f.2.2 % 256 ^ f.2.1

/-- The SEGMENT_RETIRED alerts of the segments of a list stand in the alert list, posted in the list's order: the record of
the kind shows the last of them and counts them all, and with none of them the records of the kind are as they were (R102,
R171, R172). -/
def RetiredAlerts (l : List SegId) (s u : State) : Prop :=
  (l = [] → u.cc.alerts.filter (fun a => a.kind == .segmentRetired) =
    s.cc.alerts.filter (fun a => a.kind == .segmentRetired)) ∧
  ∀ i, l.getLast? = some i → ∃ a ∈ u.cc.alerts, a.kind = .segmentRetired ∧
    a.seqValue = (s.seg i).lastSeq.getD 0 ∧ a.detail = i.val + (s.seg i).firstSeq.getD 0 * 2 ^ 16 ∧
    a.stamp = s.clock.reading ∧
    ((∀ b ∈ s.cc.alerts, b.kind ≠ .segmentRetired) → a.count = min 255 l.length) ∧
    ∀ b, s.cc.alerts.filter (fun a => a.kind == .segmentRetired) = [b] → a.count = min 255 (b.count + l.length)

/-! ### The answers of waiting and held records -/

/-- The completions of waiting records that end with a status, in order, S standing at `through` (R83, R85, R88). -/
def endings (status : Status) (through : Nat) (l : List Waiter) : List (ChanId × Completion) :=
  l.map (fun w => (w.chan, w.completion status through))

/-- The completions of held records that end with a status, in order (R37). -/
def State.heldEndings (s : State) (status : Status) (l : List HeldRecord) : List (ChanId × Completion) :=
  l.filterMap (fun h => (s.chan h.chan).exec.map (fun r => (h.chan, r.req.refusal status 0)))

/-- The channel of every record takes its completion, and no drain ends by these records (R156, R160). -/
def State.CanAnswer (s : State) (l : List Waiter) : Prop :=
  ∀ w ∈ l, (s.chan w.chan).state = .active ∨
    ((s.chan w.chan).state = .draining ∧ l.countP (fun x => x.chan == w.chan) < (s.chan w.chan).inFlight)

/-- The held set holds no two records of one channel, each of an ACTIVE channel that executes its request (R64). -/
def State.HeldSetLaw (s : State) : Prop :=
  (s.budget.held.map HeldRecord.chan).Nodup ∧
    ∀ h ∈ s.budget.held, (s.chan h.chan).state = .active ∧ (s.chan h.chan).exec.isSome = true

/-- The waiting records that the end of exposure satisfies (R67). -/
def State.exposureAnswers (s : State) (ended : Bool) : List Waiter :=
  s.store.waiting.filter (fun w => ended && w.kind == .appendExposed)

/-- The other waiting records, those that a rise of S to `high` satisfies (R83). -/
def State.coverAnswers (s : State) (ended : Bool) (high : Nat) : List Waiter :=
  s.store.waiting.filter (fun w =>
    !(ended && w.kind == .appendExposed) && (decide (s.store.storedThrough < high) && decide (w.target ≤ high)))

/-- The waiting records that the end of exposure and a rise of S satisfy leave the wait list and complete OK with the
DEFERRED flag, in wait-list order, the ones of the exposure first; then come the completions `own` (R61, R67, R83). -/
def Answers (ended : Bool) (own : List (ChanId × Completion)) (s u : State) : Prop :=
  u.store.waiting = s.store.waiting.filter (fun w =>
      !(ended && w.kind == .appendExposed) &&
        !(decide (s.store.storedThrough < u.store.storedThrough) && decide (w.target ≤ u.store.storedThrough))) ∧
    (s.CanAnswer (s.exposureAnswers ended ++ s.coverAnswers ended u.store.storedThrough) →
      u.takenBy = s.takenBy ++ endings .ok u.store.storedThrough
        (s.exposureAnswers ended ++ s.coverAnswers ended u.store.storedThrough) ++ own)

/-! ### What single commands do -/

/-- How far a channel stands behind the last-served one in the arbiter's order. -/
def State.turn (s : State) (c : ChanId) : Nat := (c.val + 15 - s.cc.lastServed.val) % 16

/-- An APPEND holds its staging buffer and its payload read has begun. -/
def Staged (c : ChanId) (r : Executing) (s u : State) : Prop :=
  MovedTo c { r with stage := .staging, waitReserved := true } s u ∧
    u.staging = { s.staging with buffers := s.staging.buffers ++ [{ chan := c, data := [] }] } ∧
    Emitted (.read r.req.addr r.req.length) s u ∧ SameContents s u ∧ u.budget = s.budget ∧
    u.store.reservationWaiters = s.store.reservationWaiters

/-- An entry stands in segment `i` after what the segment held, its record is updated, and nothing else of the journal
has changed. -/
def Placed (i : SegId) (h : Header) (payload : List Byte) (s u : State) : Prop :=
  u.journal.sram.readBytes (segBase i + (s.seg i).fill) 32 = h.bytes ∧
    u.journal.sram.readBytes (segBase i + (s.seg i).fill + 32) payload.length = payload ∧
    SramSameOutside (segBase i + (s.seg i).fill) (32 + payload.length) s u ∧
    ({ s.seg i with
        fill := (s.seg i).fill + footprint h.length, lastSeq := some h.seq,
        firstSeq := some ((s.seg i).firstSeq.getD h.seq), unstoredFrom := some ((s.seg i).unstoredFrom.getD h.seq),
        state := if (s.seg i).fill + footprint h.length = 4096 then .full else (s.seg i).state } : Segment).SameLog
      (u.seg i) ∧
    SameSegmentsBut (fun j => j = i) s u ∧ u.journal.chain = s.journal.chain ∧ u.journal.head = s.journal.head ∧
    u.journal.format = s.journal.format ∧ u.journal.formatted = s.journal.formatted ∧
    u.journal.nextSeq = s.journal.nextSeq + 1

/-- The header of an entry committed now, but for its check value. -/
def Stamped (c : ChanId) (r : Request) (serial index : Nat) (h : Header) (s : State) : Prop :=
  h.format = s.journal.format ∧ h.stateByte = 1 ∧ h.sealFlag = r.final ∧ h.clockValid = s.clock.clockValid ∧
    h.channel = c.val ∧ h.length = r.length ∧ h.seq = s.journal.nextSeq ∧ h.hostId = r.hostId ∧
    h.serial = serial ∧ h.index = index ∧ h.stamp = s.clock.reading

/-- Command `i` makes the commit attempt of channel `c`'s executing request `r`: the end of its payload read, or a SEAL that
has its wait-list record, at once or after a wait (R26, R30, R84). -/
def Attempts (c : ChanId) (r : Executing) (payload : List Byte) (i : Instr) (s : State) : Prop :=
  (s.chan c).exec = some r ∧
    ((∃ bytes, i = .payloadReadEnd c (.data bytes) ∧ r.req.kind = .append ∧ r.stage = .staging ∧
        (∃ b ∈ s.staging.buffers, b.chan = c) ∧ payload = fitBytes r.req.length bytes) ∨
      (r.req.kind = .sealTxn ∧ payload = [] ∧ s.waitRecordFree = true ∧
        ((i = .sealTxn c ∧ r.stage = .handed ∧ s.journal.formatted = true ∧ s.store.reservationWaiters = []) ∨
          (i = .waitListReservation ∧ r.stage = .waitReservation ∧ s.store.reservationWaiters.head? = some c))))

/-- The transaction check of R45 refuses a request with a key. -/
def TxnRefused (c : ChanId) (r : Executing) (s : State) (status : Status) : Prop :=
  (s.findTxn c r.req.hostId = none ∧ r.req.kind = .sealTxn ∧ status = .txnUnknown) ∨
    (s.findTxn c r.req.hostId = none ∧ r.req.kind ≠ .sealTxn ∧ r.req.sealFlag = false ∧ r.txnReserved = false ∧
      64 ≤ s.txns.table.length + s.txnReservations ∧ status = .txnLimit) ∨
    ∃ t, s.findTxn c r.req.hostId = some t ∧
      ((t.expired = true ∧ status = .txnExpired) ∨
        (t.expired = false ∧ 1022 < t.count ∧ r.req.final = false ∧ status = .txnTooLong))

/-- The tests 1 to 4 of R31, in order, refuse a commit attempt with a status. -/
def Refused (c : ChanId) (r : Executing) (s : State) (status : Status) : Prop :=
  ((s.chan c).state = .draining ∧ r.req.hostId ≠ 0 ∧ status = .cancelled) ∨
    (¬ ((s.chan c).state = .draining ∧ r.req.hostId ≠ 0) ∧
      ((s.journal.nextSeq = 2 ^ 48 - 1 ∧ status = .seqExhausted) ∨
        (s.journal.nextSeq ≠ 2 ^ 48 - 1 ∧ s.mediaFault = true ∧ status = .nvFault) ∨
        (s.journal.nextSeq ≠ 2 ^ 48 - 1 ∧ s.mediaFault = false ∧ r.req.hostId ≠ 0 ∧ TxnRefused c r s status)))

/-- What a refused attempt leaves: the completion, and the removal of an EXPIRED record (R31, R45). -/
def AttemptRefused (c : ChanId) (r : Executing) (status : Status) (s u : State) : Prop :=
  Completed c (r.req.refusal status 0) s u ∧ SameLog s u ∧
    SameUnits { s with txns.table :=
      if status = .txnExpired then s.txns.table.filter (fun x => !(x.chan == c && x.hostId == r.req.hostId))
      else s.txns.table } u

/-- What a record that takes a reason does to the journal-full flag: SPACE sets it, and from clear posts JOURNAL_FULL with
head and the counts of the chain and of RETIRED segments and the footprint; BUDGET leaves it set only while another held
record has reason SPACE, and posts nothing (R101, R172). -/
def FullNoted (fp : Nat) (reason : HoldReason) (s u : State) : Prop :=
  (reason = .space → u.journal.full = true ∧
    (s.journal.full = false → s.cc.alertWaiters = [] →
      u.cc.alerts = foldAlert .journalFull s.journal.head
        (s.journal.chain.length + s.countSegs (fun g => g.state == .retired) * 2 ^ 16 + fp * 2 ^ 32)
        s.clock.reading s.cc.alerts) ∧
    (s.journal.full = true → u.cc.alerts = s.cc.alerts ∧ u.taken = s.taken)) ∧
  (reason = .budget →
    u.journal.full = (s.journal.full && u.budget.held.any (fun x => x.reason == .space)) ∧
    u.cc.alerts = s.cc.alerts ∧ u.taken = s.taken)

/-- The admission test refuses an attempt that is no grant, with this reason: its own checks in order, or behind a held set
that is not empty the oldest record's reason (R62, R63). -/
def AdmissionRefused (fp : Nat) (reason : HoldReason) (s : State) : Prop :=
  (s.needsNew fp = true ∧ s.freeExists = false ∧ reason = HoldReason.space) ∨
    (s.needsNew fp = false ∨ s.freeExists = true) ∧ s.budget.b < s.dirtyCount + 1 ∧ reason = HoldReason.budget ∨
    (s.needsNew fp = false ∨ s.freeExists = true) ∧ s.dirtyCount + 1 ≤ s.budget.b ∧
      ∃ oldest rest, s.budget.held = oldest :: rest ∧ reason = oldest.reason

/-- What an attempt of command `i` that is held leaves: the request keeps its reservation and its staging buffer with the
payload, holds a transaction reservation when its key had no record, and has a record at the held set's tail; the journal,
the transactions, S, the wait list and the clock are the same (R35, R45, R64, R68). -/
def AttemptHeld (c : ChanId) (r : Executing) (payload : List Byte) (i : Instr) (reason : HoldReason) (s u : State) : Prop :=
  (u.chan c).exec = some { r with
    stage := .held, waitReserved := r.waitReserved || r.req.kind == .sealTxn,
    txnReserved := r.txnReserved ||
      (r.req.hostId != 0 && !r.req.sealFlag && (s.findTxn c r.req.hostId).isNone) } ∧
  u.staging = { s.staging with buffers := s.staging.buffers.map (fun b =>
    if b.chan = c ∧ r.req.kind = .append then { b with data := payload } else b) } ∧
  u.budget.held = s.budget.held ++
    [{ chan := c, tag := r.req.tag, reason := reason, footprint := footprint r.req.length,
       key := if r.req.hostId = 0 then none else some r.req.hostId }] ∧
  u.store.reservationWaiters =
    (if i = .waitListReservation then s.store.reservationWaiters.tail else s.store.reservationWaiters) ∧
  SameLog s u ∧ u.txns = s.txns ∧ u.store.storedThrough = s.store.storedThrough ∧
  u.store.waiting = s.store.waiting ∧ u.clock = s.clock ∧ FullNoted (footprint r.req.length) reason s u ∧
  (reason = .budget → SameUnits s u) ∧
  (s.budgetLive = true → u.budget.pressure = (decide (s.budget.b ≤ s.dirtyCount + s.budget.headroom) ||
    u.budget.held.any (fun x => x.reason == .budget)))

/-- The serial and index of an entry committed now (R46). -/
def EntryId (c : ChanId) (r : Request) (s : State) (serial index : Nat) : Prop :=
  (r.hostId = 0 ∧ serial = 0 ∧ index = 0) ∨
    (r.hostId ≠ 0 ∧ s.findTxn c r.hostId = none ∧ serial = s.txns.nextSerial ∧ index = 0) ∨
    (r.hostId ≠ 0 ∧ ∃ t, s.findTxn c r.hostId = some t ∧ serial = t.serial ∧ index = t.count)

/-- The serial after `n`, wrapped to 1 past 2^32 - 1 (R47). -/
def serialAfter (n : Nat) : Nat := if 2 ^ 32 - 1 ≤ n then 1 else n + 1

/-- The next transaction serial has advanced from `n` to `m`, past every serial that a record holds (R47). -/
def SerialAdvanced (table : List TxnRecord) (n m : Nat) : Prop :=
  (table.length ≤ 64 → ∀ t ∈ table, t.serial ≠ m) ∧ 1 ≤ m ∧ m ≤ 2 ^ 32 - 1 ∧
    ((∀ t ∈ table, t.serial ≠ serialAfter n) → m = serialAfter n)

/-- What the transaction unit does at the commit of an entry (R46 to R48). -/
def TxnTaken (c : ChanId) (r : Request) (s u : State) : Prop :=
  (r.hostId = 0 → u.txns = s.txns) ∧
    (r.hostId ≠ 0 →
      (∀ t, s.findTxn c r.hostId = some t →
        u.txns = { s.txns with table :=
          if r.final then s.txns.table.filter (fun x => !(x.chan == c && x.hostId == r.hostId))
          else s.txns.table.map (fun x => if x.chan == c && x.hostId == r.hostId then
            { x with count := x.count + 1, lastSeq := s.journal.nextSeq } else x) }) ∧
      (s.findTxn c r.hostId = none →
        u.txns.table = s.txns.table ++ (if r.final then [] else
          [{ serial := s.txns.nextSerial, chan := c, hostId := r.hostId, expired := false, count := 1,
             firstSeq := s.journal.nextSeq, lastSeq := s.journal.nextSeq,
             deadline := if (s.chan c).ageLimit = 0 then none
                         else some (s.now + (s.chan c).ageLimit * 1000) }]) ∧
        SerialAdvanced s.txns.table s.txns.nextSerial u.txns.nextSerial))

/-- The waiting record of a deferred entry (R39, R40). -/
def deferredEntry (c : ChanId) (r : Request) (h : Header) : Waiter :=
  { chan := c, tag := r.tag, kind := if r.storedFlag then .appendStored else .appendExposed, target := h.seq,
    seq := h.seq, stamp := h.stamp, reqKind := r.kind, serial := h.serial, index := h.index }

/-- A commit (R33): the entry stands in the OPEN segment of `p`, which is `s` with the segment prepared that the commit
needs, and with what the close of the OPEN segment brings about (R82, R98); the transaction unit has taken it; the completion
takes its slot, or is deferred while the journal is EXPOSED or with the STORED flag; the segment is queued as R72, R73 and
R129 give, and the idle timer is set. S stays as it is in `p` (R82). -/
def Committed (c : ChanId) (r : Request) (payload : List Byte) (s p u : State) : Prop :=
  ∃ i h serial index, p.openSegment = some i ∧ EntryId c r s serial index ∧ Stamped c r serial index h s ∧
    h.crc = entryCrc h.bytes payload ∧ Placed i h payload p u ∧ TxnTaken c r s u ∧
    (r.storedFlag = false ∧ s.budget.exposed = false →
      Completed c (r.completion .ok s.journal.nextSeq s.clock.reading (serial + index * 2 ^ 32))
        { p with budget.pressure := u.budget.pressure } u ∧ u.store.waiting = p.store.waiting) ∧
    (r.storedFlag = true ∨ s.budget.exposed = true →
      Deferred c { p with budget.pressure := u.budget.pressure } u ∧
        u.store.waiting = p.store.waiting ++ [deferredEntry c r h]) ∧
    (s.budgetLive = true → (p.seg i).dirty = false →
      u.budget.pressure = (decide (s.budget.b ≤ u.dirtyCount + s.budget.headroom) ||
        u.budget.held.any (fun x => x.reason == .budget))) ∧
    u.store.idleTimer = (if (p.seg i).fill + footprint r.length = 4096 then none
      else some (s.now + s.store.idleDelay * 1000)) ∧
    (u.budget.pressure = true ∨ s.store.lineStore = .segments ∨ (p.seg i).fill + footprint r.length = 4096 ∨
        ((r.storedFlag = true ∨ s.budget.exposed = true) ∧ ∀ f ∈ (p.seg i).firstSeq, f ≤ s.journal.nextSeq) →
      i ∈ u.store.queue ∨ (u.seg i).inStore = true) ∧
    SameUnits { p with
      clock.lastStamp := some s.clock.reading, array.shadow := u.array.shadow, txns := u.txns,
      store.waiting := u.store.waiting } u

/-- The OPEN transactions `p` accepts are VOID in SRAM, each of their entries, and no other byte of SRAM has changed
(R19, R52). -/
def VoidedAll (p : TxnRecord → Bool) (s u : State) : Prop :=
  (∀ t ∈ s.txns.table, p t = true → t.expired = false →
      ∀ e ∈ s.entriesOfTxn t.serial t.firstSeq t.lastSeq, u.journal.sram.read (segBase e.1 + (e.2 + 2)) = 2) ∧
    ∀ a, (∀ t ∈ s.txns.table, p t = true → t.expired = false →
        ∀ e ∈ s.entriesOfTxn t.serial t.firstSeq t.lastSeq, a ≠ segBase e.1 + (e.2 + 2)) →
      u.journal.sram.read a = s.journal.sram.read a

/-- The completion of a held request that its channel's entry to DRAINING cancels (R37). -/
def State.heldAnswer (s : State) (d : ChanId) : List (ChanId × Completion) :=
  match (s.chan d).exec with
  | some r => if r.stage = .held then [(d, r.req.refusal .cancelled 0)] else []
  | none => []

/-- The records of a channel's wait list that FORCE cancels (R85). -/
def State.waitersOn (s : State) (d : ChanId) : List Waiter := s.store.waiting.filter (fun w => w.chan == d)

/-- `n` completions have taken slots of a channel's ring, and nothing else of its record has changed (R160). -/
def Channel.answered (n : Nat) (ch : Channel) : Channel :=
  { ch with cplNext := Nat.iterate (fun x => (x + 1) % ch.cplSlots) n ch.cplNext, inFlight := ch.inFlight - n }

/-- The completion of a CLOSE_CHANNEL that waited for a drain (R168, section 11.3). -/
def drainedClose (d : ChanId) (pc : PendingClose) : Completion :=
  { tag := pc.tag, kindCode := 0x14, status := .ok, deferred := false, alertCode := 0, alertCount := 0, seq := 0,
    stamp := Stamp.zero, detail := d.val + 2 * 2 ^ 8 + pc.cancelled * 2 ^ 32 }

/-- The entries of a transaction read VOID in SRAM, and no other byte of SRAM has changed. -/
def Voided (t : TxnRecord) (s u : State) : Prop :=
  (∀ e ∈ s.entriesOfTxn t.serial t.firstSeq t.lastSeq, u.journal.sram.read (segBase e.1 + (e.2 + 2)) = 2) ∧
    ∀ a, (∀ e ∈ s.entriesOfTxn t.serial t.firstSeq t.lastSeq, a ≠ segBase e.1 + (e.2 + 2)) →
      u.journal.sram.read a = s.journal.sram.read a

/-- The entries that the walk of a segment's headers finds fill the segment up to its fill (R4, R11). -/
def State.Filled (s : State) (i : SegId) : Prop :=
  ((s.entriesOf i).map (fun e => footprint e.2.length)).sum = (s.seg i).fill

/-- Every field of a header has a value that its width admits (section 11.6). -/
def Header.Fits (h : Header) : Prop :=
  h.channel < 16 ∧ h.length < 2 ^ 16 ∧ h.seq < 2 ^ 48 ∧ h.hostId < 2 ^ 16 ∧ h.serial < 2 ^ 32 ∧ h.index < 2 ^ 16 ∧
    h.stamp.epoch < 2 ^ 16 ∧ h.stamp.ticks < 2 ^ 48

/-- The READ's snapshot stands in a read buffer and its host write has begun. -/
def SnapshotTaken (c : ChanId) (r : Executing) (i : SegId) (off : Nat) (h : Header) (s u : State) : Prop :=
  MovedTo c { r with stage := .readWrite h.seq h.stamp (32 + h.length) } s u ∧
    { chan := c, data := s.journal.sram.readBytes (segBase i + off) (32 + h.length) } ∈ u.journal.readBuffers ∧
    u.journal.readBuffers.length = s.journal.readBuffers.length + 1 ∧
    Emitted (.write r.req.addr (s.journal.sram.readBytes (segBase i + off) (32 + h.length))) s u ∧ SameContents s u

/-- What a release makes of the record of a covered member (R97, R98). -/
def Segment.released (g : Segment) : Segment :=
  match g.state with
  | .full => if g.inStore then { g with state := .freeing } else Segment.freeForm
  | .openS => if g.inStore then g else { g with unstoredFrom := none }
  | .failed => { Segment.freeForm with state := .retired }
  | .freeing => g
  | .free => g
  | .retired => g

/-- A covered member leaves the chain at its release (R97, R102). -/
def Segment.leavesChain (g : Segment) : Bool :=
  match g.state with
  | .full => !g.inStore
  | .failed => true
  | _ => false

/-- What a release through `n` makes of segment `i`. -/
def State.afterRelease (s : State) (n : Nat) (i : SegId) : Segment :=
  if i ∈ s.coveredMembers n then (s.seg i).released else s.seg i

/-- What a checkpoint slot of the array holds. -/
def State.slotOf (s : State) : Slot → Option Checkpoint
  | .a => s.array.slotA
  | .b => s.array.slotB

/-! ### The fields of a request record (R176) -/

/-- The fields from the host transaction id to the host buffer length are zero, but those that a kind uses: the host
transaction id, the seq argument, the host address, the length, the host buffer length. -/
def HeadZero (b : List Byte) (hostId seq addr length bufLength : Bool) : Prop :=
  (hostId = false → fieldAt b 4 2 = 0) ∧ fieldAt b 6 2 = 0 ∧ (seq = false → fieldAt b 8 6 = 0) ∧ fieldAt b 14 2 = 0 ∧
    (addr = false → fieldAt b 16 8 = 0) ∧ (length = false → fieldAt b 24 4 = 0) ∧
    (bufLength = false → fieldAt b 28 4 = 0)

/-- An age limit is 0, or 10 to 600,000 ms (R167). -/
def AgeLimitAllowed (v : Nat) : Prop := v = 0 ∨ (10 ≤ v ∧ v ≤ 600000)

/-- The parameters of OPEN_CHANNEL have their values (R167, R176). -/
def OpenAllowed (b : List Byte) : Prop :=
  (fieldAt b 32 8 ≠ 0 ∧ fieldAt b 32 8 % 64 = 0) ∧ (fieldAt b 40 8 ≠ 0 ∧ fieldAt b 40 8 % 32 = 0) ∧
    (fieldAt b 48 8 ≠ 0 ∧ fieldAt b 48 8 % 16 = 0) ∧ fieldAt b 56 1 % 16 ≠ 0 ∧
    (1 ≤ fieldAt b 57 1 ∧ fieldAt b 57 1 ≤ 32) ∧
    (4 ≤ fieldAt b 58 1 % 16 ∧ fieldAt b 58 1 % 16 ≤ 12 ∧ 4 ≤ fieldAt b 58 1 / 16 ∧ fieldAt b 58 1 / 16 ≤ 12) ∧
    fieldAt b 59 2 ≤ 4095 ∧ AgeLimitAllowed (fieldAt b 61 3)

/-- A setting of CONFIGURE has an allowed value when it is selected, and the value zero when it is not (R169, R176). -/
def SettingAllowed (selected : Bool) (v : Nat) (allowed : Nat → Prop) : Prop :=
  (selected = true → allowed v) ∧ (selected = false → v = 0)

/-- The parameters of CONFIGURE have their values (R169, R176). -/
def ConfigureAllowed (b : List Byte) : Prop :=
  fieldAt b 32 1 ≠ 0 ∧ fieldAt b 32 1 < 128 ∧
    SettingAllowed ((fieldAt b 32 1).testBit 3 || (fieldAt b 32 1).testBit 4 || (fieldAt b 32 1).testBit 5 ||
      (fieldAt b 32 1).testBit 6) (fieldAt b 33 1) (fun v => 1 ≤ v ∧ v ≤ 15) ∧
    SettingAllowed ((fieldAt b 32 1).testBit 0) (fieldAt b 34 2) (fun v => 1 ≤ v ∧ v ≤ 512) ∧
    SettingAllowed ((fieldAt b 32 1).testBit 1) (fieldAt b 36 1) (fun v => v ≤ 64) ∧
    SettingAllowed ((fieldAt b 32 1).testBit 3) (fieldAt b 37 1) (fun v => v ≤ 15) ∧
    SettingAllowed ((fieldAt b 32 1).testBit 4) (fieldAt b 38 1) (fun v => 1 ≤ v ∧ v ≤ 32) ∧ fieldAt b 39 1 = 0 ∧
    SettingAllowed ((fieldAt b 32 1).testBit 2) (fieldAt b 40 2) (fun v => 1 ≤ v ∧ v ≤ 1000) ∧
    SettingAllowed ((fieldAt b 32 1).testBit 5) (fieldAt b 42 2) (fun v => v ≤ 4095) ∧
    SettingAllowed ((fieldAt b 32 1).testBit 6) (fieldAt b 44 4) AgeLimitAllowed ∧ fieldAt b 48 16 = 0

/-- Every field of a record of this kind has an allowed value, and every other field is zero: the table of R176. -/
def FieldsAllowed (k : Kind) (b : List Byte) : Prop :=
  match k with
  | .append =>
    fieldAt b 1 1 < 4 ∧ ((fieldAt b 1 1).testBit 0 = true → fieldAt b 4 2 ≠ 0) ∧
      HeadZero b true false true true false ∧ (1 ≤ fieldAt b 24 4 ∧ fieldAt b 24 4 ≤ 4064) ∧ fieldAt b 32 32 = 0
  | .sealTxn =>
    (fieldAt b 1 1 = 0 ∨ fieldAt b 1 1 = 2) ∧ fieldAt b 4 2 ≠ 0 ∧ HeadZero b true false false false false ∧
      fieldAt b 32 32 = 0
  | .abort =>
    fieldAt b 1 1 = 0 ∧ fieldAt b 4 2 ≠ 0 ∧ HeadZero b true false false false false ∧ fieldAt b 32 32 = 0
  | .read =>
    fieldAt b 1 1 = 0 ∧ fieldAt b 8 6 ≠ 0 ∧ HeadZero b false true true false true ∧ fieldAt b 32 32 = 0
  | .flush | .format | .alertWait =>
    fieldAt b 1 1 = 0 ∧ HeadZero b false false false false false ∧ fieldAt b 32 32 = 0
  | .release => fieldAt b 1 1 = 0 ∧ HeadZero b false true false false false ∧ fieldAt b 32 32 = 0
  | .recoveryReport | .query =>
    fieldAt b 1 1 = 0 ∧ HeadZero b false false true false true ∧ fieldAt b 32 32 = 0
  | .setClock =>
    (fieldAt b 1 1 = 0 ∨ fieldAt b 1 1 = 8) ∧ HeadZero b false false false false false ∧ fieldAt b 38 2 = 0 ∧
      fieldAt b 40 24 = 0
  | .openChannel => fieldAt b 1 1 = 0 ∧ HeadZero b false false false false false ∧ OpenAllowed b
  | .closeChannel =>
    (fieldAt b 1 1 = 0 ∨ fieldAt b 1 1 = 4) ∧ HeadZero b false false false false false ∧
      (1 ≤ fieldAt b 32 1 ∧ fieldAt b 32 1 ≤ 15) ∧ fieldAt b 33 31 = 0
  | .configure => fieldAt b 1 1 = 0 ∧ HeadZero b false false false false false ∧ ConfigureAllowed b

/-! ### The emergency sequence (R121 to R124) -/

/-- The emergency checkpoint write has begun, with the values as they stand (R122). -/
def EmergencyCheckpointBegun (u : State) : Prop :=
  u.store.phase = .checkpoint ∧
    ∃ x, u.store.op = some (.checkpoint u.nextSlot.1 x 0) ∧ x.generation = u.nextSlot.2 ∧
      u.store.emergencyGeneration = x.generation ∧ x.emergency = true ∧ x.dirtyAtEmergency = u.store.handedD ∧
      x.exposedAtEmergency = u.store.handedExposed ∧ x.head = u.journal.head ∧ x.nextSeq = u.journal.nextSeq ∧
      x.format = u.journal.format ∧ x.nextSerial = u.txns.nextSerial ∧ x.lastStamp = u.clock.lastStamp ∧
      ∀ i, (i ∈ x.failed ↔ (u.seg i).state = .failed) ∧ (i ∈ x.retired ↔ (u.seg i).state = .retired)

/-- What the sequence does next, with the store queue at `q`: the job of its head; with an empty queue the job of the first
dirty segment of the chain that is not FAILED; else the closing mark's write (R123, R124). -/
def SequenceGoesOn (q : List SegId) (u : State) : Prop :=
  (∀ i rest, q = i :: rest → u.store.phase = .segments ∧ u.store.op = some (.job i 0) ∧ u.store.queue = rest ∧
    (u.seg i).inStore = true ∧ (u.seg i).snapshot = (u.seg i).lastSeq ∧ (u.seg i).retry = 0) ∧
  (q = [] → u.store.queue = [] ∧
    (∀ i, u.journal.chain.find? (fun j => (u.seg j).dirty && (u.seg j).state != .failed) = some i →
      u.store.phase = .segments ∧ u.store.op = some (.job i 0) ∧ (u.seg i).inStore = true ∧
        (u.seg i).snapshot = (u.seg i).lastSeq ∧ (u.seg i).retry = 0) ∧
    ((∀ j ∈ u.journal.chain, (u.seg j).dirty = false ∨ (u.seg j).state = .failed) →
      u.store.phase = .closing ∧ u.store.op = some (.closingMark
        { generation := u.store.emergencyGeneration, storedCount := u.store.storedCount,
          failedList := u.store.failedList, overflow := u.store.failedOverflow } 0)))

/-- What the emergency sequence leaves as it was: S, the wait list, the channels, the posts, the link, the transactions,
the clock, the budget, SRAM and next seq (R121). -/
def SequenceLeaves (s u : State) : Prop :=
  u.device = s.device ∧ u.store.storedThrough = s.store.storedThrough ∧ u.store.waiting = s.store.waiting ∧
    u.cc.chans = s.cc.chans ∧ u.cc.posts = s.cc.posts ∧ u.out = s.out ∧ u.txns = s.txns ∧ u.clock = s.clock ∧
    u.budget = s.budget ∧ u.supply = s.supply ∧ u.journal.sram = s.journal.sram ∧
    u.journal.nextSeq = s.journal.nextSeq ∧ u.journal.head = s.journal.head ∧
    u.journal.format = s.journal.format ∧ u.store.handedD = s.store.handedD ∧
    u.store.handedExposed = s.store.handedExposed

/-! ### The scan (R137 to R141) -/

/-- A header breaks none of the forms of R1 and R2 (R137, test 5). -/
def Header.Formed (h : Header) : Prop :=
  (h.stateByte = 1 ∨ h.stateByte = 2) ∧ h.channel ≠ 0 ∧ 1 ≤ h.seq ∧ h.seq ≤ 2 ^ 48 - 2 ∧ h.index ≤ 1023 ∧
    (h.serial = 0 → h.index = 0 ∧ h.hostId = 0 ∧ h.sealFlag = false) ∧ (h.serial ≠ 0 → h.hostId ≠ 0) ∧
    (h.length = 0 → h.serial ≠ 0 ∧ h.sealFlag = true)

/-- The header of 32 bytes at an offset passes every test of R137, after the seq `prev` of the header accepted before. -/
def Accepts (mem : Memory) (base : Nat) (format : BitVec 16) (off prev : Nat) (h : Header) : Prop :=
  (∃ b ∈ mem.readBytes (base + off) 32, b ≠ 0) ∧ h.format = format ∧ h.length ≤ 4064 ∧
    off + footprint h.length ≤ 4096 ∧
    h.crc = entryCrc (mem.readBytes (base + off) 32) (mem.readBytes (base + off + 32) h.length) ∧ h.Formed ∧
    prev < h.seq

/-- The found entries of the scan, its overlaps settled (R138). -/
def State.foundEntries (s : State) : List Found :=
  (keptScans s.recovery.restored.head s.scanAll).flatten

/-- The found entries above head (R138). -/
def State.foundAbove (s : State) : List Found := aboveHead s.recovery.restored.head s.foundEntries

/-- A found entry above head of a transaction that R140 discards. -/
def State.Discards (s : State) (f : Found) : Prop :=
  f ∈ s.foundAbove ∧ f.header.serial ≠ 0 ∧
    serialKept s.recovery.restored.head f.header.serial s.foundEntries = false

/-- `m` is the greatest of the stamps, absent when there is none (R116). -/
def Greatest (l : List Stamp) (m : Option Stamp) : Prop :=
  (l = [] → m = none) ∧ (l ≠ [] → ∃ x ∈ l, m = some x ∧ ∀ y ∈ l, Stamp.le y x = true)

/-- The stamps handed to the clock at the end of the scan (R116, R144). -/
def State.handedStamps (s : State) : List Stamp :=
  (s.recovery.checkpoint.bind Checkpoint.lastStamp).toList ++ s.foundEntries.map (fun f => f.header.stamp)

/-- The clock decides CONTINUED against the greatest stamp `m`: the battery has held and the reading is not below `m`
(R116). -/
def Clock.Continues (k : Clock) (m : Option Stamp) : Prop :=
  k.batteryHeld = true ∧ ∀ x, m = some x → Stamp.le x k.reading = true

/-- The clock after its decision, against the greatest stamp `m`; `valid` is the checkpoint's clock-valid (R116). The stop
recorded is the one of R115 or one declared since (log entry 32). -/
def ClockDecision (k : Clock) (m : Option Stamp) (valid : Bool) (u : Clock) (lost : Bool) : Prop :=
  (k.Continues m → lost = false ∧
    u = { k with clockValid := valid && k.validMarker && !k.stopRecorded, lastStamp := m }) ∧
  (¬ k.Continues m → lost = true ∧ u.clockValid = false ∧ u.validMarker = false ∧ u.lastStamp = m ∧
    (m = none → u.epoch = 0 ∧ u.ticks = 0) ∧
    (∀ x, m = some x → x.epoch ≠ 65535 → u.epoch = x.epoch + 1 ∧ u.ticks = 0) ∧
    (∀ x, m = some x → x.epoch = 65535 → u.epoch = 65535 ∧ u.ticks = x.ticks) ∧
    u = { k with epoch := u.epoch, ticks := u.ticks, clockValid := false, validMarker := false,
                 lastStamp := u.lastStamp })

/-- The runs of absent sequence numbers from head + 1 to next seq - 1, and the report's fields of them (R148). -/
def AbsentReported (head next : Nat) (above : List Found) (b : Report) : Prop :=
  ∃ runs : List (Nat × Nat),
    (∀ q, (∃ r ∈ runs, r.1 ≤ q ∧ q ≤ r.2) ↔ head < q ∧ q < next ∧ ∀ f ∈ above, f.header.seq ≠ q) ∧
    (∀ r ∈ runs, r.1 ≤ r.2) ∧ List.Pairwise (fun r r' => r.2 + 1 < r'.1) runs ∧ b.absentRanges = runs.take 8 ∧
    b.absentOverflow = decide (8 < runs.length) ∧ b.absentTotal = (runs.map (fun r => r.2 + 1 - r.1)).sum

/-- The found entries of a serial (R140). -/
def ownEntries (serial : Nat) (all : List Found) : List Found := all.filter (fun f => f.header.serial == serial)

/-- The conditions 1 to 5 of R140, under which the transaction of a serial is kept. Where two found entries above head carry
the lowest index, the first in the order of the scan gives the seq of condition 5 (the model's choice, log entry 43). -/
def TransactionKept (head serial : Nat) (all : List Found) : Prop :=
  ∃ x, (ownEntries serial all).filter (fun f => f.header.sealFlag) = [x] ∧
    (∀ f ∈ ownEntries serial all, f.header.index < x.header.index + 1) ∧
    (∀ f ∈ ownEntries serial all, f.header.stateByte = 1 ∧
      ∀ g ∈ ownEntries serial all, f.header.channel = g.header.channel ∧ f.header.hostId = g.header.hostId) ∧
    ∃ first, (aboveHead head (ownEntries serial all)).find? (fun f => f.header.index == first.header.index) =
        some first ∧
      (∀ f ∈ aboveHead head (ownEntries serial all), first.header.index ≤ f.header.index) ∧
      (∀ j, first.header.index ≤ j → j < x.header.index + 1 →
        ∃ f ∈ aboveHead head (ownEntries serial all), f.header.index = j) ∧
      (first.header.index = 0 ∨
        (∃ f ∈ ownEntries serial all, f.header.index + 1 = first.header.index ∧ f.header.seq ≤ head) ∨
        ∀ q, head < q → q < first.header.seq → ∃ f ∈ all, f.header.seq = q)

end Sys2Proof.Machine
end

