-- ==== Sys2Proof/Certificates/Slice0/Obligations.lean ====
section
/-! DEFINITION. The statements for the provers. `SameLog`, `SameUnits`, `SameContents`, `Completed` and the like are defined
in Sys2Proof/Safety.lean.
-/
open Sys2Proof Sys2Proof.Machine

/-! ### The step, the state at reset, the invariants -/

/-- A step takes the command at the front of the queue and runs it on the state with the queue's rest. -/
def Obligations.StepRunsFrontCommand : Prop :=
  ∀ (c : Instr) (rest : List Instr) (s : State),
    s.pending = c :: rest → step s = exec c { s with pending := rest }

/-- On an empty queue a step lets 1 µs of the device timer pass and changes nothing else (the model's choice,
log entry 2). -/
def Obligations.IdleStepTicksDeviceTimer : Prop :=
  ∀ s : State, s.pending = [] → step s = .next { s with now := s.now + 1 }

/-- The values the part holds at entry to RECALL, as far as the manual gives them. -/
def Obligations.ResetValues : Prop :=
  State.reset.device = .recall ∧ State.reset.window.enable = false ∧ State.reset.window.ctrlFault = none ∧
  State.reset.window.base = 0 ∧ (∀ c, State.reset.chan c = Channel.closed) ∧ State.reset.cc.fetch = none ∧
  State.reset.cc.lastServed = 15 ∧ State.reset.cc.fetchPaused = false ∧ State.reset.cc.alerts = [] ∧
  State.reset.cc.alertWaiters = [] ∧ State.reset.staging.buffers = [] ∧ State.reset.journal.readBuffers = [] ∧
  State.reset.txns.table = [] ∧ State.reset.budget.held = [] ∧ State.reset.budget.exposed = false ∧
  State.reset.budget.b = 0 ∧ State.reset.budget.limit = 512 ∧ State.reset.budget.headroom = 8 ∧
  State.reset.monitor.charge = .charging ∧ State.reset.monitor.inUse = 12 * 100 ∧ State.reset.monitor.c = 0 ∧
  State.reset.monitor.learned = none ∧ State.reset.store.op = none ∧ State.reset.store.waiting = [] ∧
  State.reset.store.reservationWaiters = [] ∧ State.reset.store.idleDelay = 20 ∧
  State.reset.store.lineStore = .none ∧ State.reset.store.phase = .none ∧ State.reset.store.storedCount = 0 ∧
  State.reset.store.failedList = [] ∧ State.reset.supply.good = true ∧ State.reset.supply.latch = false ∧
  State.reset.supply.driveLow = false ∧ State.reset.clock.clockValid = false ∧
  State.reset.clock.lastStamp = none ∧ State.reset.clock.oscRunning = true ∧ State.reset.clock.transfer = none

/-- The state after reset satisfies the five invariants. -/
def Obligations.ResetSatisfiesInvariants : Prop :=
  State.reset.MemoriesWf ∧ State.reset.WithinLimits ∧ State.reset.SequenceLaw ∧ State.reset.OffIsQuiet ∧
    State.reset.clock.StopHolds

/-- Every step keeps journal SRAM and the shadow in the canonical form. -/
def Obligations.StepKeepsMemoriesWf : Prop :=
  ∀ s t : State, s.MemoriesWf → step s = .next t → t.MemoriesWf

/-- Every step keeps the limits of the staging buffers, the read buffers, the alert waiters and the alert list. -/
def Obligations.StepKeepsLimits : Prop :=
  ∀ s t : State, s.WithinLimits → step s = .next t → t.WithinLimits

/-- Every step keeps S below next seq and every sequence number of the segment table below next seq. -/
def Obligations.StepKeepsSequenceLaw : Prop :=
  ∀ s t : State, s.SequenceLaw → step s = .next t → t.SequenceLaw

/-- Every step keeps OFF quiet: no array operation in flight, PSTORE# not driven. -/
def Obligations.StepKeepsOffQuiet : Prop :=
  ∀ s t : State, s.OffIsQuiet → step s = .next t → t.OffIsQuiet

/-! ### Records -/

/-- The records that cross the link and the entry header: their lengths and the place of every field, with the codes of the
kinds, states and statuses; an entry's footprint is 32 bytes plus its payload rounded up to a multiple of 32, with the
manual's examples. The rounding of a capacitance that is no whole number of µF is the model's free value (log entry 10). -/
def Obligations.RecordSizes : Prop :=
  (∀ x : Completion, (completionBytes x).length = 32 ∧ Laid (completionBytes x)
    [(0, 2, x.tag.toNat), (2, 1, x.kindCode.toNat), (3, 1, x.status.code), (4, 1, flagBit x.deferred 0),
     (5, 1, x.alertCode), (6, 1, x.alertCount), (7, 1, 0), (8, 8, x.seq), (16, 2, x.stamp.epoch),
     (18, 6, x.stamp.ticks), (24, 8, x.detail)]) ∧
  (∀ a b st reason, (statusBytes a b st reason).length = 16 ∧ Laid (statusBytes a b st reason)
    [(0, 2, a), (2, 2, b), (4, 1, st.code), (5, 1, reasonCode reason), (6, 10, 0)]) ∧
  (∀ s : State, s.snapshotBytes.length = 128 ∧ Laid s.snapshotBytes
    [(0, 1, s.device.code), (1, 1, flagBit s.journal.formatted 0), (2, 2, s.journal.format.toNat),
     (4, 4, flagBit s.budget.exposed 0 + flagBit s.mediaFault 1 + flagBit s.store.metadataDirty 2 +
       flagBit (s.budget.held.any (fun h => h.reason == .budget)) 3 + flagBit s.journal.full 4 +
       flagBit s.clock.clockValid 5 + flagBit (!s.clock.oscRunning) 6 + flagBit (!s.clock.batteryGood) 7 +
       flagBit s.clock.lastStamp.isSome 8 + flagBit (s.store.lineStore == .segments) 9 +
       flagBit (s.store.lineStore == .checkpoint) 10),
     (8, 8, s.journal.head), (16, 8, s.journal.nextSeq), (24, 8, s.store.storedThrough)] ∧
    Laid s.snapshotBytes
    [(32, 2, s.dirtyCount), (34, 2, s.budget.b), (36, 2, s.monitor.c), (38, 2, s.budget.limit),
     (40, 1, s.budget.headroom), (41, 1, s.budget.held.length), (42, 1, s.store.reservationWaiters.length),
     (43, 1, s.cc.alerts.length), (44, 2, s.monitor.v), (46, 2, microfarads s.monitor.inUse),
     (48, 2, (s.monitor.learned.map microfarads).getD 0)] ∧
    Laid s.snapshotBytes
    [(50, 2, s.countSegs (fun g => g.state == .free)), (52, 2, s.countSegs (fun g => g.state == .retired)),
     (54, 2, s.countSegs (fun g => g.state == .failed)), (56, 2, s.journal.chain.length),
     (58, 1, s.txns.table.countP (fun t => !t.expired)), (59, 1, s.txns.table.countP (fun t => t.expired)),
     (60, 1, s.txnReservations), (61, 1, s.cc.alertWaiters.length), (62, 1, s.waitReservations),
     (63, 1, s.store.waiting.length)] ∧
    Laid s.snapshotBytes
    [(64, 2, s.clock.epoch), (66, 6, s.clock.ticks), (72, 2, (s.clock.lastStamp.map Stamp.epoch).getD 0),
     (74, 6, (s.clock.lastStamp.map Stamp.ticks).getD 0), (80, 48, 0)]) ∧
  (∀ r : Recovery, r.reportBytes.length = 256 ∧ (r.report = none → r.reportBytes = List.replicate 256 0) ∧
    ∀ b, r.report = some b → Laid r.reportBytes
      [(0, 1, b.outcome.code), (1, 1, (b.checkpointUsed.map (fun x => x.1.code)).getD 0),
       (2, 1, flagBit b.absentOverflow 0 + flagBit b.unlistedFailures 1 + flagBit b.exposedAtLoss 2 +
         flagBit b.clockLost 3 + flagBit b.checkpointFailed 4 + flagBit b.storedAtLoss.isSome 5), (3, 1, 0),
       (4, 4, (b.checkpointUsed.map (fun x => x.2.toNat)).getD 0), (8, 2, b.format.toNat),
       (10, 2, b.segmentsRetired), (12, 2, b.dirtyAtLoss), (14, 2, b.storedAtLoss.getD 0)] ∧
      Laid r.reportBytes
      [(16, 8, b.head), (24, 8, b.nextSeq), (32, 4, b.nextSerial), (36, 4, b.sealedTxns), (40, 4, b.discardedTxns),
       (44, 4, 0), (48, 8, b.liveEntries), (56, 8, b.voidEntries), (64, 8, b.absentTotal), (200, 56, 0)] ∧
      ∀ k, k < 8 → Laid r.reportBytes
        [(72 + 16 * k, 8, (b.absentRanges[k]?.map Prod.fst).getD 0),
         (80 + 16 * k, 8, (b.absentRanges[k]?.map Prod.snd).getD 0)]) ∧
  (∀ h : Header, h.bytes.length = 32 ∧ Laid h.bytes
    [(0, 2, h.format.toNat), (2, 1, h.stateByte.toNat),
     (3, 1, flagBit h.sealFlag 0 + flagBit h.clockValid 1 + h.channel * 2 ^ 4), (4, 2, h.length), (6, 6, h.seq),
     (12, 2, h.hostId), (14, 4, h.serial), (18, 2, h.index), (20, 2, h.stamp.epoch), (22, 6, h.stamp.ticks),
     (28, 4, h.crc.toNat)]) ∧
  ([Status.ok, .invalid, .notAllowed, .busy, .limit, .hostReadError, .hostWriteError, .tooSmall, .notFormatted,
    .nvFault, .seqExhausted, .txnLimit, .txnUnknown, .txnExpired, .txnTooLong, .txnOpenInRange, .range, .released,
    .discarded, .notSealed, .absent, .cancelled, .clockRegress].map Status.code = List.range 23 ∧
   [Kind.append, .sealTxn, .abort, .read, .flush, .release, .format, .setClock, .recoveryReport, .openChannel,
    .closeChannel, .configure, .query, .alertWait].map Kind.code =
     [0x01, 0x02, 0x03, 0x04, 0x05, 0x06, 0x10, 0x11, 0x12, 0x13, 0x14, 0x15, 0x16, 0x17] ∧
   [AlertKind.exposed, .exposureEnded, .mediaFault, .segmentRetired, .journalFull, .holdupFault, .clockStopped,
    .channelFault].map AlertKind.code = [1, 2, 3, 4, 5, 6, 7, 8] ∧
   [ChannelState.closed, .active, .draining, .faulted].map ChannelState.code = [0, 1, 2, 3] ∧
   [FaultReason.badBase, .ringRead, .completionWrite, .statusWrite, .badIndex, .badRetire].map FaultReason.code =
     [1, 2, 3, 4, 5, 6] ∧
   [DeviceState.recall, .recover, .ready, .running, .emergency, .halted].map DeviceState.code = [1, 2, 3, 4, 5, 6] ∧
   [Outcome.clean, .incomplete, .unformatted].map Outcome.code = [1, 2, 3] ∧
   [Slot.a, .b].map Slot.code = [1, 2]) ∧
  (∀ n, footprint n % 32 = 0 ∧ 32 + n ≤ footprint n ∧ footprint n < 32 + n + 32) ∧
  footprint 0 = 32 ∧ footprint 100 = 160 ∧ footprint 4064 = 4096

/-- Reading a header from its 32 bytes gives it back, with every field at every value its width admits. -/
def Obligations.HeaderRoundTrip : Prop :=
  ∀ h : Header, h.Fits → parseHeader h.bytes = h

/-- The tests of record validation in order, the failing field of lowest offset, the allowed values of every kind, and what
the event does with a record refused or passed: the consumer index advances and a record that passes becomes the executing
request. That a reserved area is one field, named by its row's offset, is the model's reading (log entry 16). -/
def Obligations.RecordValidation : Prop :=
  (∀ (c : ChanId) (b : List Byte),
    (Kind.ofCode (fieldAt b 0 1) = none → validateRecord c b = .refused .invalid 0) ∧
    ∀ k, Kind.ofCode (fieldAt b 0 1) = some k →
      (k.allowedOn c = false → validateRecord c b = .refused .notAllowed c.val) ∧
      (k.allowedOn c = true →
        (∀ off, failingOffset k b = some off → validateRecord c b = .refused .invalid off ∧
          (off, false) ∈ headChecks k b ++ paramChecks k b ∧
          ∀ x ∈ headChecks k b ++ paramChecks k b, x.2 = false → off ≤ x.1) ∧
        (failingOffset k b = none → validateRecord c b = .passed (parseRequest k b) ∧
          ∀ x ∈ headChecks k b ++ paramChecks k b, x.2 = true) ∧
        (fieldAt b 1 1 &&& (255 - k.allowedFlags) ≠ 0 → validateRecord c b = .refused .invalid 1))) ∧
  (∀ (k : Kind) (b : List Byte), failingOffset k b = none ↔ FieldsAllowed k b) ∧
  ∀ (s : State) (c : ChanId) (bytes : List Byte),
    s.cc.fetch = some c →
    (s.chan c).state = .active ∨ ((s.chan c).state = .draining ∧ 1 < (s.chan c).inFlight) →
    (s.chan c).exec = none → bytes.length = 64 →
    (∀ status detail, validateRecord c bytes = .refused status detail →
      ∃ u, exec (.fetchEnd (.data bytes)) s = .next u ∧
        u.taken = s.taken ++ [(c, (s.chan c).cplNext,
          { tag := BitVec.ofNat 16 (fieldAt bytes 2 2),
            kindCode := BitVec.ofNat 8 (fieldAt bytes 0 1), status := status, deferred := false,
            alertCode := 0, alertCount := 0, seq := 0, stamp := Stamp.zero, detail := detail })] ∧
        u.chan c = { s.chan c with reqConsumer := ((s.chan c).reqConsumer + 1) % (s.chan c).reqSlots,
                                   cplNext := ((s.chan c).cplNext + 1) % (s.chan c).cplSlots,
                                   inFlight := (s.chan c).inFlight - 1 +
                                     fetchBegun c { s with cc.fetch := none } u } ∧
        SameChannelsBut (fun d => d = c) { s with cc.fetch := none } u ∧ SameContents s u ∧ u.staging = s.staging ∧
        u.budget = s.budget ∧ u.store.reservationWaiters = s.store.reservationWaiters) ∧
    (∀ r, validateRecord c bytes = .passed r →
      ∃ u, exec (.fetchEnd (.data bytes)) s = .next u ∧
        u.chan c = { s.chan c with
          reqConsumer := ((s.chan c).reqConsumer + 1) % (s.chan c).reqSlots,
          exec := some { req := r, stage := .handed, waitReserved := false, txnReserved := false } } ∧
        u.taken = s.taken ∧ SameChannelsBut (fun d => d = c) { s with cc.fetch := none } u ∧ SameContents s u ∧
        u.staging = s.staging ∧ u.budget = s.budget ∧ u.store.reservationWaiters = s.store.reservationWaiters)

/-! ### The register window -/

/-- A write of ENABLE 1 in each device state. Channel 0 becomes ACTIVE with the write of its status block. -/
def Obligations.EnableRule : Prop :=
  ∀ s : State,
    (s.device = .ready → s.window.ctrlFault = none → s.window.baseValid = true →
      ∃ u, exec .enable s = .next u ∧ u.chan 0 = controlChannel s.window.base ∧
        SameChannelsBut (fun d => d = 0) s u ∧ u.taken = s.taken ∧
        u.cc.statusWrites = s.cc.statusWrites ++
          [{ chan := 0, addr := s.window.base + 3072, purpose := .becameActive }] ∧
        Emitted (.write (s.window.base + 3072) (statusBytes 0 0 .active none)) s u ∧
        SameContents { s with device := .running, window.enable := true, window.latchedBase := s.window.base } u) ∧
    (s.device = .ready → s.window.ctrlFault = none → s.window.baseValid = false →
      exec .enable s = .next { s with window.enable := true, window.ctrlFault := some .badBase }) ∧
    (s.device ≠ .off → s.device ≠ .ready ∨ s.window.ctrlFault ≠ none →
      exec .enable s = .next { s with window.enable := true }) ∧
    (s.device = .off → exec .enable s = .next s)

/-- A host reset, whatever its cause: what it clears and what it leaves, the line store with its phase, the fetch-paused
flag and the drive of PSTORE# among the latter. Transfers are abandoned and the entries of OPEN transactions become VOID.
Where a host write stops is free (log entry 23); that the later one of two status block writes of one channel has not begun,
also when the channel was opened again with another status block address between them, is the model's choice (log entry 44).
With an operation in flight, or with nothing queued, the store engine goes on as it was, but that a rise of pressure at the
event may queue the OPEN segment. -/
def Obligations.HostResetEffect : Prop :=
  ∀ (cause : ResetCause) (s : State), s.device ≠ .off →
    ∃ u, exec (.hostReset cause) s = .next u ∧
      u.device = (if s.device = .running then .ready else s.device) ∧
      u.window = { s.window with enable := false, ctrlFault := none } ∧
      (∀ c, u.chan c = Channel.closed) ∧ u.cc.fetch = none ∧ u.cc.lastServed = 15 ∧ u.cc.alertWaiters = [] ∧
      u.cc.alerts = s.cc.alerts ∧ u.cc.posts = [] ∧ u.cc.statusWrites = [] ∧ u.staging.buffers = [] ∧
      u.staging.waiters = [] ∧ u.journal.readBuffers = [] ∧ u.journal.readWaiters = [] ∧ u.store.waiting = [] ∧
      u.store.reservationWaiters = [] ∧ u.budget.held = [] ∧ u.txns.table = [] ∧
      u.txns.nextSerial = s.txns.nextSerial ∧ u.journal.chain = s.journal.chain ∧
      u.journal.nextSeq = s.journal.nextSeq ∧ u.journal.head = s.journal.head ∧
      u.journal.format = s.journal.format ∧ u.journal.formatted = s.journal.formatted ∧
      SameSegmentsBut (fun _ => False) s u ∧ u.store.storedThrough = s.store.storedThrough ∧
      u.store.newest = s.store.newest ∧ u.array.slotA = s.array.slotA ∧ u.array.slotB = s.array.slotB ∧
      u.array.closing = s.array.closing ∧ u.clock = s.clock ∧ u.monitor = s.monitor ∧ u.recovery = s.recovery ∧
      u.budget.exposed = s.budget.exposed ∧ u.supply = s.supply ∧ u.store.lineStore = s.store.lineStore ∧
      u.cc.fetchPaused = s.cc.fetchPaused ∧ VoidedAll (fun _ => true) s u ∧
      (∃ sent, u.out = .abandoned s.writeCuts sent :: s.out) ∧
      u.store.phase = s.store.phase ∧ u.store.storedCount = s.store.storedCount ∧
      u.store.failedList = s.store.failedList ∧ u.store.failedOverflow = s.store.failedOverflow ∧
      (s.store.op ≠ none ∨ s.store.queue = [] →
        (s.budget.pressure = true ∨ s.dirtyCount + s.budget.headroom < s.budget.b) →
        u.store.queue = s.store.queue ∧ u.store.metadataDirty = s.store.metadataDirty ∧
        u.store.jobsSinceDirty = s.store.jobsSinceDirty ∧ (s.store.op = none → u.store.op = none) ∧
        (∀ i w, s.store.op = some (.job i w) → ∃ w', (w ≤ w' ∨ w' = 4096) ∧ u.store.op = some (.job i w')) ∧
        (∀ slot x k, s.store.op = some (.checkpoint slot x k) → u.store.op = some (.checkpoint slot x k)) ∧
        ∀ m k, s.store.op = some (.closingMark m k) → u.store.op = some (.closingMark m k))

/-- NOTIFY: ignored for a CLOSED or FAULTED channel and outside READY and RUNNING, a fault for a bad index, else the new
producer index. With no fetch in flight and a channel eligible at the new index the fetch of the one next in turn begins
within the event. -/
def Obligations.NotifyRule : Prop :=
  ∀ (s : State) (chan : BitVec 4) (index : BitVec 12),
    ((s.chan chan.toFin).live = false → exec (.notify chan index) s = .next s) ∧
    (s.working = false → exec (.notify chan index) s = .next s) ∧
    (s.working = true → (s.chan chan.toFin).live = true → (s.chan chan.toFin).reqSlots ≤ index.toNat →
      exec (.notify chan index) s = .next (settle false (faultChannel chan.toFin .badIndex s))) ∧
    (s.working = true → (s.chan chan.toFin).live = true → index.toNat < (s.chan chan.toFin).reqSlots →
      ∃ u, exec (.notify chan index) s = .next u ∧
        u.chan chan.toFin = { s.chan chan.toFin with hostProducer := index.toNat,
                                                     inFlight := (s.chan chan.toFin).inFlight +
                                                       fetchBegun chan.toFin s u } ∧
        SameChannelsBut (fun d => d = chan.toFin) s u ∧ SameContents s u ∧ u.taken = s.taken ∧ u.ArbiterAtRest ∧
        ∀ t d, t = s.setChan chan.toFin { s.chan chan.toFin with hostProducer := index.toNat } →
          s.store.lineStore = .none → s.cc.fetch = none → t.eligible d = true →
          (∀ e, t.eligible e = true → s.turn d ≤ s.turn e) →
          u.cc.fetch = some d ∧ u.cc.lastServed = d ∧
            Emitted (.read ((s.chan d).reqAddr + BitVec.ofNat 64 (64 * (s.chan d).reqConsumer)) 64) s u)

/-- RETIRE: ignored for a CLOSED or FAULTED channel, a fault for a bad index, else the new consumer index. -/
def Obligations.RetireRule : Prop :=
  ∀ (s : State) (chan : BitVec 4) (index : BitVec 12),
    ((s.chan chan.toFin).live = false → exec (.retire chan index) s = .next s) ∧
    (s.working = false → exec (.retire chan index) s = .next s) ∧
    (s.working = true → (s.chan chan.toFin).live = true →
      ((s.chan chan.toFin).cplSlots ≤ index.toNat ∨
        ringDiff (s.chan chan.toFin).published (s.chan chan.toFin).hostConsumer (s.chan chan.toFin).cplSlots <
          ringDiff index.toNat (s.chan chan.toFin).hostConsumer (s.chan chan.toFin).cplSlots) →
      exec (.retire chan index) s = .next (settle false (faultChannel chan.toFin .badRetire s))) ∧
    (s.working = true → (s.chan chan.toFin).live = true → index.toNat < (s.chan chan.toFin).cplSlots →
      ringDiff index.toNat (s.chan chan.toFin).hostConsumer (s.chan chan.toFin).cplSlots ≤
        ringDiff (s.chan chan.toFin).published (s.chan chan.toFin).hostConsumer (s.chan chan.toFin).cplSlots →
      ∃ u, exec (.retire chan index) s = .next u ∧
        u.chan chan.toFin = { s.chan chan.toFin with hostConsumer := index.toNat,
                                                     inFlight := (s.chan chan.toFin).inFlight +
                                                       fetchBegun chan.toFin s u } ∧
        SameChannelsBut (fun d => d = chan.toFin) s u ∧ SameContents s u ∧ u.taken = s.taken)

/-- A write to an offset of the window is the command of the register that stands there; a write of another width than
32 bits, to another offset, or in OFF changes nothing. A 32-bit read returns ENABLE, DEVSTAT with state, CTRL_FAULT and
reason, the control base, zero elsewhere, and nothing in OFF. -/
def Obligations.WindowRule : Prop :=
  (∀ (s : State) (off : BitVec 12) (width : Nat) (v : BitVec 32),
      (width ≠ 4 ∨ s.device = .off → exec (.registerWrite off width v) s = .next s) ∧
      (width = 4 → s.device ≠ .off →
        (off = 0x000 → v.getLsbD 0 = true → exec (.registerWrite off width v) s = exec .enable s) ∧
        (off = 0x000 → v.getLsbD 0 = false →
          exec (.registerWrite off width v) s = exec (.hostReset .enableZero) s) ∧
        (off = 0x008 → exec (.registerWrite off width v) s = .next { s with window.ctrlBaseLo := v }) ∧
        (off = 0x00C → exec (.registerWrite off width v) s = .next { s with window.ctrlBaseHi := v }) ∧
        (off = 0x010 → exec (.registerWrite off width v) s =
          exec (.notify (v.extractLsb' 0 4) (v.extractLsb' 16 12)) s) ∧
        (off = 0x014 → exec (.registerWrite off width v) s =
          exec (.retire (v.extractLsb' 0 4) (v.extractLsb' 16 12)) s) ∧
        (off ≠ 0x000 → off ≠ 0x008 → off ≠ 0x00C → off ≠ 0x010 → off ≠ 0x014 →
          exec (.registerWrite off width v) s = .next s))) ∧
  ∀ s : State,
    (s.device = .off → ∀ off, s.readWindow off = none) ∧
    (s.device ≠ .off →
      s.readWindow 0x000 = some (if s.window.enable then 1 else 0) ∧
      (∃ w, s.readWindow 0x004 = some w ∧ (w.extractLsb' 0 4).toNat = s.device.code ∧
        w.getLsbD 4 = s.window.ctrlFault.isSome ∧ (w.extractLsb' 8 8).toNat = reasonCode s.window.ctrlFault) ∧
      s.readWindow 0x008 = some s.window.ctrlBaseLo ∧ s.readWindow 0x00C = some s.window.ctrlBaseHi ∧
      ∀ off, off ≠ 0x000 → off ≠ 0x004 → off ≠ 0x008 → off ≠ 0x00C → s.readWindow off = some 0)

/-! ### Channels -/

/-- What a channel fault does to the channel and its work; a fault of a channel that is neither ACTIVE nor DRAINING does
nothing. A host read error at a fetch is one. The channel's OPEN transactions become VOID, what its request held is
returned, and with a close pending the channel becomes CLOSED and the close completes. That the grant run for an oldest
held record that left (R65) comes last, after the alert and the close, is the model's choice (log entry 33), and so is
that the host writes dropped stop at a free place (log entry 39); the count of records cancelled in the detail of the
close is read from section 11.3 (log entry 17). -/
def Obligations.FaultEffect : Prop :=
  (∀ (s : State) (c : ChanId), s.cc.fetch = some c →
    exec (.fetchEnd .error) s = .next (settle false (faultChannel c .ringRead { s with cc.fetch := none }))) ∧
  ∀ (c : ChanId) (reason : FaultReason) (s : State),
    ((s.chan c).live = false → faultChannel c reason s = s) ∧
    ((s.chan c).live = true →
      ∃ t, faultChannel c reason s = grantAfter (s.oldestIs c) t ∧
        (c = 0 ∨ (s.chan c).pendingClose = none →
          t.chan c = { s.chan c with state := .faulted, faultReason := some reason, exec := none, inFlight := 0,
                                     cplNext := (s.chan c).published, pendingInt := 0, holdoffTimer := none,
                                     pendingClose := none }) ∧
        (∀ d, d ≠ c → d ≠ 0 →
          t.chan d = if c = 0 then { s.chan d with pendingClose := none } else s.chan d) ∧
        t.cc.fetch = (if s.cc.fetch = some c then none else s.cc.fetch) ∧
        t.store.waiting = s.store.waiting.filter (fun w => w.chan != c) ∧
        (∀ p ∈ t.cc.posts, p.chan = c → p.detached ≠ none) ∧
        t.txns = { s.txns with table := s.txns.table.filter (fun x => !(x.chan == c)) } ∧
        VoidedAll (fun x => x.chan == c) s t ∧ HoldingsReturned c s t ∧
        t.journal.nextSeq = s.journal.nextSeq ∧ t.journal.head = s.journal.head ∧
        t.journal.chain = s.journal.chain ∧ SameSegmentsBut (fun _ => False) s t ∧
        (reason ≠ .statusWrite →
          .write (s.chan c).statusAddr
            (statusBytes (s.chan c).reqConsumer (s.chan c).published .faulted (some reason)) ∈ t.out) ∧
        .interrupt (s.chan c).vector ∈ t.out ∧
        (c = 0 → t.window = { s.window with ctrlFault := some (s.window.ctrlFault.getD reason) } ∧
          t.cc.alertWaiters = []) ∧
        (c ≠ 0 → t.window = s.window) ∧
        (c = 0 ∨ s.cc.alertWaiters = [] →
          t.cc.alerts = foldAlert .channelFault 0 (c.val + reason.code * 2 ^ 8) s.clock.reading s.cc.alerts ∧
          ((s.chan c).pendingClose = none ∨ c = 0 → t.takenBy =
            (s.cc.posts.filter (fun p => !(p.chan == c && p.detached.isNone))).map
              (fun p => (p.chan, p.completion)) ∧ (c ≠ 0 → t.chan 0 = s.chan 0)) ∧
          ∀ pc, (s.chan c).pendingClose = some pc → c ≠ 0 → (s.chan 0).live = true →
            t.chan 0 = (s.chan 0).answered 1 ∧
            t.takenBy = (s.cc.posts.filter (fun p => !(p.chan == c && p.detached.isNone))).map
              (fun p => (p.chan, p.completion)) ++
              [(0, { tag := pc.tag, kindCode := 0x14, status := .ok, deferred := false, alertCode := 0,
                     alertCount := 0, seq := 0, stamp := Stamp.zero,
                     detail := c.val + 3 * 2 ^ 8 + reason.code * 2 ^ 16 + pc.cancelled * 2 ^ 32 })]) ∧
        (c ≠ 0 → (s.chan c).pendingClose ≠ none → t.chan c = Channel.closed) ∧
        (∀ r seq stamp n, (s.chan c).exec = some r → r.stage = .readWrite seq stamp n →
          (r.req.addr, n) ∈ s.faultWrites c reason) ∧
        (∀ p ∈ s.cc.posts, p.chan = c → p.detached = none → p.phase = .record → reason ≠ .completionWrite →
          (p.addr, 32) ∈ s.faultWrites c reason) ∧
        (s.faultWrites c reason ≠ [] → ∃ cuts, .abandoned cuts true ∈ t.out ∧
          cuts.map Prod.fst = (s.faultWrites c reason).map Prod.fst ∧
          ∀ x ∈ cuts.zip (s.faultWrites c reason), x.1.2 ≤ x.2.2))

/-- A channel is eligible for fetch when the device is RUNNING, fetching is not paused, the channel is ACTIVE with a pending
record and credit, and it executes nothing. The fetch arbiter takes the eligible channel next in turn after the last-served
one, counts its request in flight and begins the read of its next record; with a fetch in flight or no channel eligible it
does nothing. It acts within every event: after any command but the four that post an alert and nothing else, that command
has changed neither the fetch in flight nor any channel's eligibility, or no eligible channel is left without a fetch. -/
def Obligations.ArbiterOrder : Prop :=
  (∀ (i : Instr) (s u : State),
    s.cc.alertWaiters = [] ∨
      (i ≠ .oscillatorStop ∧ i ≠ .notCharged ∧ i ≠ .learnTimeout ∧ ∀ t, i ≠ .learnEnd t) →
    exec i s = .next u →
    (u.cc.fetch = s.cc.fetch ∧ ∀ d, u.eligible d = s.eligible d) ∨ u.ArbiterAtRest) ∧
  ∀ s : State,
    (∀ c, s.eligible c = true ↔ s.device = .running ∧ s.cc.fetchPaused = false ∧ (s.chan c).state = .active ∧
      1 ≤ ((s.chan c).hostProducer + (s.chan c).reqSlots - (s.chan c).reqConsumer) % (s.chan c).reqSlots ∧
      (s.chan c).inFlight +
          ((s.chan c).cplNext + (s.chan c).cplSlots - (s.chan c).hostConsumer) % (s.chan c).cplSlots + 1 ≤
        (s.chan c).cplSlots - 1 ∧ (s.chan c).exec = none) ∧
    (s.cc.fetch ≠ none → fetchArbiter s = s) ∧
    (s.cc.fetch = none → (∀ c, s.eligible c = false) → fetchArbiter s = s) ∧
    ∀ c, s.cc.fetch = none → s.eligible c = true →
      (∀ d, s.eligible d = true → s.turn c ≤ s.turn d) →
      (fetchArbiter s).cc.fetch = some c ∧ (fetchArbiter s).cc.lastServed = c ∧
        (fetchArbiter s).chan c = { s.chan c with inFlight := (s.chan c).inFlight + 1 } ∧
        (∀ d, d ≠ c → (fetchArbiter s).chan d = s.chan d) ∧
        (fetchArbiter s).out =
          .read ((s.chan c).reqAddr + BitVec.ofNat 64 (64 * (s.chan c).reqConsumer)) 64 :: s.out ∧
        SameContents s (fetchArbiter s)

/-- The three steps of a post. A completion takes the next slot, in flight falls by one, and its record write to the ring
address of the slot begins, at once or when every earlier one of the channel is posted. After the record write the
published index covers the slot and the status block is written; after the status block write the completion is posted,
coalescing takes it, and the next one's record write begins. A host write error at either faults the channel. At the
expiry of a holdoff timer the interrupt is sent when the pending count is at least 1. A completion whose channel has become
CLOSED before it is posted is posted in the same steps, and its interrupt is sent at once; which status block it writes, its
vector, and that a host write error gives up the channel's other such completions, is the model's choice (log entry 14), and
so is that the end of a status block write is that of the channel's oldest one, whatever its address (log entry 44). -/
def Obligations.PostingRule : Prop :=
  (∀ (s : State) (c : ChanId) (x : Completion),
    ((s.chan c).live = false → takeSlot c x s = s) ∧
    ((s.chan c).live = true →
      (takeSlot c x s).taken = s.taken ++ [(c, (s.chan c).cplNext, x)] ∧
      (takeSlot c x s).chan c = { s.chan c with cplNext := ((s.chan c).cplNext + 1) % (s.chan c).cplSlots,
                                                inFlight := (s.chan c).inFlight - 1 } ∧
      (∀ d, d ≠ c → (takeSlot c x s).chan d = s.chan d) ∧
      (takeSlot c x s).cc.posts.map Post.addr = s.cc.posts.map Post.addr ++
        [(s.chan c).cplAddr + BitVec.ofNat 64 (32 * (s.chan c).cplNext)] ∧
      (s.firstPost c = none →
        (takeSlot c x s).out =
          .write ((s.chan c).cplAddr + BitVec.ofNat 64 (32 * (s.chan c).cplNext)) (completionBytes x) :: s.out ∧
        ((takeSlot c x s).firstPost c).map Post.phase = some .record) ∧
      (∀ p, s.firstPost c = some p → p.phase ≠ .queued →
        (takeSlot c x s).out = s.out ∧ (takeSlot c x s).firstPost c = some p) ∧
      SameContents s (takeSlot c x s))) ∧
  ((∀ (s : State) (c : ChanId) (p : Post), s.firstPost c = some p → p.phase = .record → p.detached = none →
      (∃ u, exec (.completionRecordWriteEnd c true) s = .next u ∧
        u.chan c = { s.chan c with published := (p.slot + 1) % (s.chan c).cplSlots } ∧
        (∀ d, d ≠ c → u.chan d = s.chan d) ∧ (u.firstPost c).map Post.phase = some .status ∧ u.taken = s.taken ∧
        u.cc.statusWrites = s.cc.statusWrites ++
          [{ chan := c, addr := (s.chan c).statusAddr, purpose := .post }] ∧
        u.out = .write (s.chan c).statusAddr
          (statusBytes (s.chan c).reqConsumer ((p.slot + 1) % (s.chan c).cplSlots) (s.chan c).state
            (s.chan c).faultReason) :: s.out ∧
        SameContents s u) ∧
      exec (.completionRecordWriteEnd c false) s = .next (settle false (faultChannel c .completionWrite s))) ∧
    ∀ (s : State) (c : ChanId) (w : StatusWrite),
      s.cc.statusWrites.find? (fun w => w.chan == c) = some w → w.purpose = .post →
      (∃ u, exec (.statusBlockWriteEnd c true) s = .next u ∧
        u.taken = (s.cc.posts.eraseP (fun p => p.chan == c)).map (fun p => (p.chan, p.slot, p.completion)) ∧
        u.cc.statusWrites = s.cc.statusWrites.eraseP (fun w => w.chan == c) ∧ (∀ d, d ≠ c → u.chan d = s.chan d) ∧
        ((s.chan c).threshold ≤ (s.chan c).pendingInt + 1 ∨ (s.chan c).holdoff = 0 →
          u.chan c = { s.chan c with pendingInt := 0, holdoffTimer := none } ∧
          .interrupt (s.chan c).vector ∈ u.out) ∧
        ((s.chan c).pendingInt + 1 < (s.chan c).threshold → (s.chan c).holdoff ≠ 0 →
          u.chan c = { s.chan c with
            pendingInt := (s.chan c).pendingInt + 1,
            holdoffTimer := if (s.chan c).pendingInt = 0 then some (s.now + (s.chan c).holdoff)
                            else (s.chan c).holdoffTimer }) ∧
        (∀ q, (s.cc.posts.eraseP (fun p => p.chan == c)).find? (fun p => p.chan == c) = some q → q.phase = .queued →
          u.firstPost c = some { q with phase := .record } ∧
          u.out.head? = some (.write q.addr (completionBytes q.completion))) ∧
        SameContents s u) ∧
      exec (.statusBlockWriteEnd c false) s =
        .next (settle false (faultChannel c .statusWrite
          { s with cc.statusWrites := s.cc.statusWrites.eraseP (fun w => w.chan == c) }))) ∧
  (∀ (s : State) (c : ChanId) (p : Post) (d : Detached), s.firstPost c = some p → p.detached = some d →
    (p.phase = .record →
      (∃ u, exec (.completionRecordWriteEnd c true) s = .next u ∧ u.cc.chans = s.cc.chans ∧ u.taken = s.taken ∧
        (u.firstPost c).map Post.phase = some .status ∧
        u.cc.statusWrites = s.cc.statusWrites ++ [{ chan := c, addr := d.statusAddr, purpose := .postDetached }] ∧
        u.out = .write d.statusAddr
          (statusBytes d.reqConsumer ((p.slot + 1) % d.cplSlots) .closed none) :: s.out ∧ SameContents s u) ∧
      ∃ u, exec (.completionRecordWriteEnd c false) s = .next u ∧ u.cc.chans = s.cc.chans ∧
        u.taken = (s.cc.posts.filter (fun x => !(x.chan == c && x.detached.isSome))).map
          (fun x => (x.chan, x.slot, x.completion)) ∧ SameContents s u) ∧
    ∀ w, s.cc.statusWrites.find? (fun w => w.chan == c) = some w → w.purpose = .postDetached →
      (∃ u, exec (.statusBlockWriteEnd c true) s = .next u ∧ u.cc.chans = s.cc.chans ∧
        u.taken = (s.cc.posts.eraseP (fun x => x.chan == c)).map (fun x => (x.chan, x.slot, x.completion)) ∧
        u.cc.statusWrites = s.cc.statusWrites.eraseP (fun w => w.chan == c) ∧
        Emitted (.interrupt d.vector) s u ∧
        (∀ q, (s.cc.posts.eraseP (fun x => x.chan == c)).find? (fun x => x.chan == c) = some q → q.phase = .queued →
          u.firstPost c = some { q with phase := .record } ∧
          u.out = .write q.addr (completionBytes q.completion) :: .interrupt d.vector :: s.out) ∧
        SameContents s u) ∧
      ∃ u, exec (.statusBlockWriteEnd c false) s = .next u ∧ u.cc.chans = s.cc.chans ∧
        u.taken = (s.cc.posts.filter (fun x => !(x.chan == c && x.detached.isSome))).map
          (fun x => (x.chan, x.slot, x.completion)) ∧ SameContents s u) ∧
  ∀ (s : State) (c : ChanId) (t : Nat), (s.chan c).holdoffTimer = some t →
    ∃ u, exec (.holdoffExpiry c) s = .next u ∧ (u.chan c).holdoffTimer = none ∧ (u.chan c).pendingInt = 0 ∧
      (∀ d, d ≠ c → u.chan d = s.chan d) ∧ u.taken = s.taken ∧ SameContents { s with now := max s.now t } u ∧
      u.out = (if 0 < (s.chan c).pendingInt then [.interrupt (s.chan c).vector] else []) ++ s.out

/-- A DRAINING channel with nothing in flight becomes CLOSED: its status block shows CLOSED, a pending interrupt is
sent, and the CLOSE_CHANNEL that waited completes, when there is one and channel 0 can take its completion; any other channel
stays as it is. Its completions not yet posted keep what their posts need (log entry 14). -/
def Obligations.DrainEnds : Prop :=
  ∀ (c : ChanId) (s : State),
    (¬ ((s.chan c).state = .draining ∧ (s.chan c).inFlight = 0) → drainCheck c s = s) ∧
    ((s.chan c).state = .draining → (s.chan c).inFlight = 0 →
        (drainCheck c s).chan c = Channel.closed ∧
        (∀ pc, (s.chan c).pendingClose = some pc → c ≠ 0 → (s.chan 0).live = true →
          (drainCheck c s).taken = s.taken ++ [(0, (s.chan 0).cplNext,
            { tag := pc.tag, kindCode := 0x14, status := .ok, deferred := false, alertCode := 0, alertCount := 0,
              seq := 0, stamp := Stamp.zero, detail := c.val + 2 * 2 ^ 8 + pc.cancelled * 2 ^ 32 })] ∧
          (drainCheck c s).chan 0 = { s.chan 0 with cplNext := ((s.chan 0).cplNext + 1) % (s.chan 0).cplSlots,
                                                    inFlight := (s.chan 0).inFlight - 1 }) ∧
        ((s.chan c).pendingClose = none ∨ c = 0 ∨ (s.chan 0).live = false →
          (drainCheck c s).taken = s.taken ∧ (c ≠ 0 → (drainCheck c s).chan 0 = s.chan 0)) ∧
        .write (s.chan c).statusAddr
          (statusBytes (s.chan c).reqConsumer (s.chan c).published .closed (s.chan c).faultReason) ∈
            (drainCheck c s).out ∧
        (0 < (s.chan c).pendingInt → .interrupt (s.chan c).vector ∈ (drainCheck c s).out) ∧
        (∀ p ∈ s.cc.posts, p.chan = c → p.detached = none →
          { p with detached := some { statusAddr := (s.chan c).statusAddr, reqConsumer := (s.chan c).reqConsumer,
                                      cplSlots := (s.chan c).cplSlots, vector := (s.chan c).vector } } ∈
            (drainCheck c s).cc.posts) ∧
        (∀ p ∈ (drainCheck c s).cc.posts, p.chan = c → p.detached ≠ none) ∧
        (∀ d, d ≠ c → d ≠ 0 → (drainCheck c s).chan d = s.chan d) ∧ SameContents s (drainCheck c s))

/-! ### Data requests -/

/-- While the journal is UNFORMATTED, APPEND, SEAL, FLUSH, READ and RELEASE complete NOT_FORMATTED. -/
def Obligations.NotFormattedRefusal : Prop :=
  ∀ (s : State) (c : ChanId) (r : Executing), s.journal.formatted = false →
    (Executes c .append .handed r s → OnlyCompletes c (r.req.refusal .notFormatted 0) s (exec (.append c) s)) ∧
    (Executes c .sealTxn .handed r s → OnlyCompletes c (r.req.refusal .notFormatted 0) s (exec (.sealTxn c) s)) ∧
    (Executes c .flush .handed r s → OnlyCompletes c (r.req.refusal .notFormatted 0) s (exec (.flush c) s)) ∧
    (Executes c .read .handed r s → OnlyCompletes c (r.req.refusal .notFormatted 0) s (exec (.read c) s)) ∧
    (Executes c .release .handed r s → OnlyCompletes c (r.req.refusal .notFormatted 0) s (exec (.release c) s))

/-- An APPEND takes a wait-list record and a staging buffer and its payload read begins; without a record it joins the
reservation waiters, without a buffer the staging waiters, in order of arrival. The head of either wait is handed what
is returned. That a request joins the waiters although a record or a buffer is free, and that the hand-over is an event
after the return, is the model's reading (log entry 11). -/
def Obligations.AppendStages : Prop :=
  ∀ (s : State) (c : ChanId) (r : Executing), s.journal.formatted = true →
    (Executes c .append .handed r s → s.waitRecordFree = true → s.store.reservationWaiters = [] →
      s.staging.buffers.length < 4 → s.staging.waiters = [] →
      ∃ u, exec (.append c) s = .next u ∧ Staged c r s u) ∧
    (Executes c .append .handed r s → s.waitRecordFree = true → s.store.reservationWaiters = [] →
      4 ≤ s.staging.buffers.length ∨ s.staging.waiters ≠ [] →
      ∃ u, exec (.append c) s = .next u ∧ MovedTo c { r with stage := .waitStaging, waitReserved := true } s u ∧
        u.staging = { s.staging with waiters := s.staging.waiters ++ [c] } ∧ SameContents s u ∧
        u.store.reservationWaiters = []) ∧
    (s.waitRecordFree = false ∨ s.store.reservationWaiters ≠ [] →
      ∀ i, (i = .append c ∧ Executes c .append .handed r s) ∨ (i = .sealTxn c ∧ Executes c .sealTxn .handed r s) ∨
          (i = .flush c ∧ Executes c .flush .handed r s) →
        ∃ u, exec i s = .next u ∧ MovedTo c { r with stage := .waitReservation } s u ∧ u.staging = s.staging ∧
          u.store.reservationWaiters = s.store.reservationWaiters ++ [c] ∧ SameContents s u) ∧
    (∀ rest, s.store.reservationWaiters = c :: rest → s.waitRecordFree = true →
      Executes c .append .waitReservation r s → s.staging.buffers.length < 4 → s.staging.waiters = [] →
      ∃ u, exec .waitListReservation s = .next u ∧
        Staged c r { s with store.reservationWaiters := rest } u) ∧
    (∀ rest, s.store.reservationWaiters = c :: rest → s.waitRecordFree = true →
      Executes c .append .waitReservation r s → 4 ≤ s.staging.buffers.length ∨ s.staging.waiters ≠ [] →
      ∃ u, exec .waitListReservation s = .next u ∧
        MovedTo c { r with stage := .waitStaging, waitReserved := true } s u ∧
        u.staging = { s.staging with waiters := s.staging.waiters ++ [c] } ∧ SameContents s u ∧
        u.store.reservationWaiters = rest) ∧
    (∀ rest, s.staging.waiters = c :: rest → Executes c .append .waitStaging r s → r.waitReserved = true →
      s.staging.buffers.length < 4 →
      ∃ u, exec .stagingBufferClaim s = .next u ∧ Staged c r { s with staging.waiters := rest } u)

/-- A standalone APPEND whose payload has been read and whose entry fits in the dirty OPEN segment commits there: the
entry, the record, next seq, last stamp, the idle timer, and its OK completion with seq, timestamp and detail 0. -/
def Obligations.StandaloneCommit : Prop :=
  ∀ (s : State) (c : ChanId) (r : Executing) (bytes : List Byte) (i : SegId),
    Executes c .append .staging r s → (∃ b ∈ s.staging.buffers, b.chan = c) → r.req.hostId = 0 →
    r.req.storedFlag = false → s.budget.exposed = false → s.mediaFault = false →
    s.journal.nextSeq ≠ 2 ^ 48 - 1 → s.openSegment = some i → (s.seg i).dirty = true →
    (s.seg i).fill + footprint r.req.length ≤ 4096 →
    ∃ u h, exec (.payloadReadEnd c (.data bytes)) s = .next u ∧
      Stamped c r.req 0 0 h s ∧ h.crc = entryCrc h.bytes (fitBytes r.req.length bytes) ∧
      Placed i h (fitBytes r.req.length bytes) s u ∧
      Completed c (r.req.completion .ok s.journal.nextSeq s.clock.reading 0) s u ∧
      u.store.idleTimer = (if (s.seg i).fill + footprint r.req.length = 4096 then none
        else some (s.now + s.store.idleDelay * 1000)) ∧
      SameUnits { s with clock.lastStamp := some s.clock.reading, array.shadow := u.array.shadow } u

/-- A SEAL of an OPEN transaction that fits in the dirty OPEN segment commits a seal-only entry with the next index,
removes the transaction's record, and completes OK with serial and index. -/
def Obligations.SealCommit : Prop :=
  ∀ (s : State) (c : ChanId) (r : Executing) (t : TxnRecord) (i : SegId),
    Executes c .sealTxn .handed r s → s.journal.formatted = true → s.waitRecordFree = true →
    s.store.reservationWaiters = [] → r.req.hostId ≠ 0 → s.findTxn c r.req.hostId = some t → t.expired = false →
    r.req.length = 0 → r.req.storedFlag = false → s.budget.exposed = false → s.mediaFault = false →
    s.journal.nextSeq ≠ 2 ^ 48 - 1 → s.openSegment = some i → (s.seg i).dirty = true →
    (s.seg i).fill + 32 ≤ 4096 →
    ∃ u h, exec (.sealTxn c) s = .next u ∧
      Stamped c r.req t.serial t.count h s ∧ h.sealFlag = true ∧ h.crc = entryCrc h.bytes [] ∧
      Placed i h [] s u ∧
      Completed c (r.req.completion .ok s.journal.nextSeq s.clock.reading (t.serial + t.count * 2 ^ 32)) s u ∧
      SameUnits { s with
        clock.lastStamp := some s.clock.reading, array.shadow := u.array.shadow,
        txns.table := s.txns.table.filter (fun x => !(x.chan == c && x.hostId == r.req.hostId)) } u

/-- The outcomes of a commit attempt of an APPEND or a SEAL, standalone or with a key. The tests of R31 and R45, in order,
refuse it; else, when it needs no clean segment or is admitted, it commits, in the OPEN segment or in the one it opens,
and completes or is deferred; what the close of a covered OPEN segment brings about comes before that (log entry 37). An
attempt that the admission test refuses places nothing: the request joins the tail of the held set with the reason BUDGET or
SPACE, or with the oldest record's reason while the held set is not empty, and keeps what it holds; the first record with
reason SPACE posts JOURNAL_FULL. -/
def Obligations.CommitAttempt : Prop :=
  (∀ (s : State) (c : ChanId) (r : Executing) (payload : List Byte) (i : Instr), Attempts c r payload i s →
    (s.chan c).state = .active ∨ ((s.chan c).state = .draining ∧ 1 < (s.chan c).inFlight) →
    (∀ status, Refused c r s status → ∃ u, exec i s = .next u ∧ AttemptRefused c r status s u) ∧
    ((∀ status, ¬ Refused c r s status) →
      (s.needsClean (footprint r.req.length) = true → s.budget.held = [] ∧
        (s.needsNew (footprint r.req.length) = true → s.freeExists = true) ∧ s.dirtyCount + 1 ≤ s.budget.b) →
      ∀ p, p = prepareSegment (footprint r.req.length) s →
        (p.chan c).state = .active ∨ ((p.chan c).state = .draining ∧ 1 < (p.chan c).inFlight) →
        ∃ u, exec i s = .next u ∧ Committed c r.req payload s p u)) ∧
  ∀ (s : State) (c : ChanId) (r : Executing) (payload : List Byte) (i : Instr), Attempts c r payload i s →
    (∀ status, ¬ Refused c r s status) → s.needsClean (footprint r.req.length) = true →
    ∀ reason, AdmissionRefused (footprint r.req.length) reason s →
      ∃ u, exec i s = .next u ∧ AttemptHeld c r payload i reason s u

/-- A grant run (R65): it ends at an empty held set and at an oldest record that is not grantable; a grantable one makes
its attempt, and the run goes on with the new oldest record unless the request is held again. The attempt of a grant is
refused as any attempt, commits when its own checks admit it, or keeps its place with the reason they give (R36). A rise
of B at a measurement, and the end of a job that leaves its segment clean, start a run within the event. -/
def Obligations.GrantRunRule : Prop :=
  (∀ s : State,
    (s.budget.held = [] → grantRun s = s) ∧
    ∀ h rest, s.budget.held = h :: rest →
      (¬ ((h.reason = .budget ∧ s.dirtyCount + 1 ≤ s.budget.b) ∨ (h.reason = .space ∧ s.freeExists = true) ∨
          ∃ i, s.openSegment = some i ∧ (s.seg i).dirty = true ∧ (s.seg i).fill + h.footprint ≤ 4096) →
        grantRun s = s) ∧
      ∀ r, (s.chan h.chan).exec = some r →
        ((h.reason = .budget ∧ s.dirtyCount + 1 ≤ s.budget.b) ∨ (h.reason = .space ∧ s.freeExists = true) ∨
          (∃ i, s.openSegment = some i ∧ (s.seg i).dirty = true ∧ (s.seg i).fill + h.footprint ≤ 4096) →
        ((commitAttempt true h.chan r s).budget.held.head?.map HeldRecord.chan = some h.chan →
          grantRun s = commitAttempt true h.chan r s) ∧
        ((commitAttempt true h.chan r s).budget.held.head?.map HeldRecord.chan ≠ some h.chan →
          grantRun s = grantRun (commitAttempt true h.chan r s))) ∧
        ((s.chan h.chan).state = .active →
          (∀ status, Refused h.chan r s status →
            AttemptRefused h.chan r status s (commitAttempt true h.chan r s)) ∧
          ((∀ status, ¬ Refused h.chan r s status) →
            (s.needsClean (footprint r.req.length) = true →
              (s.needsNew (footprint r.req.length) = true → s.freeExists = true) ∧
                s.dirtyCount + 1 ≤ s.budget.b) →
            Committed h.chan r.req (if r.req.kind = .append then s.payloadOf h.chan else []) s
              (prepareSegment (footprint r.req.length) s) (commitAttempt true h.chan r s)) ∧
          ∀ reason, (∀ status, ¬ Refused h.chan r s status) → s.needsClean (footprint r.req.length) = true →
            (s.needsNew (footprint r.req.length) = true ∧ s.freeExists = false ∧ reason = HoldReason.space) ∨
              ((s.needsNew (footprint r.req.length) = false ∨ s.freeExists = true) ∧
                s.budget.b < s.dirtyCount + 1 ∧ reason = HoldReason.budget) →
            (commitAttempt true h.chan r s).budget.held = s.budget.held.map (fun x =>
              if x.chan = h.chan then { x with reason := reason } else x) ∧
            SameLog s (commitAttempt true h.chan r s) ∧ (commitAttempt true h.chan r s).txns = s.txns ∧
            FullNoted (footprint r.req.length) reason s (commitAttempt true h.chan r s) ∧
            ((commitAttempt true h.chan r s).chan h.chan).exec.map Executing.stage = some .held)) ∧
  (∀ (s : State) (v : Nat), s.budgetLive = true →
    ∃ t, exec (.measurement v) s = .next (settle false (sagWatch v
        (grantAfter (decide (s.budget.b < min (capacity s.monitor.inUse v) s.budget.limit)) t))) ∧
      t.budget.held = s.budget.held ∧ t.budget.b = min (capacity s.monitor.inUse v) s.budget.limit ∧
      SameLog s t) ∧
  ∀ (s : State) (i : SegId) (w : Nat), s.store.op = some (.job i w) → s.working = true →
    (s.seg i).state = .openS ∨ (s.seg i).state = .full → (s.seg i).grewInStore = false →
    ∃ t, exec (.storePassEnd true) s = .next (settle true (countJob (recomputeS (grantRun t)))) ∧
      t.budget.held = s.budget.held ∧ (t.seg i).dirty = false ∧ (∀ j, j ≠ i → t.seg j = s.seg j) ∧
      t.store.op = none ∧ t.txns = s.txns ∧ t.journal.nextSeq = s.journal.nextSeq

/-- ABORT of an OPEN, an EXPIRED and an unknown key. -/
def Obligations.AbortRule : Prop :=
  ∀ (s : State) (c : ChanId) (r : Executing), Executes c .abort .handed r s →
    (s.findTxn c r.req.hostId = none →
      OnlyCompletes c (r.req.refusal .txnUnknown 0) s (exec (.abort c) s)) ∧
    ∀ t, s.findTxn c r.req.hostId = some t →
      (t.expired = true →
        ∃ u, exec (.abort c) s = .next u ∧ Completed c (r.req.refusal .txnExpired 0) s u ∧ SameLog s u ∧
          u.txns = { s.txns with
            table := s.txns.table.filter (fun x => !(x.chan == c && x.hostId == r.req.hostId)) } ∧
          SameUnits { s with txns := u.txns } u) ∧
      (t.expired = false →
        ∃ u, exec (.abort c) s = .next u ∧
          Completed c (r.req.completion .ok t.lastSeq Stamp.zero t.count) s u ∧ Voided t s u ∧
          u.txns = { s.txns with
            table := s.txns.table.filter (fun x => !(x.chan == c && x.hostId == r.req.hostId)) } ∧
          SameSegmentsBut (fun _ => False) s u ∧ u.journal.chain = s.journal.chain ∧
          u.journal.nextSeq = s.journal.nextSeq ∧ u.journal.head = s.journal.head ∧
          SameUnits { s with txns := u.txns, array.shadow := u.array.shadow } u)

/-- At the deadline of an OPEN record it becomes EXPIRED and its entries are VOID; a held request that carries the key
completes TXN_EXPIRED and the record is removed. When that was the oldest held record, a grant run follows within the
event, after the completion (the model's place for it, log entry 33). -/
def Obligations.TxnExpiryRule : Prop :=
  ∀ (s : State) (c : ChanId) (hostId d : Nat) (t : TxnRecord),
    s.findTxn c hostId = some t → t.deadline = some d → t.expired = false → s.working = true →
    (t.chan = c ∧ t.hostId = hostId) ∧
    ((∀ r, (s.chan c).exec = some r → ¬ (r.stage = .held ∧ r.req.hostId = hostId)) →
      ∃ u, exec (.txnExpiry c hostId) s = .next u ∧ Voided t s u ∧
        u.txns = { s.txns with table := s.txns.table.map (fun x =>
          if x.chan == c && x.hostId == hostId then { x with expired := true } else x) } ∧
        SameSegmentsBut (fun _ => False) s u ∧ u.journal.chain = s.journal.chain ∧
        u.journal.nextSeq = s.journal.nextSeq ∧ u.journal.head = s.journal.head ∧
        u.journal.format = s.journal.format ∧ u.journal.formatted = s.journal.formatted ∧
        u.journal.full = s.journal.full ∧ u.taken = s.taken ∧ SameChannelsBut (fun _ => False) s u ∧
        u.staging = s.staging ∧ u.budget = s.budget ∧ u.journal.readBuffers = s.journal.readBuffers ∧
        u.journal.readWaiters = s.journal.readWaiters ∧
        u.store.reservationWaiters = s.store.reservationWaiters ∧
        SameUnits { s with txns := u.txns, array.shadow := u.array.shadow, now := max s.now d } u) ∧
    ∀ r, Executes c r.req.kind .held r s → r.req.hostId = hostId →
      ∃ u, exec (.txnExpiry c hostId) s = .next (settle false (grantAfter (s.oldestIs c) u)) ∧ Voided t s u ∧
        Completed c (r.req.refusal .txnExpired 0) s u ∧ u.cc.fetch = s.cc.fetch ∧
        u.txns = { s.txns with
          table := s.txns.table.filter (fun x => !(x.chan == c && x.hostId == hostId)) } ∧
        SameSegmentsBut (fun _ => False) s u ∧ u.journal.chain = s.journal.chain ∧
        u.journal.nextSeq = s.journal.nextSeq ∧ u.journal.head = s.journal.head ∧
        u.journal.format = s.journal.format ∧ u.journal.formatted = s.journal.formatted ∧
        SameUnits { s with txns := u.txns, array.shadow := u.array.shadow, now := max s.now d } u

/-- What a READ's lookup finds, and its refusals, in the order of its tests: RELEASED, RANGE, ABSENT, DISCARDED, NOT_SEALED,
TOO_SMALL, when the READ is taken and when it is handed a returned buffer. The lookup finds in the segment of the chain
whose range holds the sequence number the first header of the segment's walk that carries it; an entry that a commit has
placed (`Placed`, of which `Committed` speaks) is found at its sequence number, where it stands. -/
def Obligations.ReadRefusals : Prop :=
  (∀ (s : State) (n : Nat) (i : SegId) (off : Nat) (h : Header), s.lookup n = some (i, off, h) →
    i ∈ s.journal.chain ∧ (∃ a b, (s.seg i).firstSeq = some a ∧ (s.seg i).lastSeq = some b ∧ a ≤ n ∧ n ≤ b) ∧
      off + 32 ≤ (s.seg i).fill ∧ h = parseHeader (s.journal.sram.readBytes (segBase i + off) 32) ∧ h.seq = n) ∧
  (∀ (s u : State) (i : SegId) (h : Header) (payload : List Byte), Placed i h payload s u → h.Fits →
    i ∈ s.journal.chain → s.Filled i → (s.seg i).fill + footprint h.length ≤ 4096 →
    (∀ a ∈ (s.seg i).firstSeq, a ≤ h.seq) → (∀ e ∈ s.entriesOf i, e.2.seq ≠ h.seq) →
    (∀ j ∈ s.journal.chain, j ≠ i → (s.seg j).holdsSeq h.seq = false) →
    u.Filled i ∧ u.entriesOf i = s.entriesOf i ++ [((s.seg i).fill, h)] ∧
      u.lookup h.seq = some (i, (s.seg i).fill, h)) ∧
  ∀ (s : State) (c : ChanId) (r : Executing) (o : Result), s.journal.formatted = true →
    s.journal.readBuffers.length < 2 →
    (Executes c .read .handed r s ∧ s.journal.readWaiters = [] ∧ o = exec (.read c) s) ∨
      (Executes c .read .waitReadBuffer r s ∧ s.journal.readWaiters.head? = some c ∧ o = exec .readBufferClaim s) →
    (r.req.seq ≤ s.journal.head →
      OnlyCompletes c (r.req.completion .released r.req.seq Stamp.zero 0) s o) ∧
    (s.journal.head < r.req.seq → s.journal.nextSeq ≤ r.req.seq →
      OnlyCompletes c (r.req.completion .range r.req.seq Stamp.zero 0) s o) ∧
    (s.journal.head < r.req.seq → r.req.seq < s.journal.nextSeq →
      (s.lookup r.req.seq = none →
        OnlyCompletes c (r.req.completion .absent r.req.seq Stamp.zero 0) s o) ∧
      ∀ i off h, s.lookup r.req.seq = some (i, off, h) →
        (h.stateByte = 2 →
          OnlyCompletes c (r.req.completion .discarded r.req.seq Stamp.zero 0) s o) ∧
        (h.stateByte ≠ 2 → h.serial ≠ 0 → (∃ t ∈ s.txns.table, t.serial = h.serial) →
          OnlyCompletes c (r.req.completion .notSealed r.req.seq Stamp.zero 0) s o) ∧
        (h.stateByte ≠ 2 → (h.serial = 0 ∨ ∀ t ∈ s.txns.table, t.serial ≠ h.serial) →
          r.req.bufLength < 32 + h.length →
          OnlyCompletes c (r.req.completion .tooSmall r.req.seq Stamp.zero (32 + h.length)) s o))

/-- A READ that passes every test copies header and payload into a read buffer and writes them to the host; without a
free buffer it waits, and a returned buffer is handed to the oldest waiting READ. That a READ waits behind waiting READs
while a buffer is free, and that the hand-over is an event after the return, is the model's reading (log entry 11). -/
def Obligations.ReadCopies : Prop :=
  ∀ (s : State) (c : ChanId) (r : Executing), s.journal.formatted = true →
    (∀ i off h, s.journal.head < r.req.seq → r.req.seq < s.journal.nextSeq →
      s.lookup r.req.seq = some (i, off, h) → h.stateByte ≠ 2 →
      (h.serial = 0 ∨ ∀ t ∈ s.txns.table, t.serial ≠ h.serial) → 32 + h.length ≤ r.req.bufLength →
      s.journal.readBuffers.length < 2 →
      (Executes c .read .handed r s → s.journal.readWaiters = [] →
        ∃ u, exec (.read c) s = .next u ∧ SnapshotTaken c r i off h s u) ∧
      (∀ rest, Executes c .read .waitReadBuffer r s → s.journal.readWaiters = c :: rest →
        ∃ u, exec .readBufferClaim s = .next u ∧
          SnapshotTaken c r i off h { s with journal.readWaiters := rest } u ∧
          u.journal.readWaiters = rest)) ∧
    (Executes c .read .handed r s → 2 ≤ s.journal.readBuffers.length ∨ s.journal.readWaiters ≠ [] →
      ∃ u, exec (.read c) s = .next u ∧ MovedTo c { r with stage := .waitReadBuffer } s u ∧
        u.journal.readWaiters = s.journal.readWaiters ++ [c] ∧
        u.journal.readBuffers = s.journal.readBuffers ∧ SameContents s u)

/-- The end of a payload read with a host read error, and the end of a READ's host write: HOST_READ_ERROR, OK with seq,
timestamp and length, or HOST_WRITE_ERROR, whose timestamp zero is the model's choice (log entry 45); buffers are returned and
no channel faults. -/
def Obligations.DataTransfersEnd : Prop :=
  ∀ (s : State) (c : ChanId) (r : Executing),
    (Executes c .append .staging r s →
      OnlyCompletes c (r.req.refusal .hostReadError 0) s (exec (.payloadReadEnd c .error) s)) ∧
    ∀ (seq n : Nat) (stamp : Stamp), Executes c .read (.readWrite seq stamp n) r s →
      OnlyCompletes c (r.req.completion .ok seq stamp n) s (exec (.readDataWriteEnd c true) s) ∧
      OnlyCompletes c (r.req.completion .hostWriteError r.req.seq Stamp.zero 0) s (exec (.readDataWriteEnd c false) s)

/-- FLUSH with a wait-list record, taken at once or handed over after a wait: NV_FAULT while a segment is FAILED, OK at once
when S has reached next seq - 1, else a waiting record with that target, and the dirty OPEN segment in which the target lies
is queued. -/
def Obligations.FlushRule : Prop :=
  ∀ (s : State) (c : ChanId) (r : Executing) (o : Result), s.journal.formatted = true → s.waitRecordFree = true →
    (Executes c .flush .handed r s ∧ s.store.reservationWaiters = [] ∧ o = exec (.flush c) s) ∨
      (Executes c .flush .waitReservation r s ∧ s.store.reservationWaiters.head? = some c ∧
        o = exec .waitListReservation s) →
    (s.mediaFault = true → OnlyCompletes c (r.req.refusal .nvFault 0) s o) ∧
    (s.mediaFault = false → s.journal.nextSeq - 1 ≤ s.store.storedThrough →
      OnlyCompletes c (r.req.completion .ok (s.journal.nextSeq - 1) Stamp.zero s.store.storedThrough) s o) ∧
    (s.mediaFault = false → s.store.storedThrough < s.journal.nextSeq - 1 →
      ∃ u, o = .next u ∧ Deferred c s u ∧
        (∀ i a b, s.openSegment = some i → (s.seg i).dirty = true → (s.seg i).firstSeq = some a →
          (s.seg i).lastSeq = some b → a ≤ s.journal.nextSeq - 1 → s.journal.nextSeq - 1 ≤ b →
          i ∈ u.store.queue ∨ (u.seg i).inStore = true) ∧
        SameContents { s with store.waiting := s.store.waiting ++
          [{ chan := c, tag := r.req.tag, kind := .flush, target := s.journal.nextSeq - 1,
             seq := s.journal.nextSeq - 1, stamp := Stamp.zero, reqKind := .flush, serial := 0, index := 0 }] } u)

/-! ### Release, allocation and FORMAT -/

/-- The tests of RELEASE that change nothing: RANGE, at or below head, TXN_OPEN_IN_RANGE with the lowest first seq. -/
def Obligations.ReleaseTests : Prop :=
  ∀ (s : State) (c : ChanId) (r : Executing), Executes c .release .handed r s → s.journal.formatted = true →
    (s.journal.nextSeq ≤ r.req.seq →
      OnlyCompletes c (r.req.completion .range s.journal.head Stamp.zero (s.journal.nextSeq - 1)) s
        (exec (.release c) s)) ∧
    (r.req.seq < s.journal.nextSeq → r.req.seq ≤ s.journal.head →
      OnlyCompletes c (r.req.completion .ok s.journal.head Stamp.zero 0) s (exec (.release c) s)) ∧
    (∀ t ∈ s.txns.table, r.req.seq < s.journal.nextSeq → s.journal.head < r.req.seq → t.expired = false →
      t.firstSeq ≤ r.req.seq → (∀ x ∈ s.txns.table, x.expired = false → t.firstSeq ≤ x.firstSeq) →
      OnlyCompletes c (r.req.completion .txnOpenInRange s.journal.head Stamp.zero t.firstSeq) s
        (exec (.release c) s))

/-- An applied RELEASE, with no request held: head, the covered members by their states, the chain, S, the metadata
report, the SEGMENT_RETIRED alert of each member retired, the exposure state with its alert when D has fallen, and the
completion with its two counts; next seq, the format number and the transactions are the same. The waiting records that the
falls of D and the rise of S satisfy complete in order. That the RELEASE's own completion takes its slot after the others of
the event, and that each fall of D is taken with the D that the release leaves, are the model's readings (log entries 29 and
18); that the alerts of its retirements come in chain order is the model's choice (log entry 34). -/
def Obligations.ReleaseApplied : Prop :=
  ∀ (s : State) (c : ChanId) (r : Executing), Executes c .release .handed r s → s.journal.formatted = true →
    r.req.seq < s.journal.nextSeq → s.journal.head < r.req.seq → s.budget.held = [] →
    (∀ t ∈ s.txns.table, t.expired = false → r.req.seq < t.firstSeq) →
    ∃ u, exec (.release c) s = .next u ∧ u.journal.head = r.req.seq ∧ u.journal.nextSeq = s.journal.nextSeq ∧
      u.journal.format = s.journal.format ∧ u.journal.sram = s.journal.sram ∧ u.txns = s.txns ∧
      (∀ i, (s.afterRelease r.req.seq i).SameLog (u.seg i)) ∧
      u.journal.chain = s.journal.chain.filter (fun i =>
        !((s.coveredMembers r.req.seq).contains i && (s.seg i).leavesChain)) ∧
      u.store.storedThrough = u.storedThroughNow ∧
      (u.store.metadataDirty = true ∨ ∃ slot x k, u.store.op = some (.checkpoint slot x k)) ∧
      (u.chan c).exec = none ∧ u.clock = s.clock ∧ u.monitor = s.monitor ∧
      ∃ more slot, u.taken = s.taken ++ more ++ [(c, slot, r.req.completion .ok r.req.seq Stamp.zero
        ((s.coveredMembers r.req.seq).countP (fun i => (s.seg i).state == .full) +
          (s.coveredMembers r.req.seq).countP (fun i => (s.seg i).state == .failed) * 2 ^ 16))] ∧
      (s.cc.alertWaiters = [] →
        RetiredAlerts ((s.coveredMembers r.req.seq).filter (fun i => (s.seg i).state == .failed)) s u) ∧
      (∀ i tag rest, (s.coveredMembers r.req.seq).filter (fun i => (s.seg i).state == .failed) = [i] →
        s.cc.alertWaiters = tag :: rest → (s.chan 0).state = .active → s.budget.exposed = false →
        s.dirtyCount ≤ s.budget.b →
        u.cc.alertWaiters = rest ∧
        (0, { tag := tag, kindCode := 0x17, status := .ok, deferred := true, alertCode := 4, alertCount := 1,
              seq := (s.seg i).lastSeq.getD 0, stamp := s.clock.reading,
              detail := i.val + (s.seg i).firstSeq.getD 0 * 2 ^ 16 }) ∈ u.takenBy) ∧
      (s.budgetLive = true → s.cc.alertWaiters = [] →
        ExposureFollows (decide (u.dirtyCount < s.dirtyCount)) u.dirtyCount s u ∧ u.budget.b = s.budget.b ∧
        Answers (s.budget.exposed && decide (u.dirtyCount < s.dirtyCount) && decide (u.dirtyCount ≤ s.budget.b))
          [(c, r.req.completion .ok r.req.seq Stamp.zero
            ((s.coveredMembers r.req.seq).countP (fun i => (s.seg i).state == .full) +
              (s.coveredMembers r.req.seq).countP (fun i => (s.seg i).state == .failed) * 2 ^ 16))] s u)

/-- The segment a commit opens: the lowest FREE one above the tail, wrapping past 511 and ending at the tail itself; with
an empty chain the search begins at 0. A commit that needs a new segment searches from the chain's tail. -/
def Obligations.AllocationOrder : Prop :=
  ∀ (s : State),
    (∀ j, s.allocate none = some j ↔
      (s.seg j).state = .free ∧ ∀ i, (s.seg i).state = .free → j ≤ i) ∧
    (∀ t j, s.allocate (some t) = some j ↔
      (s.seg j).state = .free ∧
        ((t < j ∧ ∀ i, (s.seg i).state = .free → t < i → j ≤ i) ∨
         (j ≤ t ∧ (∀ i, (s.seg i).state = .free → i ≤ t) ∧ ∀ i, (s.seg i).state = .free → j ≤ i))) ∧
    (∀ tail, (∃ i, (s.seg i).state = .free) → ∃ j, s.allocate tail = some j) ∧
    (∀ fp, s.needsNew fp = true → prepareSegment fp s = openNew s.journal.chain.getLast? (closeOpen s)) ∧
    (∀ fp, s.needsNew fp = false → prepareSegment fp s = s) ∧
    (∀ tail j, s.allocate tail = some j →
      (openNew tail s).journal.chain = s.journal.chain ++ [j] ∧ ((openNew tail s).seg j).state = .openS)

/-- Opening a segment zero-fills its 4096 bytes and no others, sets its record, and adds it at the chain's tail. The commit
that opens it closes the OPEN segment first: that becomes FULL and is queued, or, covered by a release, is freed or
becomes FREEING; its idle timer stops. With a dirty segment freed S is recomputed, and the waiting records that a rise of it
covers complete OK; in every other case S and the wait list stay as they are. That this stands before the commit's own
completion is the model's choice (log entry 37). -/
def Obligations.SegmentOpening : Prop :=
  (∀ (s : State) (i : SegId), s.openSegment = some i →
    (closeOpen s).store.idleTimer = none ∧ (∀ j, j ≠ i → (closeOpen s).seg j = s.seg j) ∧
    (closeOpen s).journal.sram = s.journal.sram ∧
    ((s.seg i).coveredBy s.journal.head = false ∨ (s.seg i).inStore = true ∨ (s.seg i).dirty = false →
      SameUnits s (closeOpen s) ∧ (closeOpen s).taken = s.taken ∧ (closeOpen s).cc.chans = s.cc.chans) ∧
    ((s.seg i).coveredBy s.journal.head = false →
      (closeOpen s).seg i = { s.seg i with state := .full } ∧ (closeOpen s).journal.chain = s.journal.chain ∧
      ((s.seg i).dirty = true → (s.seg i).inStore = true ∨ i ∈ (closeOpen s).store.queue)) ∧
    ((s.seg i).coveredBy s.journal.head = true → (s.seg i).inStore = true →
      (closeOpen s).seg i = { s.seg i with state := .freeing } ∧ (closeOpen s).journal.chain = s.journal.chain) ∧
    ((s.seg i).coveredBy s.journal.head = true → (s.seg i).inStore = false →
      (closeOpen s).seg i = Segment.freeForm ∧ i ∉ (closeOpen s).store.queue ∧
      (closeOpen s).journal.chain = s.journal.chain.filter (fun j => j != i) ∧
      ((s.seg i).dirty = true →
        (closeOpen s).store.storedThrough = (closeOpen s).storedThroughNow ∧ Answers false [] s (closeOpen s) ∧
        SameUnits { s with
          store.storedThrough := (closeOpen s).store.storedThrough,
          store.waiting := (closeOpen s).store.waiting } (closeOpen s)))) ∧
  ∀ (s : State) (tail : Option SegId) (j : SegId), s.allocate tail = some j →
    (∀ a, segBase j ≤ a → a < segBase j + 4096 → (openNew tail s).journal.sram.read a = 0) ∧
    SramSameOutside (segBase j) 4096 s (openNew tail s) ∧
    (openNew tail s).seg j = { Segment.freeForm with state := .openS } ∧
    (∀ i, i ≠ j → (openNew tail s).seg i = s.seg i) ∧
    (openNew tail s).journal.chain = s.journal.chain ++ [j] ∧ SameUnits s (openNew tail s)

/-- FORMAT waits when every data channel is CLOSED and completes BUSY otherwise. That it only waits, and its reset event is a
command of its own also when nothing is in flight, is the model's reading (log entry 11). -/
def Obligations.FormatAcceptance : Prop :=
  ∀ (s : State) (r : Executing), Executes 0 .format .handed r s →
    ((∀ c, c ≠ 0 → (s.chan c).state = .closed) →
      ∃ u, exec .format s = .next u ∧ MovedTo 0 { r with stage := .formatWait } s u ∧ SameContents s u) ∧
    ((∃ c, c ≠ 0 ∧ (s.chan c).state ≠ .closed) →
      OnlyCompletes 0 (r.req.refusal .busy 0) s (exec .format s))

/-- The reset event of FORMAT, with no request held: an empty FORMATTED journal with the next format number, retired
segments kept and failed ones retired with their SEGMENT_RETIRED alerts, D 0 and the exposure at its end, and its checkpoint
write begun. That the alerts come in ascending segment number is the model's choice (log entry 34). -/
def Obligations.FormatResetEffect : Prop :=
  ∀ (s : State) (r : Executing), Executes 0 .format .formatWait r s → s.working = true → s.store.op = none →
    s.budget.held = [] →
    ∃ u x, exec .formatReset s = .next u ∧ u.journal.format = s.journal.format + 1 ∧ u.journal.head = 0 ∧
      u.journal.nextSeq = 1 ∧ u.journal.formatted = true ∧ u.journal.chain = [] ∧ u.journal.full = false ∧
      u.store.storedThrough = 0 ∧ u.store.queue = [] ∧ u.store.idleTimer = none ∧ u.txns.nextSerial = 1 ∧
      (∀ i, u.seg i = if (s.seg i).state = .failed then { Segment.freeForm with state := .retired }
        else if (s.seg i).state = .retired then s.seg i else Segment.freeForm) ∧
      u.journal.sram = s.journal.sram ∧ (u.chan 0).exec = some { r with stage := .formatCheckpoint } ∧
      u.store.op = some (.checkpoint s.nextSlot.1 x 0) ∧ x.generation = s.nextSlot.2 ∧
      x.format = s.journal.format + 1 ∧ x.head = 0 ∧ x.nextSeq = 1 ∧ x.nextSerial = 1 ∧ x.failed = [] ∧
      x.emergency = false ∧ u.clock = { s.clock with transfer := none } ∧ u.array = s.array ∧
      (∀ i, i ∈ x.retired ↔ (s.seg i).state = .failed ∨ (s.seg i).state = .retired) ∧
      x.lastStamp = s.clock.lastStamp ∧ x.learned = s.monitor.learned ∧
      (s.cc.alertWaiters = [] →
        RetiredAlerts ((List.finRange 512).filter (fun i => (s.seg i).state == .failed)) s u) ∧
      ((∀ i, (s.seg i).state = .retired → (s.seg i).dirty = false) →
        u.dirtyCount = 0 ∧ u.budget.exposed = false ∧
        (s.budget.exposed = true → s.cc.alertWaiters = [] →
          ∃ a ∈ u.cc.alerts, a.kind = .exposureEnded ∧ a.seqValue = 0 ∧ a.detail = s.budget.b * 2 ^ 16))

/-! ### Control requests -/

/-- OPEN_CHANNEL: the named channel takes its parameters and becomes ACTIVE, or the request completes BUSY with the
channel's state. The parameters stand at the offsets of section 11.1; every index, count and flag of the channel is 0 or
absent. -/
def Obligations.OpenChannelRule : Prop :=
  (∀ (b : List Byte) (r : Request), validateRecord 0 b = .passed r → r.kind = .openChannel →
    r.tag.toNat = fieldAt b 2 2 ∧ r.openTarget.val = fieldAt b 56 1 % 2 ^ 4 ∧
    r.openedChannel =
      { state := .active,
        setup := some { reqAddr := BitVec.ofNat 64 (fieldAt b 32 8), reqSlots := 2 ^ (fieldAt b 58 1 % 2 ^ 4),
                        cplAddr := BitVec.ofNat 64 (fieldAt b 40 8), cplSlots := 2 ^ (fieldAt b 58 1 / 2 ^ 4),
                        statusAddr := BitVec.ofNat 64 (fieldAt b 48 8) },
        vector := fieldAt b 56 1 / 2 ^ 4, threshold := fieldAt b 57 1, holdoff := fieldAt b 59 2,
        ageLimit := fieldAt b 61 3, reqConsumer := 0, hostProducer := 0, cplNext := 0, published := 0,
        hostConsumer := 0, inFlight := 0, exec := none, pendingInt := 0, holdoffTimer := none, faultReason := none,
        pendingClose := none }) ∧
  ∀ (s : State) (r : Executing), Executes 0 .openChannel .handed r s → r.req.openTarget ≠ 0 →
    ((s.chan r.req.openTarget).state = .closed →
      ∃ u, exec .openChannel s = .next u ∧
        u.taken = s.taken ++ [(0, (s.chan 0).cplNext, r.req.completion .ok 0 Stamp.zero r.req.openTarget.val)] ∧
        u.chan r.req.openTarget = r.req.openedChannel ∧ r.req.openedChannel.state = .active ∧
        u.chan 0 = { s.chan 0 with exec := none, cplNext := ((s.chan 0).cplNext + 1) % (s.chan 0).cplSlots,
                                   inFlight := (s.chan 0).inFlight - 1 + fetchBegun 0 s u } ∧
        SameChannelsBut (fun d => d = 0 ∨ d = r.req.openTarget) s u ∧ SameContents s u ∧
        u.cc.statusWrites = s.cc.statusWrites ++
          [{ chan := r.req.openTarget, addr := r.req.openedChannel.statusAddr, purpose := .becameActive }] ∧
        .write r.req.openedChannel.statusAddr (statusBytes 0 0 .active none) ∈ u.out) ∧
    ((s.chan r.req.openTarget).state ≠ .closed →
      OnlyCompletes 0 (r.req.completion .busy 0 Stamp.zero (s.chan r.req.openTarget).state.code) s
        (exec .openChannel s))

/-- CLOSE_CHANNEL by the named channel's state. CLOSED and FAULTED: OK at once. DRAINING: BUSY, or with FORCE the waiting
records complete CANCELLED, the drain that this may end closes the channel and answers the close that waited for it, and
this request completes OK. ACTIVE: the channel enters DRAINING, its transactions end, a held request and with FORCE the
waiting records complete CANCELLED, and with nothing left in flight the channel closes and the request completes; when the
oldest held record left, a grant run follows. The order of these completions, that of the records CANCELLED among them, and
the place of the grant run are the model's choices (log entries 33 and 36). -/
def Obligations.CloseChannelRule : Prop :=
  ∀ (s : State) (r : Executing) (d : ChanId), Executes 0 .closeChannel .handed r s → r.req.closeTarget = d → d ≠ 0 →
    ((s.chan d).state = .closed →
      OnlyCompletes 0 (r.req.completion .ok 0 Stamp.zero d.val) s (exec .closeChannel s)) ∧
    ((s.chan d).state = .draining → r.req.forceFlag = false →
      OnlyCompletes 0 (r.req.completion .busy 0 Stamp.zero d.val) s (exec .closeChannel s)) ∧
    ((s.chan d).state = .draining → r.req.forceFlag = true →
      ∃ u, exec .closeChannel s = .next u ∧
        u.store.waiting = s.store.waiting.filter (fun w => w.chan != d) ∧ (u.chan 0).exec = none ∧
        ReturnedFor (fun x => x == 0) s u ∧ SameChannelsBut (fun x => x = 0 ∨ x = d) s u ∧ SameLog s u ∧
        SameUnits { s with store.waiting := u.store.waiting } u ∧
        ((s.waitersOn d).length < (s.chan d).inFlight →
          u.chan d = (s.chan d).answered (s.waitersOn d).length ∧
          u.chan 0 = { ((s.chan 0).answered 1) with
            exec := none, inFlight := (s.chan 0).inFlight - 1 + fetchBegun 0 s u } ∧
          u.takenBy = s.takenBy ++ endings .cancelled s.store.storedThrough (s.waitersOn d) ++
            [(0, r.req.completion .ok 0 Stamp.zero (d.val + 2 * 2 ^ 8 + (s.waitersOn d).length * 2 ^ 32))]) ∧
        (∀ pc, (s.chan d).pendingClose = some pc → 0 < (s.chan d).inFlight →
          (s.waitersOn d).length = (s.chan d).inFlight →
          u.chan d = Channel.closed ∧
          u.chan 0 = { ((s.chan 0).answered 2) with
            exec := none, inFlight := (s.chan 0).inFlight - 1 - 1 + fetchBegun 0 s u } ∧
          u.takenBy = s.takenBy ++ endings .cancelled s.store.storedThrough (s.waitersOn d) ++
            [(0, drainedClose d pc),
             (0, r.req.completion .ok 0 Stamp.zero (d.val + 2 * 2 ^ 8 + (s.waitersOn d).length * 2 ^ 32))])) ∧
    ((s.chan d).state = .faulted →
      ∃ u, exec .closeChannel s = .next u ∧ u.chan d = Channel.closed ∧
        u.chan 0 = { ((s.chan 0).answered 1) with
          exec := none, inFlight := (s.chan 0).inFlight - 1 + fetchBegun 0 s u } ∧
        SameChannelsBut (fun x => x = 0 ∨ x = d) s u ∧ SameContents s u ∧
        u.taken = s.taken ++ [(0, (s.chan 0).cplNext, r.req.completion .ok 0 Stamp.zero
          (d.val + 3 * 2 ^ 8 + reasonCode (s.chan d).faultReason * 2 ^ 16))]) ∧
    ((s.chan d).state = .active →
      ∃ u waiters, waiters = (if r.req.forceFlag then s.waitersOn d else []) ∧
        exec .closeChannel s = .next (settle false (grantAfter (s.oldestIs d) u)) ∧
        VoidedAll (fun x => x.chan == d) s u ∧
        u.txns = { s.txns with table := s.txns.table.filter (fun x => !(x.chan == d)) } ∧
        u.store.waiting = s.store.waiting.filter (fun w => !(r.req.forceFlag && w.chan == d)) ∧
        ReturnedFor (fun x => x == 0 || (x == d && !(s.heldAnswer d).isEmpty)) s u ∧
        u.cc.fetch = s.cc.fetch ∧ (∀ x, x ≠ 0 → x ≠ d → u.chan x = s.chan x) ∧
        SameSegmentsBut (fun _ => False) s u ∧ u.journal.chain = s.journal.chain ∧
        u.journal.nextSeq = s.journal.nextSeq ∧ u.journal.head = s.journal.head ∧
        u.journal.format = s.journal.format ∧ u.journal.formatted = s.journal.formatted ∧
        SameUnits { s with
          txns := u.txns, array.shadow := u.array.shadow, store.waiting := u.store.waiting } u ∧
        ((s.heldAnswer d).length + waiters.length < (s.chan d).inFlight →
          u.chan d = { ((s.chan d).answered ((s.heldAnswer d).length + waiters.length)) with
            state := .draining, exec := if (s.heldAnswer d).isEmpty then (s.chan d).exec else none,
            pendingClose := some { tag := r.req.tag, cancelled := waiters.length } } ∧
          u.chan 0 = { s.chan 0 with exec := none } ∧
          u.takenBy = s.takenBy ++ s.heldAnswer d ++ endings .cancelled s.store.storedThrough waiters) ∧
        ((s.heldAnswer d).length + waiters.length = (s.chan d).inFlight →
          u.chan d = Channel.closed ∧ u.chan 0 = { ((s.chan 0).answered 1) with exec := none } ∧
          u.takenBy = s.takenBy ++ s.heldAnswer d ++ endings .cancelled s.store.storedThrough waiters ++
            [(0, drainedClose d { tag := r.req.tag, cancelled := waiters.length })]))

/-- CONFIGURE: BUSY and nothing applied when it selects a channel setting of a channel that is not ACTIVE; else every
selected setting, B and its consequences, the exposure state with its alert among them, and the completion with B, L and H,
which takes its slot after those that the settings bring about (the model's choice, log entry 29). Held requests are none
here. -/
def Obligations.ConfigureRule : Prop :=
  ∀ (s : State) (r : Executing), Executes 0 .configure .handed r s →
    (r.req.namesChannel = true → (s.chan r.req.configureTarget).state ≠ .active →
      OnlyCompletes 0 (r.req.refusal .busy 0) s (exec .configure s)) ∧
    ((r.req.namesChannel = true → (s.chan r.req.configureTarget).state = .active ∧ r.req.configureTarget ≠ 0) →
      s.budget.held = [] → s.budgetLive = true →
      ∃ u, exec .configure s = .next u ∧
        u.budget.limit = (if r.req.selects 0 then r.req.param 34 2 else s.budget.limit) ∧
        u.budget.headroom = (if r.req.selects 1 then r.req.param 36 1 else s.budget.headroom) ∧
        u.store.idleDelay = (if r.req.selects 2 then r.req.param 40 2 else s.store.idleDelay) ∧
        u.store.idleTimer = s.store.idleTimer ∧
        u.budget.b = (if r.req.selects 0 then min s.monitor.c u.budget.limit else s.budget.b) ∧
        (r.req.selects 0 = true → u.budget.exposed = decide (u.budget.b < s.dirtyCount)) ∧
        (r.req.selects 0 = false → u.budget.exposed = s.budget.exposed) ∧
        (r.req.namesChannel = true →
          (u.chan r.req.configureTarget).vector =
            (if r.req.selects 3 then r.req.param 37 1 else (s.chan r.req.configureTarget).vector) ∧
          (u.chan r.req.configureTarget).threshold =
            (if r.req.selects 4 then r.req.param 38 1 else (s.chan r.req.configureTarget).threshold) ∧
          (u.chan r.req.configureTarget).holdoff =
            (if r.req.selects 5 then r.req.param 42 2 else (s.chan r.req.configureTarget).holdoff) ∧
          (u.chan r.req.configureTarget).ageLimit =
            (if r.req.selects 6 then r.req.param 44 4 else (s.chan r.req.configureTarget).ageLimit) ∧
          (u.chan r.req.configureTarget).holdoffTimer = (s.chan r.req.configureTarget).holdoffTimer) ∧
        SameLog s u ∧ u.txns = s.txns ∧ u.clock = s.clock ∧ u.store.storedThrough = s.store.storedThrough ∧
        (s.cc.alertWaiters = [] →
          ExposureFollows (r.req.selects 0) s.dirtyCount s u ∧
          Answers (r.req.selects 0 && s.budget.exposed && decide (s.dirtyCount ≤ u.budget.b))
            [(0, r.req.completion .ok 0 Stamp.zero
              (u.budget.b + u.budget.limit * 2 ^ 16 + u.budget.headroom * 2 ^ 32))] s u) ∧
        ∃ more slot, u.taken = s.taken ++ more ++ [(0, slot, r.req.completion .ok 0 Stamp.zero
          (u.budget.b + u.budget.limit * 2 ^ 16 + u.budget.headroom * 2 ^ 32))])

/-- QUERY and RECOVERY_REPORT: TOO_SMALL with the length needed, else the write of 128 or 256 bytes begins; at its end
the request completes OK with what the snapshot held, or HOST_WRITE_ERROR. -/
def Obligations.HostBufferReports : Prop :=
  ∀ (s : State) (r : Executing),
    (Executes 0 .query .handed r s → r.req.bufLength < 128 →
      OnlyCompletes 0 (r.req.completion .tooSmall 0 Stamp.zero 128) s (exec .query s)) ∧
    (Executes 0 .query .handed r s → 128 ≤ r.req.bufLength →
      ∃ u, exec .query s = .next u ∧
        MovedTo 0 { r with stage := .snapshotWrite s.store.storedThrough s.clock.reading } s u ∧
        Emitted (.write r.req.addr s.snapshotBytes) s u ∧ SameContents s u) ∧
    (∀ through reading, Executes 0 .query (.snapshotWrite through reading) r s →
      OnlyCompletes 0 (r.req.completion .ok through reading 128) s (exec (.snapshotWriteEnd true) s) ∧
      OnlyCompletes 0 (r.req.refusal .hostWriteError 0) s (exec (.snapshotWriteEnd false) s)) ∧
    (Executes 0 .recoveryReport .handed r s → r.req.bufLength < 256 →
      OnlyCompletes 0 (r.req.completion .tooSmall 0 Stamp.zero 256) s (exec .recoveryReport s)) ∧
    (Executes 0 .recoveryReport .handed r s → 256 ≤ r.req.bufLength →
      ∃ u, exec .recoveryReport s = .next u ∧ MovedTo 0 { r with stage := .reportWrite } s u ∧
        Emitted (.write r.req.addr s.recovery.reportBytes) s u ∧ SameContents s u) ∧
    (Executes 0 .recoveryReport .reportWrite r s →
      OnlyCompletes 0 (r.req.completion .ok 0 Stamp.zero 256) s (exec (.reportWriteEnd true) s) ∧
      OnlyCompletes 0 (r.req.refusal .hostWriteError 0) s (exec (.reportWriteEnd false) s))

/-- ALERT_WAIT: the oldest alert at once, a place among the four waiters, or LIMIT. -/
def Obligations.AlertWaitRule : Prop :=
  ∀ (s : State) (r : Executing), Executes 0 .alertWait .handed r s →
    (∀ a rest, s.cc.alerts = a :: rest →
      ∃ u, exec .alertWait s = .next u ∧ SameContents { s with cc.alerts := rest } u ∧
        Completed 0 { tag := r.req.tag, kindCode := 0x17, status := .ok, deferred := false, alertCode := a.kind.code,
                      alertCount := a.count, seq := a.seqValue, stamp := a.stamp, detail := a.detail } s u) ∧
    (s.cc.alerts = [] → s.cc.alertWaiters.length < 4 →
      ∃ u, exec .alertWait s = .next u ∧ Deferred 0 s u ∧
        SameContents { s with cc.alertWaiters := s.cc.alertWaiters ++ [r.req.tag] } u) ∧
    (s.cc.alerts = [] → 4 ≤ s.cc.alertWaiters.length →
      OnlyCompletes 0 (r.req.refusal .limit 0) s (exec .alertWait s))

/-- The posting of an alert: to the oldest waiter with count 1 and the DEFERRED flag, or into the record of its kind,
whose count rises to at most 255, or as a new record at the list's tail. -/
def Obligations.AlertPosting : Prop :=
  ∀ (s : State) (kind : AlertKind) (n d : Nat),
    (∀ tag rest, s.cc.alertWaiters = tag :: rest → (s.chan 0).live = true →
      (postAlert kind n d s).cc.alertWaiters = rest ∧ (postAlert kind n d s).cc.alerts = s.cc.alerts ∧
      (postAlert kind n d s).taken = s.taken ++ [(0, (s.chan 0).cplNext,
        { tag := tag, kindCode := 0x17, status := .ok, deferred := true, alertCode := kind.code, alertCount := 1,
          seq := n, stamp := s.clock.reading, detail := d })]) ∧
    (s.cc.alertWaiters = [] → (∀ a ∈ s.cc.alerts, a.kind ≠ kind) →
      postAlert kind n d s = { s with cc.alerts := s.cc.alerts ++
        [{ kind := kind, count := 1, seqValue := n, detail := d, stamp := s.clock.reading }] }) ∧
    (s.cc.alertWaiters = [] → (∃ a ∈ s.cc.alerts, a.kind = kind) →
      postAlert kind n d s = { s with cc.alerts := s.cc.alerts.map (fun a =>
        if a.kind = kind then
          { kind := kind, count := min 255 (a.count + 1), seqValue := n, detail := d, stamp := s.clock.reading }
        else a) })

/-! ### The clock -/

/-- SET_CLOCK at its acceptance, with no transfer pending: LIMIT, CLOCK_REGRESS, or the transfer; and the application of a
transfer: the comparison again when NEW_EPOCH is clear, else the load, and the completion. That a change of the epoch is
checkpointed while the journal is UNFORMATTED too is the model's choice (log entry 46). -/
def Obligations.SetClockRule : Prop :=
  (∀ (s : State) (r : Executing), Executes 0 .setClock .handed r s → s.clock.transfer = none →
      (r.req.newEpochFlag = true → s.clock.epoch = 65535 →
        OnlyCompletes 0 (r.req.completion .limit 0 s.clock.reading s.clock.detail) s (exec .setClock s)) ∧
      (∀ m, r.req.newEpochFlag = false → s.clock.lastStamp = some m →
        Stamp.le m { epoch := s.clock.epoch, ticks := r.req.param 32 6 } = false →
        OnlyCompletes 0 (r.req.completion .clockRegress 0 m s.clock.detail) s (exec .setClock s)) ∧
      ((r.req.newEpochFlag = true ∧ s.clock.epoch ≠ 65535) ∨
        (r.req.newEpochFlag = false ∧
          ∀ m, s.clock.lastStamp = some m →
            Stamp.le m { epoch := s.clock.epoch, ticks := r.req.param 32 6 } = true) →
        ∃ u, exec .setClock s = .next u ∧ MovedTo 0 { r with stage := .clockTransfer } s u ∧
          SameContents { s with
            clock.transfer := some { ticks := r.req.param 32 6, newEpoch := r.req.newEpochFlag, tag := r.req.tag } } u)) ∧
  ∀ (s : State) (r : Executing) (t : Transfer), Executes 0 .setClock .clockTransfer r s → s.clock.transfer = some t →
    (∀ m, t.newEpoch = false → s.clock.lastStamp = some m →
      Stamp.le m { epoch := s.clock.epoch, ticks := t.ticks } = false →
      ∃ u, exec .clockTransferApplication s = .next u ∧
        Completed 0 (r.req.completion .clockRegress 0 m s.clock.detail) s u ∧
        SameContents { s with clock.transfer := none } u) ∧
    (t.newEpoch = true ∨
      (∀ m, s.clock.lastStamp = some m → Stamp.le m { epoch := s.clock.epoch, ticks := t.ticks } = true) →
      ∃ u, exec .clockTransferApplication s = .next u ∧
        SameContents { s with
          clock.ticks := t.ticks, clock.epoch := if t.newEpoch then s.clock.epoch + 1 else s.clock.epoch,
          clock.validMarker := true, clock.clockValid := s.clock.oscRunning, clock.transfer := none } u ∧
        Completed 0 (r.req.completion .ok 0 u.clock.reading u.clock.detail) s u ∧
        (t.newEpoch = true → u.store.metadataDirty = true ∨
          ∃ slot x k, u.store.op = some (.checkpoint slot x k)))

/-- Ticks, the oscillator and VBAT: what each event changes, and that it changes nothing else. That a stop declared outside OFF
is recorded for the recovery decision is read from R110 and R114, where R116 names the stop found at the entry to RECALL
(log entry 32); with it every step keeps the law that while the oscillator is STOPPED clock-valid is clear. In OFF, that a
restart is no event of the device side, and how VBAT's crossings act, is log entry 9. -/
def Obligations.ClockEvents : Prop :=
  (∀ s t : State, s.clock.StopHolds → step s = .next t → t.clock.StopHolds) ∧
  ∀ s : State,
    (s.clock.oscRunning = true ∨ s.device = .off →
      exec .clockTick s = .next { s with clock.ticks := min (s.clock.ticks + 1) (2 ^ 48 - 1) }) ∧
    (s.clock.oscRunning = false → s.device ≠ .off → exec .clockTick s = .next s) ∧
    (s.device = .off → exec .oscillatorStop s = .next { s with clock.stopLatch := true }) ∧
    (s.device ≠ .off → s.clock.oscRunning = true →
      exec .oscillatorStop s = .next (postAlert .clockStopped 0 1
        { s with clock.oscRunning := false, clock.clockValid := false, clock.stopRecorded := true })) ∧
    (s.device ≠ .off → exec .oscillatorRestart s = .next { s with clock.oscRunning := true }) ∧
    (∀ good, s.device ≠ .off →
      exec (.batteryCrossing good) s = .next { s with clock.vbatGood := good, clock.batteryGood := good }) ∧
    (∃ ticks epoch stopLatch validMarker, s.device = .off →
      exec .batteryDomainLoss s = .next { s with
        clock := { s.clock with vbatGood := false, intact := false, ticks := ticks, epoch := epoch,
                                stopLatch := stopLatch, validMarker := validMarker },
        free := s.free + 1 }) ∧
    (s.device ≠ .off → exec .batteryDomainLoss s = .next s) ∧
    (s.device = .off → exec .oscillatorRestart s = .next s ∧
      exec (.batteryCrossing true) s = .next { s with clock.vbatGood := true } ∧
      exec (.batteryCrossing false) s = exec .batteryDomainLoss s) ∧
    (s.device ≠ .off → s.clock.oscRunning = false → exec .oscillatorStop s = .next s)

/-! ### The store engine -/

/-- A verified pass ends the job of an OPEN or FULL segment in READY or RUNNING, with no request held: the shadow holds
what the pass still had to copy, the segment is clean, or dirty from its snapshot + 1 and again in the queue, and S is
recomputed. A pass on a FREEING segment makes it FREE, whatever its outcome. With the fall of D the exposure state follows with
its alert. The waiting records that an end of exposure and the rise of S satisfy complete OK in order. -/
def Obligations.StorePassVerified : Prop :=
  ∀ (s : State) (i : SegId) (w : Nat) (agree : Bool), s.store.op = some (.job i w) → s.working = true →
    s.budget.held = [] →
    ((s.seg i).state = .openS ∨ (s.seg i).state = .full → agree = true →
      ∃ u, exec (.storePassEnd agree) s = .next u ∧
        SameSegmentsBut (fun j => j = i) s u ∧
        ({ s.seg i with unstoredFrom := if (s.seg i).grewInStore then (s.seg i).snapshot.map (· + 1) else none } :
          Segment).SameLog (u.seg i) ∧
        (∀ a, segBase i + w ≤ a → a < segBase i + 4096 → u.array.shadow.read a = s.journal.sram.read a) ∧
        (∀ a, a < segBase i + w ∨ segBase i + 4096 ≤ a → u.array.shadow.read a = s.array.shadow.read a) ∧
        u.journal.sram = s.journal.sram ∧ u.journal.chain = s.journal.chain ∧
        u.journal.nextSeq = s.journal.nextSeq ∧ u.store.storedThrough = u.storedThroughNow ∧
        (s.store.storedThrough < u.store.storedThrough →
          ∀ x ∈ u.store.waiting, u.store.storedThrough < x.target) ∧
        u.txns = s.txns ∧ u.clock = s.clock ∧ u.journal.head = s.journal.head ∧
        ((s.seg i).grewInStore = true → ∀ q, q = s.store.queue ++ (if i ∈ s.store.queue then [] else [i]) →
          (∀ e, Executes 0 .format .formatWait e s → u.store.op = none ∧ u.store.queue = q) ∧
          (s.formatHold = false → s.store.metadataDirty = true → 32 ≤ s.store.jobsSinceDirty + 1 →
            (∃ x, u.store.op = some (.checkpoint s.nextSlot.1 x 0)) ∧ u.store.queue = q) ∧
          (s.formatHold = false → s.store.metadataDirty = false ∨ s.store.jobsSinceDirty + 1 < 32 →
            ∀ j rest, q = j :: rest → u.store.op = some (.job j 0) ∧ u.store.queue = rest ∧ (u.seg j).inStore = true ∧
              (u.seg j).snapshot = (u.seg j).lastSeq ∧ (u.seg j).retry = 0)) ∧
        (s.cc.alertWaiters = [] →
          ExposureFollows (!(s.seg i).grewInStore) u.dirtyCount s u ∧ u.budget.b = s.budget.b ∧
          Answers (s.budget.exposed && !(s.seg i).grewInStore && decide (u.dirtyCount ≤ s.budget.b)) [] s u)) ∧
    ((s.seg i).state = .freeing →
      ∃ u, exec (.storePassEnd agree) s = .next u ∧ SameSegmentsBut (fun j => j = i) s u ∧
        u.seg i = Segment.freeForm ∧ u.journal.chain = s.journal.chain.filter (fun j => j != i) ∧
        u.journal.sram = s.journal.sram ∧ u.journal.nextSeq = s.journal.nextSeq ∧
        u.store.storedThrough = u.storedThroughNow ∧ u.txns = s.txns ∧ u.clock = s.clock ∧
        (s.cc.alertWaiters = [] → ExposureFollows true u.dirtyCount s u ∧ u.budget.b = s.budget.b ∧
          Answers (s.budget.exposed && decide (u.dirtyCount ≤ s.budget.b)) [] s u))

/-- A failed pass on an OPEN or FULL segment: below the third failure a new pass begins at once and everything else
stays; at the third the job ends and the segment fails (a job on it can only begin again from the queue). -/
def Obligations.StorePassRetry : Prop :=
  ∀ (s : State) (i : SegId) (w : Nat), s.store.op = some (.job i w) →
    (s.seg i).state = .openS ∨ (s.seg i).state = .full →
    ((s.seg i).retry < 2 →
      ∃ u, exec (.storePassEnd false) s = .next u ∧ u.store.op = some (.job i 0) ∧
        u.seg i = { s.seg i with retry := (s.seg i).retry + 1 } ∧ (∀ j, j ≠ i → u.seg j = s.seg j) ∧
        u.store.queue = s.store.queue ∧ u.dirtyCount = s.dirtyCount ∧ SameLog s u ∧
        SameUnits { s with array.shadow := u.array.shadow } u ∧ u.taken = s.taken ∧ u.budget = s.budget ∧
        ∀ a, a < segBase i ∨ segBase i + 4096 ≤ a → u.array.shadow.read a = s.array.shadow.read a) ∧
    ((s.seg i).retry = 2 →
      ∃ u, exec (.storePassEnd false) s = .next u ∧
        ({ s.seg i with state := .failed, unstoredFrom := none } : Segment).SameLog (u.seg i) ∧
        ∀ w', u.store.op = some (.job i w') → i ∈ s.store.queue)

/-- The failure of a segment in READY or RUNNING: it is FAILED and clean with its sequence range kept, every waiter it
could have served completes NV_FAULT, the held set empties, metadata is dirty, and MEDIA_FAULT is posted. The completions of
the event stand in the order of R79: the records that an end of exposure satisfies and the grantable held records at step
2, the waiters of the segment at step 4, the other held records at step 5, the records that S covers at step 6. The end of
exposure satisfies no record whose entry is lost with the segment, at or above its unstored-from: it completes NV_FAULT at
step 4 (R39; the model's reading, log entry 19). -/
def Obligations.SegmentFailure : Prop :=
  ∀ (s : State) (i : SegId) (w : Nat), s.store.op = some (.job i w) → s.working = true →
    (s.seg i).state = .openS ∨ (s.seg i).state = .full → (s.seg i).retry = 2 → s.cc.alertWaiters = [] →
    ∃ u, exec (.storePassEnd false) s = .next u ∧
      ({ s.seg i with state := .failed, unstoredFrom := none } : Segment).SameLog (u.seg i) ∧
      SameSegmentsBut (fun j => j = i) s u ∧ u.mediaFault = true ∧ u.budget.held = [] ∧
      (∀ x ∈ u.store.waiting, x.target < (s.seg i).unstoredFrom.getD 0) ∧
      (∀ x ∈ u.store.waiting, x ∈ s.store.waiting) ∧ u.store.storedThrough = u.storedThroughNow ∧
      (u.store.metadataDirty = true ∨ ∃ slot x k, u.store.op = some (.checkpoint slot x k)) ∧
      (∃ a ∈ u.cc.alerts, a.kind = .mediaFault ∧ a.seqValue = (s.seg i).unstoredFrom.getD 0 ∧ a.detail = i.val) ∧
      u.journal.sram = s.journal.sram ∧ u.journal.chain = s.journal.chain ∧
      u.journal.nextSeq = s.journal.nextSeq ∧ u.txns = s.txns ∧
      ∀ ended first last grantable, ended = (s.budget.exposed && decide (u.dirtyCount ≤ s.budget.b)) →
        first = (s.seg i).unstoredFrom.getD 0 → last = (s.seg i).lastSeq.getD 0 →
        grantable = (failSegment i s).grantable → s.HeldSetLaw → s.journal.nextSeq ≠ 2 ^ 48 - 1 →
        ∀ (relieves : Waiter → Bool) (relieved failed covered : List Waiter),
          relieves = (fun w => ended && w.kind == .appendExposed &&
            !(decide (first ≤ w.target) && decide (w.target ≤ last))) →
          relieved = s.store.waiting.filter relieves →
          failed = s.store.waiting.filter (fun w => !relieves w && decide (first ≤ w.target)) →
          covered = s.store.waiting.filter (fun w => !relieves w && (!decide (first ≤ w.target) &&
            (decide (s.store.storedThrough < u.store.storedThrough) &&
              decide (w.target ≤ u.store.storedThrough)))) →
          s.CanAnswer (relieved ++ failed ++ covered) →
          u.takenBy = s.takenBy ++ endings .ok s.store.storedThrough relieved ++
            s.heldEndings .nvFault (s.budget.held.takeWhile grantable) ++
            endings .nvFault s.store.storedThrough failed ++
            s.heldEndings .nvFault (s.budget.held.dropWhile grantable) ++
            endings .ok u.store.storedThrough covered

/-- The end of a checkpoint write: verified, it stands in its slot and is the newest; below the third failure the write
goes on with the same contents; at the third the newest stays, metadata is dirty, and MEDIA_FAULT names the slot. A FORMAT
whose write it was completes OK or NV_FAULT. The end of the recovery checkpoint's write, verified or failed three times,
leaves RECOVER by ENABLE and the control base, and a latched line-store request begins a line store. -/
def Obligations.CheckpointWriteRule : Prop :=
  ∀ (s : State) (slot : Slot) (x : Checkpoint) (k : Nat), s.store.op = some (.checkpoint slot x k) →
    s.store.lineStore = .none →
    (s.working = true → (∀ r, (s.chan 0).exec = some r → r.stage ≠ .formatCheckpoint) →
      ∃ u, exec (.checkpointWriteEnd true) s = .next u ∧ u.slotOf slot = some x ∧
        (∀ other, other ≠ slot → u.slotOf other = s.slotOf other) ∧
        SameLog s u ∧ u.taken = s.taken ∧
        SameUnits { s with array := u.array, store.newest := some (slot, x.generation) } u ∧
        u.array.shadow = s.array.shadow) ∧
    (∀ r, s.working = true → Executes 0 .format .formatCheckpoint r s →
      ∃ u, exec (.checkpointWriteEnd true) s = .next u ∧ u.slotOf slot = some x ∧ SameLog s u ∧
        Completed 0 (r.req.completion .ok 0 Stamp.zero s.journal.format.toNat) s u ∧
        u.store.newest = some (slot, x.generation)) ∧
    (∀ b verified, verified = true ∨ (2 ≤ k ∧ x.emergency = false) → s.device = .recover →
      s.recovery.building = some b →
      ∃ u, exec (.checkpointWriteEnd verified) s = .next u ∧
        u.slotOf slot = (if verified then some x else none) ∧
        u.store.newest = (if verified then some (slot, x.generation) else s.store.newest) ∧
        u.recovery.report = some { b with checkpointFailed := !verified } ∧ u.recovery.building = none ∧
        SameLog s u ∧ u.window.enable = s.window.enable ∧
        (s.window.enable = false → u.device = .ready ∧ u.window = s.window) ∧
        (s.window.enable = true → s.window.base.toNat ≠ 0 → s.window.base.toNat % 2 ^ 12 = 0 →
          u.device = .running ∧ u.window = { s.window with latchedBase := s.window.base } ∧
          u.chan 0 = { Channel.closed with
            state := .active,
            setup := some { reqAddr := s.window.base, reqSlots := 32, cplAddr := s.window.base + 2048,
                            cplSlots := 32, statusAddr := s.window.base + 3072 } } ∧
          .write (s.window.base + 3072) (statusBytes 0 0 .active none) ∈ u.out) ∧
        (s.window.enable = true → s.window.base.toNat = 0 ∨ s.window.base.toNat % 2 ^ 12 ≠ 0 →
          u.device = .ready ∧ (verified = true ∨ s.cc.alertWaiters = [] → u.cc.chans = s.cc.chans) ∧
          u.window = { s.window with ctrlFault := some (s.window.ctrlFault.getD .badBase) }) ∧
        (verified = false → s.cc.alertWaiters = [] →
          ∃ a ∈ u.cc.alerts, a.kind = .mediaFault ∧ a.seqValue = 0 ∧ a.detail = slot.code * 2 ^ 16) ∧
        (s.supply.latch = false → u.store.lineStore = .none ∧ u.cc.fetchPaused = s.cc.fetchPaused ∧
          u.supply = s.supply ∧ (verified = false → u.store.metadataDirty = true)) ∧
        (s.supply.latch = true → s.dirtyCount = 0 → (s.chan 0).exec = none → u.supply.latch = false ∧
          (verified = true → s.store.metadataDirty = false →
            u.store.lineStore = .none ∧ u.cc.fetchPaused = false ∧ u.supply.driveLow = false) ∧
          (verified = false ∨ s.store.metadataDirty = true →
            u.store.lineStore = .checkpoint ∧ u.cc.fetchPaused = true ∧ u.supply.driveLow = true ∧
            u.store.metadataDirty = false ∧
            ∃ y, u.store.op = some (.checkpoint u.nextSlot.1 y 0) ∧ y.generation = u.nextSlot.2))) ∧
    (k < 2 → ∃ u, exec (.checkpointWriteEnd false) s = .next u ∧ u.slotOf slot = none ∧
      u.store.op = some (.checkpoint slot x (k + 1)) ∧ u.store.newest = s.store.newest ∧ SameLog s u ∧
      SameUnits { s with array := u.array } u ∧ u.taken = s.taken) ∧
    (2 ≤ k → s.working = true → x.emergency = false → s.cc.alertWaiters = [] →
      ∃ u, exec (.checkpointWriteEnd false) s = .next u ∧ u.slotOf slot = none ∧
        u.store.newest = s.store.newest ∧ u.store.metadataDirty = true ∧ u.store.jobsSinceDirty = 0 ∧
        (∃ a ∈ u.cc.alerts, a.kind = .mediaFault ∧ a.seqValue = 0 ∧ a.detail = slot.code * 2 ^ 16) ∧
        SameLog s u ∧
        ((∀ r, (s.chan 0).exec = some r → r.stage ≠ .formatCheckpoint) → u.taken = s.taken) ∧
        ∀ r, Executes 0 .format .formatCheckpoint r s →
          Completed 0 (r.req.completion .nvFault 0 Stamp.zero s.journal.format.toNat) s u)

/-- The idle timer's expiry queues or starts the store of the dirty OPEN segment; a line-store request of 1 µs begins a
line store in READY and RUNNING, sets the latch in RECALL and RECOVER, and does nothing in the other states, below
1 µs, or while the part drives the line. With no operation in flight its first store begins at once, or with D at 0 its
checkpoint write, or it ends at once. A line store goes on at an event that leaves D at 0 with no operation in flight:
to its checkpoint while metadata is dirty, else to its end, at which fetching resumes and the line is released; one that
begins in FORMAT's checkpoint write takes that write as its checkpoint. At the end of its checkpoint it stores what was
committed meanwhile, writes a checkpoint again, or ends. While FORMAT's reset event is to come, it waits for FORMAT's
write and ends with that (log entry 25). -/
def Obligations.StoreTriggers : Prop :=
  (∀ (s : State) (t : Nat) (i : SegId), s.store.idleTimer = some t → s.openSegment = some i →
    (s.seg i).dirty = true → (s.seg i).inStore = false →
    ∃ u, exec .idleTimerExpiry s = .next u ∧ u.store.idleTimer = none ∧
      (i ∈ u.store.queue ∨ (u.seg i).inStore = true) ∧ SameContents { s with now := max s.now t } u ∧
      u.taken = s.taken) ∧
  (∀ (s : State) (ns : Nat),
    (ns < 1000 ∨ s.supply.driveLow = true → exec (.pstoreRequest ns) s = .next s) ∧
    (1000 ≤ ns → s.supply.driveLow = false →
      (s.working = true → s.store.lineStore = .none →
        ∃ u, exec (.pstoreRequest ns) s = .next u ∧ u.supply.latch = false ∧
          SameContents { s with supply.latch := false } u ∧ u.taken = s.taken ∧
          (s.store.op ≠ none ∨ 0 < s.dirtyCount ∨
              (∃ e, Executes 0 .format .handed e s ∨ Executes 0 .format .formatWait e s) →
            u.supply.driveLow = true ∧ u.cc.fetchPaused = true ∧
            ((∀ e, (s.chan 0).exec = some e → e.stage ≠ .formatCheckpoint) → u.store.lineStore = .segments) ∧
            (∀ e, Executes 0 .format .formatCheckpoint e s → u.store.lineStore = .checkpoint) ∧
            (∀ i, s.openSegment = some i → (s.seg i).dirty = true →
              (u.seg i).inStore = true ∨ i ∈ u.store.queue)) ∧
          (s.store.op ≠ none → u.store.op = s.store.op) ∧
          (s.store.op = none → s.formatHold = true → u.store.op = none) ∧
          (s.store.op = none → s.formatHold = false → 0 < s.dirtyCount →
            (∀ i rest, s.store.queue = i :: rest → u.store.op = some (.job i 0) ∧ (u.seg i).inStore = true ∧
              (u.seg i).snapshot = (u.seg i).lastSeq) ∧
            (∀ i, s.store.queue = [] → s.openSegment = some i → (s.seg i).dirty = true → (s.seg i).inStore = false →
              u.store.op = some (.job i 0) ∧ (u.seg i).inStore = true ∧
                (u.seg i).snapshot = (u.seg i).lastSeq ∧ u.store.queue = [])) ∧
          (s.store.op = none → s.dirtyCount = 0 → s.formatHold = false →
            (∀ e, (s.chan 0).exec = some e → e.req.kind ≠ .format) →
            (s.store.metadataDirty = true →
              u.store.lineStore = .checkpoint ∧ u.supply.driveLow = true ∧ u.cc.fetchPaused = true ∧
              u.store.metadataDirty = false ∧ ∃ x, u.store.op = some (.checkpoint s.nextSlot.1 x 0)) ∧
            (s.store.metadataDirty = false →
              u.store.lineStore = .none ∧ u.supply.driveLow = false ∧ u.cc.fetchPaused = false))) ∧
      (s.device = .recall ∨ s.device = .recover →
        exec (.pstoreRequest ns) s = .next { s with supply.latch := true }) ∧
      (s.device = .off ∨ s.device = .emergency ∨ s.device = .halted → exec (.pstoreRequest ns) s = .next s))) ∧
  (∀ (s : State) (i : SegId) (w : Nat), s.store.op = some (.job i w) → s.working = true → s.budget.held = [] →
    s.store.lineStore = .segments → (s.seg i).state = .openS ∨ (s.seg i).state = .full →
    (s.seg i).grewInStore = false → (∀ j, j ≠ i → (s.seg j).dirty = false) →
    ∃ u, exec (.storePassEnd true) s = .next u ∧ u.dirtyCount = 0 ∧
      (s.store.metadataDirty = true → (∀ e, (s.chan 0).exec = some e → e.req.kind ≠ .format) →
        s.formatHold = false →
        u.store.lineStore = .checkpoint ∧ (∃ x, u.store.op = some (.checkpoint s.nextSlot.1 x 0)) ∧
        u.cc.fetchPaused = s.cc.fetchPaused ∧ u.supply.driveLow = s.supply.driveLow) ∧
      (s.store.metadataDirty = false → (∀ e, (s.chan 0).exec = some e → e.req.kind ≠ .format) →
        s.formatHold = false →
        u.store.lineStore = .none ∧ u.cc.fetchPaused = false ∧ u.supply.driveLow = false) ∧
      (∀ e, Executes 0 .format .handed e s ∨ Executes 0 .format .formatWait e s →
        u.store.lineStore = .segments ∧ u.cc.fetchPaused = s.cc.fetchPaused ∧
        u.supply.driveLow = s.supply.driveLow)) ∧
  ∀ (s : State) (slot : Slot) (x : Checkpoint) (k : Nat), s.store.op = some (.checkpoint slot x k) →
    s.working = true → s.store.lineStore ≠ .none →
    ∀ verified, verified = true ∨ 2 ≤ k →
    ∃ u, exec (.checkpointWriteEnd verified) s = .next u ∧
      (s.store.lineStore = .checkpoint → 0 < s.dirtyCount →
        u.store.lineStore = .segments ∧ u.cc.fetchPaused = s.cc.fetchPaused ∧
        u.supply.driveLow = s.supply.driveLow ∧
        ∀ i, s.openSegment = some i → (s.seg i).dirty = true → (u.seg i).inStore = true ∨ i ∈ u.store.queue) ∧
      (s.dirtyCount = 0 →
        (s.store.lineStore = .checkpoint ∧ (∀ e, (s.chan 0).exec = some e → e.req.kind ≠ .format) ∧
          s.formatHold = false) ∨ (∃ e, Executes 0 .format .formatCheckpoint e s) →
        (verified = true → s.store.metadataDirty = true →
          u.store.lineStore = .checkpoint ∧ (∃ y, u.store.op = some (.checkpoint u.nextSlot.1 y 0)) ∧
          u.cc.fetchPaused = s.cc.fetchPaused ∧ u.supply.driveLow = s.supply.driveLow) ∧
        (verified = false ∨ s.store.metadataDirty = false →
          u.store.lineStore = .none ∧ u.cc.fetchPaused = false ∧ u.supply.driveLow = false)) ∧
      (s.store.lineStore = .checkpoint → s.dirtyCount = 0 →
        (∃ e, Executes 0 .format .handed e s ∨ Executes 0 .format .formatWait e s) →
        u.store.lineStore = .segments ∧ u.cc.fetchPaused = s.cc.fetchPaused ∧
        u.supply.driveLow = s.supply.driveLow)

/-! ### The hold-up monitor and the budget -/

/-- A measurement: V and C, B, exposure with its alert, the sag run that is watched in CHARGED, with its one fault, and in
EMERGENCY and HALTED the fall below 2.5 V to OFF, where an array operation in flight is cut short. Nothing in OFF. The
capacities of the manual's table. What the slot of a background checkpoint write then holds is a free value; that it is not the
checkpoint being written is the model's choice (log entry 8). -/
def Obligations.MeasurementRule : Prop :=
  (capacity (100 * 12) 10000 = 38 ∧ capacity (100 * 12) 6300 = 0 ∧ capacity (470 * 12) 10000 = 255 ∧
    capacity (470 * 12) 9600 = 232 ∧ capacity (470 * 12) 9300 = 215 ∧ capacity (470 * 12) 9100 = 204 ∧
    capacity (470 * 12) 9000 = 199 ∧ capacity (470 * 12) 3700 = 1 ∧ capacity (1000 * 12) 10000 = 512) ∧
  ∀ (s : State) (v : Nat),
    (s.device = .off → exec (.measurement v) s = .next s) ∧
    (s.device ≠ .off → ∃ u, exec (.measurement v) s = .next u ∧ u.monitor.v = v ∧
      u.monitor.c = capacity s.monitor.inUse v ∧ u.budget.b = min (capacity s.monitor.inUse v) s.budget.limit ∧
      u.monitor.inUse = s.monitor.inUse ∧ u.monitor.nextMeasurement = s.monitor.nextMeasurement + 5000 ∧
      u.now = max s.now s.monitor.nextMeasurement ∧
      (s.monitor.charge = .charged → 8000 ≤ v → u.monitor.sagStart = none) ∧
      (s.monitor.charge = .charged → v < 8000 → s.monitor.sagStart = none → u.monitor.sagStart = some u.now) ∧
      (∀ t, s.monitor.charge = .charged → v < 8000 → s.monitor.sagStart = some t →
        u.monitor.sagStart = some t ∧
        (200000 ≤ u.now - t → u.monitor.sagRaised = true) ∧
        (200000 ≤ u.now - t → s.monitor.sagRaised = false → s.cc.alertWaiters = [] →
          ∃ a ∈ u.cc.alerts, a.kind = .holdupFault ∧ a.seqValue = 0 ∧ a.detail = 3 + v * 2 ^ 32 ∧
            a.stamp = s.clock.reading)) ∧
      (s.monitor.charge ≠ .charged → u.monitor.sagStart = s.monitor.sagStart) ∧
      ((s.monitor.charge = .charged ∧ v < 8000 ∧ s.monitor.sagRaised = false ∧
          ∃ t, s.monitor.sagStart = some t ∧ 200000 ≤ u.now - t) ∨
        u.cc.alerts.filter (fun a => a.kind == .holdupFault) =
          s.cc.alerts.filter (fun a => a.kind == .holdupFault) ∧
        (u.monitor.sagRaised = true →
          s.monitor.sagRaised = true ∧ (s.monitor.charge = .charged → v < 8000)))) ∧
    (s.budgetLive = true → s.budget.held = [] →
      ∃ u, exec (.measurement v) s = .next u ∧
        u.budget.exposed = decide (min (capacity s.monitor.inUse v) s.budget.limit < s.dirtyCount) ∧
        u.device = s.device ∧ SameLog s u ∧ u.txns = s.txns ∧
        u.store.storedThrough = s.store.storedThrough ∧ u.array = s.array ∧ u.clock = s.clock ∧
        (s.cc.alertWaiters = [] →
          ExposureFollows true s.dirtyCount s u ∧
          Answers (s.budget.exposed && decide (s.dirtyCount ≤ u.budget.b)) [] s u)) ∧
    (s.device = .emergency ∨ s.device = .halted → v < 2500 →
      ∃ u, exec (.measurement v) s = .next u ∧ u.device = .off ∧ u.store.op = none ∧ u.supply.driveLow = false ∧
        u.journal.sram = s.journal.sram ∧ SameSegmentsBut (fun _ => False) s u ∧
        (∀ slot x k, s.store.op = some (.checkpoint slot x k) →
          (u.slotOf slot = none ∨ x.emergency = false ∧ k = 0 ∧ u.slotOf slot = s.slotOf slot) ∧
          (∀ other, other ≠ slot → u.slotOf other = s.slotOf other) ∧ u.array.closing = s.array.closing) ∧
        (∀ m k, s.store.op = some (.closingMark m k) → u.array.closing = none ∧ ∀ slot, u.slotOf slot = s.slotOf slot) ∧
        (∀ i w, s.store.op = some (.job i w) →
          (∃ n, w ≤ n ∧ ∀ a, u.array.shadow.read a =
            if segBase i + w ≤ a ∧ a < segBase i + min 4096 n then s.journal.sram.read a
            else s.array.shadow.read a) ∧ ∀ slot, u.slotOf slot = s.slotOf slot)) ∧
    (s.device = .emergency ∨ s.device = .halted → 2500 ≤ v →
      ∃ u, exec (.measurement v) s = .next u ∧ u.device = s.device ∧ u.store.op = s.store.op ∧ SameLog s u ∧
        u.budget.exposed = s.budget.exposed ∧ u.budget.pressure = s.budget.pressure)

/-- Charging and learning: CHARGED, the one NOT_CHARGED fault, the two crossings, the timeout, and the range. That NOT_CHARGED
reports V as last measured, where R58 says V at that moment, and that an event carries the device timer to its time, are the
model's choices (log entry 3); that capacitances are held in twelfths of a µF from times in 10 µs, and that LEARN_RANGE rounds
a capacitance that is no whole number of µF by a free value, are too (log entry 10). -/
def Obligations.ChargingAndLearning : Prop :=
  ∀ s : State, s.device ≠ .off →
    (s.monitor.charge = .charging → exec .charged s = .next { s with monitor.charge := .charged }) ∧
    (s.monitor.charge = .charging → s.monitor.faultRaised = false →
      exec .notCharged s = .next (postAlert .holdupFault 0 (1 + s.monitor.v * 2 ^ 32)
        { s with now := max s.now (s.monitor.chargeStart + 2000000), monitor.faultRaised := true })) ∧
    (s.monitor.faultRaised = true ∨ s.monitor.charge ≠ .charging → exec .notCharged s = .next s) ∧
    (∀ t, s.monitor.learning = .waiting →
      exec (.learnStart t) s = .next { s with
        now := max s.now (t * 10), monitor.learning := .timing, monitor.keptCrossing := t }) ∧
    (∀ t, s.monitor.learning = .timing → 1200 ≤ t - s.monitor.keptCrossing → t - s.monitor.keptCrossing ≤ 56400 →
      exec (.learnEnd t) s = .next { s with
        now := max s.now (t * 10), monitor.learning := .ended,
        monitor.learned := some (t - s.monitor.keptCrossing), monitor.inUse := t - s.monitor.keptCrossing }) ∧
    (∀ t, s.monitor.learning = .timing → t - s.monitor.keptCrossing < 1200 ∨ 56400 < t - s.monitor.keptCrossing →
      ∃ u, exec (.learnEnd t) s = .next u ∧
        u.monitor = { s.monitor with learning := .ended, learned := none } ∧
        (s.cc.alertWaiters = [] → ∃ a ∈ u.cc.alerts, a.kind = .holdupFault ∧ a.seqValue = 0 ∧
          a.detail = 2 + microfarads (t - s.monitor.keptCrossing) * 2 ^ 32)) ∧
    (s.monitor.learning = .timing →
      exec .learnTimeout s = .next (postAlert .holdupFault 0 (2 + 5000 * 2 ^ 32)
        { s with now := max s.now (s.monitor.keptCrossing * 10 + 600000),
                 monitor.learning := .ended, monitor.learned := none }))

/-! ### Power and recovery -/

/-- The supply failing in READY or RUNNING: entry to EMERGENCY at every block; the dirty OPEN segment is queued. Each transfer
in progress is abandoned: a host write stops at an arbitrary byte (log entry 23). That the entry is one step at every block is
the model's reading (log entry 20); that the later one of two status block writes of one channel has not begun, also when the
channel was opened again with another status block address between them, is its choice (log entry 44). -/
def Obligations.EmergencyEntry : Prop :=
  ∀ s : State, s.working = true → s.supply.good = true →
    ∃ u, exec .supplyFail s = .next u ∧ u.device = .emergency ∧ u.supply.good = false ∧ u.supply.driveLow = true ∧
      u.supply.latch = false ∧ (∀ c, u.chan c = Channel.closed) ∧ u.cc.fetch = none ∧ u.cc.posts = [] ∧
      u.cc.statusWrites = [] ∧ u.cc.alertWaiters = [] ∧ u.cc.alerts = s.cc.alerts ∧ u.staging.buffers = [] ∧
      u.staging.waiters = [] ∧ u.journal.readBuffers = [] ∧ u.journal.readWaiters = [] ∧ u.journal.full = false ∧
      (∀ i, s.openSegment = some i → (s.seg i).dirty = true → (s.seg i).inStore = false →
        u.store.queue = s.store.queue ++ (if i ∈ s.store.queue then [] else [i])) ∧
      ((∀ i, s.openSegment = some i → (s.seg i).dirty = false ∨ (s.seg i).inStore = true) →
        u.store.queue = s.store.queue) ∧
      u.budget.held = [] ∧ u.store.waiting = [] ∧ u.store.reservationWaiters = [] ∧
      u.store.idleTimer = none ∧ u.store.lineStore = .none ∧ u.store.handedD = s.dirtyCount ∧
      u.store.handedExposed = s.budget.exposed ∧ u.monitor.charge = .discharging ∧ u.monitor.sagStart = none ∧
      u.clock = { s.clock with transfer := none } ∧ u.txns = s.txns ∧ SameLog s u ∧ u.array = s.array ∧
      (∃ sent, u.out = .abandoned s.writeCuts sent :: s.out) ∧
      s.writeCuts.map Prod.fst = s.hostWrites.map Prod.fst ∧ (∀ x ∈ s.writeCuts.zip s.hostWrites, x.1.2 ≤ x.2.2) ∧
      (s.store.op ≠ none → u.store.phase = .finishing ∧ u.store.op = s.store.op) ∧
      (s.store.op = none → u.store.phase = .checkpoint ∧
        ∃ x, u.store.op = some (.checkpoint s.nextSlot.1 x 0) ∧ x.generation = s.nextSlot.2 ∧ x.emergency = true ∧
          x.head = s.journal.head ∧ x.nextSeq = s.journal.nextSeq ∧ x.dirtyAtEmergency = s.dirtyCount ∧
          x.exposedAtEmergency = s.budget.exposed)

/-- The emergency sequence between its entry and its closing mark, in EMERGENCY. The operation found in flight is finished;
its end starts the emergency checkpoint, which carries a segment that failed. The end of that write, verified or failed
three times, starts the stores, and each store's end the next one: the queue first, then the chain, then the closing mark.
In the stores' phase a verified job is counted and a failure is listed; no S, waiter or alert follows. -/
def Obligations.EmergencySequence : Prop :=
  ∀ s : State, s.device = .emergency → s.cc.alertWaiters = [] →
    (∀ (i : SegId) (w : Nat) (agree : Bool), s.store.op = some (.job i w) →
      s.store.phase = .finishing ∨ s.store.phase = .segments →
      ((s.seg i).state = .freeing →
        ∃ u, exec (.storePassEnd agree) s = .next u ∧ SequenceLeaves s u ∧ SameSegmentsBut (fun j => j = i) s u ∧
          u.seg i = Segment.freeForm ∧ u.journal.chain = s.journal.chain.filter (fun j => j != i) ∧
          u.store.storedCount = s.store.storedCount ∧ u.store.failedList = s.store.failedList ∧
          u.store.failedOverflow = s.store.failedOverflow ∧ u.cc.alerts = s.cc.alerts ∧
          (s.store.phase = .finishing → EmergencyCheckpointBegun u) ∧
          (s.store.phase = .segments → SequenceGoesOn (s.store.queue.filter (fun j => j != i)) u)) ∧
      ((s.seg i).state = .openS ∨ (s.seg i).state = .full → agree = true →
        ∃ u, exec (.storePassEnd agree) s = .next u ∧ SequenceLeaves s u ∧ SameSegmentsBut (fun j => j = i) s u ∧
          ({ s.seg i with unstoredFrom :=
              if (s.seg i).grewInStore then (s.seg i).snapshot.map (· + 1) else none } : Segment).SameLog (u.seg i) ∧
          (∀ a, segBase i + w ≤ a → a < segBase i + 4096 → u.array.shadow.read a = s.journal.sram.read a) ∧
          u.journal.chain = s.journal.chain ∧ u.store.failedList = s.store.failedList ∧
          u.store.failedOverflow = s.store.failedOverflow ∧ u.cc.alerts = s.cc.alerts ∧
          (s.store.phase = .finishing → u.store.storedCount = s.store.storedCount ∧ EmergencyCheckpointBegun u ∧
            ((s.seg i).grewInStore = true → i ∈ u.store.queue)) ∧
          (s.store.phase = .segments → u.store.storedCount = s.store.storedCount + 1 ∧
            SequenceGoesOn (s.store.queue ++
              (if (s.seg i).grewInStore && !s.store.queue.contains i then [i] else [])) u)) ∧
      ((s.seg i).state = .openS ∨ (s.seg i).state = .full → agree = false → 2 ≤ (s.seg i).retry →
        ∃ u, exec (.storePassEnd agree) s = .next u ∧ SequenceLeaves s u ∧ SameSegmentsBut (fun j => j = i) s u ∧
          ({ s.seg i with state := .failed, unstoredFrom := none } : Segment).SameLog (u.seg i) ∧
          u.journal.chain = s.journal.chain ∧ u.store.storedCount = s.store.storedCount ∧
          (s.store.phase = .finishing → EmergencyCheckpointBegun u ∧ u.store.metadataDirty = true ∧
            u.store.failedList = s.store.failedList ∧ u.store.failedOverflow = s.store.failedOverflow ∧
            ∃ a ∈ u.cc.alerts, a.kind = .mediaFault ∧ a.seqValue = (s.seg i).unstoredFrom.getD 0 ∧
              a.detail = i.val) ∧
          (s.store.phase = .segments → u.cc.alerts = s.cc.alerts ∧
            u.store.metadataDirty = s.store.metadataDirty ∧
            u.store.failedList =
              (if s.store.failedList.length < 8 then s.store.failedList ++ [i] else s.store.failedList) ∧
            u.store.failedOverflow = (s.store.failedOverflow || decide (8 ≤ s.store.failedList.length)) ∧
            SequenceGoesOn s.store.queue u))) ∧
    ∀ (slot : Slot) (x : Checkpoint) (k : Nat) (verified : Bool), s.store.op = some (.checkpoint slot x k) →
      verified = true ∨ 2 ≤ k → s.store.phase = .finishing ∨ s.store.phase = .checkpoint →
      ∃ u, exec (.checkpointWriteEnd verified) s = .next u ∧ SequenceLeaves s u ∧
        SameSegmentsBut (fun _ => False) s u ∧ u.journal.chain = s.journal.chain ∧
        u.slotOf slot = (if verified then some x else none) ∧
        (∀ other, other ≠ slot → u.slotOf other = s.slotOf other) ∧
        u.store.newest = (if verified then some (slot, x.generation) else s.store.newest) ∧
        u.store.storedCount = s.store.storedCount ∧ u.store.failedList = s.store.failedList ∧
        (s.store.phase = .finishing → EmergencyCheckpointBegun u ∧
          (verified = false → x.emergency = false →
            ∃ a ∈ u.cc.alerts, a.kind = .mediaFault ∧ a.seqValue = 0 ∧ a.detail = slot.code * 2 ^ 16)) ∧
        (s.store.phase = .checkpoint → SequenceGoesOn s.store.queue u ∧
          u.store.emergencyGeneration = s.store.emergencyGeneration ∧
          (x.emergency = true → u.cc.alerts = s.cc.alerts))

/-- The supply's other crossings: OFF from RECALL and RECOVER, RECALL from OFF and from HALTED, and only the supply
state elsewhere. A recovery checkpoint write cut short leaves its slot invalid or as it was, by a free value; that it
is not the checkpoint being written is the model's choice (log entry 8). -/
def Obligations.SupplyCrossings : Prop :=
  ∀ (s : State) (v : Nat),
    (s.device = .recall ∨ s.device = .recover → s.supply.good = true →
      ∃ u, exec .supplyFail s = .next u ∧ u.device = .off ∧ u.store.op = none ∧ u.supply.driveLow = false ∧
        u.array.shadow = s.array.shadow ∧ u.recovery.report = s.recovery.report ∧
        u.array.closing = s.array.closing ∧
        (∀ slot x k, s.store.op = some (.checkpoint slot x k) →
          (u.slotOf slot = none ∨ k = 0 ∧ u.slotOf slot = s.slotOf slot) ∧
          ∀ other, other ≠ slot → u.slotOf other = s.slotOf other) ∧
        ((∀ slot x k, s.store.op ≠ some (.checkpoint slot x k)) → ∀ slot, u.slotOf slot = s.slotOf slot)) ∧
    (s.device = .emergency ∨ s.device = .halted → s.supply.good = true →
      exec .supplyFail s = .next { s with supply.good := false }) ∧
    (s.device = .off ∨ s.supply.good = false → exec .supplyFail s = .next s) ∧
    (s.device = .off ∨ (s.device = .halted ∧ s.supply.good = false) →
      ∃ u, exec (.supplyReturn v) s = .next u ∧ u.device = .recall ∧ u.supply.good = true ∧ u.monitor.v = v ∧
        u.monitor.learning = (if 3000 ≤ v then .idle else .waiting) ∧ u.monitor.chargeStart = s.now ∧
        u.array = s.array ∧ u.clock.intact = true ∧ u.clock.clockValid = false ∧ u.clock.lastStamp = none ∧
        (s.clock.intact = true → u.clock.ticks = s.clock.ticks ∧ u.clock.epoch = s.clock.epoch) ∧
        (s.clock.intact = false → u.clock.ticks = 0 ∧ u.clock.epoch = 0 ∧ u.clock.validMarker = false) ∧
        (s.clock.intact = true → s.clock.stopLatch = true → ∃ a ∈ u.cc.alerts, a.kind = .clockStopped) ∧
        (∀ c, u.chan c = Channel.closed) ∧ u.window.enable = false) ∧
    (s.device = .emergency → s.supply.good = false →
      exec (.supplyReturn v) s = .next { s with supply.good := true }) ∧
    (s.device ≠ .off → s.supply.good = true → exec (.supplyReturn v) s = .next s)

/-- The end of the closing mark's write: HALTED, or RECALL with a good supply; two retries before. -/
def Obligations.ClosingMarkRule : Prop :=
  ∀ (s : State) (m : ClosingMark) (k v : Nat), s.store.op = some (.closingMark m k) →
    (s.supply.good = false →
      ∃ u, exec (.closingMarkWriteEnd true v) s = .next u ∧ u.device = .halted ∧ u.array.closing = some m ∧
        u.store.op = none ∧ u.store.phase = .ended ∧ u.supply.driveLow = false ∧ SameLog s u) ∧
    (s.supply.good = true →
      ∃ u, exec (.closingMarkWriteEnd true v) s = .next u ∧ u.device = .recall ∧ u.array.closing = some m ∧
        u.monitor.v = v) ∧
    (k < 2 → exec (.closingMarkWriteEnd false v) s =
      .next { s with array.closing := none, store.op := some (.closingMark m (k + 1)) }) ∧
    (2 ≤ k → s.supply.good = false →
      ∃ u, exec (.closingMarkWriteEnd false v) s = .next u ∧ u.device = .halted ∧ u.array.closing = none ∧
        u.store.op = none ∧ u.store.phase = .ended)

/-- The recall completion: SRAM takes every shadow byte, the device enters RECOVER, and the checkpoint chosen is the
newer of the valid ones; the closing mark decides the outcome, and its count is reported when it follows the checkpoint or
matches one whose emergency flag is set. R136 gives the count "when the mark matches or follows" and says of a mark that
matches a checkpoint with a clear emergency flag that it counts for nothing: that this mark's count is absent is the
model's choice (log entry 31). That the command changes nothing outside RECALL is the model's choice (log entry 1), and
that the scan is an event after it also with no checkpoint chosen is the model's reading (log entry 11). -/
def Obligations.RecallRule : Prop :=
  ∀ s : State,
    (s.device ≠ .recall → exec .recallCompletion s = .next s) ∧
    (s.device = .recall →
      ∃ u, exec .recallCompletion s = .next u ∧ u.device = .recover ∧ u.journal.sram = s.array.shadow ∧
        u.array = s.array ∧ u.recovery.scanning = true ∧
        (s.array.slotA = none → s.array.slotB = none →
          u.recovery.checkpoint = none ∧ u.recovery.outcome = .unformatted ∧ u.store.newest = none) ∧
        (∀ x, s.array.slotA = some x → s.array.slotB = none →
          u.recovery.checkpoint = some x ∧ u.recovery.slot = some .a) ∧
        (∀ y, s.array.slotA = none → s.array.slotB = some y →
          u.recovery.checkpoint = some y ∧ u.recovery.slot = some .b) ∧
        (∀ x y, s.array.slotA = some x → s.array.slotB = some y →
          (y.generation = x.generation + 1 → u.recovery.checkpoint = some y ∧ u.recovery.slot = some .b) ∧
          (y.generation ≠ x.generation + 1 → x.generation = y.generation + 1 →
            u.recovery.checkpoint = some x ∧ u.recovery.slot = some .a) ∧
          (y.generation ≠ x.generation + 1 → x.generation ≠ y.generation + 1 →
            (y.generation.toNat ≤ x.generation.toNat →
              u.recovery.checkpoint = some x ∧ u.recovery.slot = some .a) ∧
            (x.generation.toNat < y.generation.toNat →
              u.recovery.checkpoint = some y ∧ u.recovery.slot = some .b))) ∧
        (∀ x, u.recovery.checkpoint = some x →
          (s.array.closing = none → u.recovery.outcome = .incomplete) ∧
          ∀ m, s.array.closing = some m →
            (x.emergency = true → m.generation = x.generation → u.recovery.outcome = .clean) ∧
            (x.emergency = true → m.generation ≠ x.generation → u.recovery.outcome = .incomplete) ∧
            (x.emergency = false → m.generation = x.generation + 1 → u.recovery.outcome = .clean) ∧
            (x.emergency = false → m.generation ≠ x.generation + 1 → u.recovery.outcome = .incomplete) ∧
            (m.generation = x.generation + 1 ∨ (x.emergency = true ∧ m.generation = x.generation) →
              u.recovery.mark = some m) ∧
            (m.generation ≠ x.generation + 1 → ¬ (x.emergency = true ∧ m.generation = x.generation) →
              u.recovery.mark = none)))

/-- What the scan finds and how it is judged: the tests of an accepted header in order, the segments scanned, the overlaps
settled so that no sequence number above head is found twice, and the transactions that are kept. Which entry's seq counts in
condition 5 of R140, when two found entries above head carry the lowest index, is the model's choice (log entry 43). -/
def Obligations.ScanJudgement : Prop :=
  (∀ (mem : Memory) (base off prev n : Nat) (format : BitVec 16) (h : Header),
    h = parseHeader (mem.readBytes (base + off) 32) →
    (off + 32 ≤ 4096 → Accepts mem base format off prev h →
      scanFrom mem base format (n + 1) off prev =
        (off, h) :: scanFrom mem base format n (off + footprint h.length) h.seq) ∧
    (4096 < off + 32 ∨ ¬ Accepts mem base format off prev h →
      scanFrom mem base format (n + 1) off prev = [])) ∧
  (∀ (mem : Memory) (base n : Nat) (format : BitVec 16), 128 ≤ n →
    scanFrom mem base format n 0 0 = scanFrom mem base format 128 0 0) ∧
  (∀ s : State,
    (s.recovery.checkpoint = none → s.scanAll = []) ∧
    (∀ x, s.recovery.checkpoint = some x →
      s.scanAll = ((List.finRange 512).filter (fun i =>
        !(x.retired.contains i || x.failed.contains i ||
          (s.recovery.outcome == .clean &&
            ((s.recovery.mark.map ClosingMark.failedList).getD []).contains i)))).map
        (fun i => (scanFrom s.journal.sram (segBase i) x.format 128 0 0).map
          (fun e => { seg := i, off := e.1, header := e.2 }))) ∧
    (s.foundAbove.map (fun f => f.header.seq)).Nodup ∧
    (∀ fs ∈ keptScans s.recovery.restored.head s.scanAll, fs ∈ s.scanAll) ∧
    (∀ fs ∈ s.scanAll, recoveredRange s.recovery.restored.head fs = none →
      fs ∈ keptScans s.recovery.restored.head s.scanAll) ∧
    ∀ fs ∈ s.scanAll, ∀ x f, recoveredRange s.recovery.restored.head fs = some x → fs.head? = some f →
      (fs ∈ keptScans s.recovery.restored.head s.scanAll ↔
        ∀ gs ∈ keptScans s.recovery.restored.head s.scanAll, ∀ y g,
          recoveredRange s.recovery.restored.head gs = some y → gs.head? = some g →
          (y.1 < x.1 ∨ (y.1 = x.1 ∧ g.seg < f.seg)) → y.2 < x.1 ∨ x.2 < y.1)) ∧
  (∀ (head : Nat) (found : List Found),
    (recoveredRange head found = none ↔ ∀ f ∈ found, f.header.seq ≤ head) ∧
    ∀ a b, found.find? (fun f => decide (head < f.header.seq)) = some a → found.getLast? = some b →
      recoveredRange head found = some (a.header.seq, b.header.seq)) ∧
  ∀ (head : Nat) (all : List Found), ((aboveHead head all).map (fun f => f.header.seq)).Nodup →
    (∀ serial, serialKept head serial all = true ↔ TransactionKept head serial all) ∧
    (judgedSerials head all).Nodup ∧
    ∀ n, n ∈ judgedSerials head all ↔ n ≠ 0 ∧ ∃ f ∈ aboveHead head all, f.header.serial = n

/-- The end of the scan: every segment is FREE, FULL and clean with the range and the fill of what was found in it, or
RETIRED; the chain holds the FULL ones by first seq; next seq and the next serial are past the checkpoint's and past all
that was found, no transaction is open, S is next seq - 1, the report is built, and the recovery checkpoint write has
begun; without a checkpoint the journal is UNFORMATTED and empty. The entries of discarded transactions read VOID, the
clock decides, and the report counts what was found and what is absent, and says what the checkpoint and the closing mark
tell of the loss. The stop that the decision tests is the one found at the entry to RECALL or one declared since (log entry
32); which of two entries with the lowest index decides whether a transaction is kept is the model's choice (log entry 43), and
so is the stored count of a mark that matches a background checkpoint (log entry 31). -/
def Obligations.ScanRule : Prop :=
  ∀ s : State, s.device = .recover → s.recovery.scanning = true →
    ∃ u x b, exec .endOfScan s = .next u ∧ u.device = .recover ∧
      (∀ i, ((u.seg i).state = .free ∨ (u.seg i).state = .full ∨ (u.seg i).state = .retired) ∧
        (u.seg i).unstoredFrom = none ∧ (u.seg i).inStore = false) ∧
      u.txns.table = [] ∧ u.store.storedThrough = u.journal.nextSeq - 1 ∧ u.store.queue = [] ∧
      u.store.op = some (.checkpoint s.nextSlot.1 x 0) ∧ x.head = u.journal.head ∧
      x.nextSeq = u.journal.nextSeq ∧ x.format = u.journal.format ∧ x.emergency = false ∧
      u.recovery.scanning = false ∧ u.recovery.building = some b ∧ b.nextSeq = u.journal.nextSeq ∧
      b.head = u.journal.head ∧ b.outcome = s.recovery.outcome ∧
      u.journal.formatted = (s.recovery.outcome != .unformatted) ∧
      (∀ y, s.recovery.checkpoint = some y → u.journal.format = y.format ∧ u.journal.head = y.head ∧
        y.nextSeq ≤ u.journal.nextSeq ∧ (∀ f ∈ s.foundEntries, f.header.seq < u.journal.nextSeq) ∧
        (1 ≤ y.nextSeq → u.journal.nextSeq = y.nextSeq ∨
          ∃ f ∈ s.foundEntries, u.journal.nextSeq = f.header.seq + 1) ∧
        (∀ n, y.nextSerial ≤ n → (∀ f ∈ s.foundEntries, f.header.serial < n) →
          (n = y.nextSerial ∧ 1 ≤ n) ∨ (∃ f ∈ s.foundEntries, n = f.header.serial + 1) →
          u.txns.nextSerial = if n ≤ 2 ^ 32 - 1 then n else 1) ∧
        ∀ i, (u.seg i = { Segment.freeForm with state := .retired } ↔
          i ∈ y.retired ∨ i ∈ y.failed ∨ (s.recovery.outcome = .clean ∧
            ∃ m, s.recovery.mark = some m ∧ i ∈ m.failedList))) ∧
      (∀ fs ∈ keptScans s.recovery.restored.head s.scanAll, ∀ a b,
        fs.head? = some a → fs.getLast? = some b → s.recovery.restored.head < b.header.seq →
        u.seg a.seg = { Segment.freeForm with
          state := .full, firstSeq := some a.header.seq, lastSeq := some b.header.seq,
          fill := b.off + footprint b.header.length }) ∧
      (∀ i, (u.seg i).state = .full ↔ ∃ f ∈ s.foundAbove, f.seg = i) ∧
      (∀ i, (u.seg i).state = .free → u.seg i = Segment.freeForm) ∧
      (∀ i, i ∈ u.journal.chain ↔ (u.seg i).state = .full) ∧ u.journal.chain.Nodup ∧
      List.Pairwise (fun i j => (u.seg i).firstSeq.getD 0 ≤ (u.seg j).firstSeq.getD 0) u.journal.chain ∧
      u.journal.full = false ∧ x.nextSerial = u.txns.nextSerial ∧ b.nextSerial = u.txns.nextSerial ∧
      b.format = u.journal.format ∧ b.storedAtLoss = s.recovery.mark.map ClosingMark.storedCount ∧
      (∀ y, s.recovery.checkpoint = some y →
        b.checkpointUsed = s.recovery.slot.map (fun slot => (slot, y.generation)) ∧
        b.segmentsRetired =
          (List.finRange 512).countP (fun i => (u.seg i).state == .retired && !y.retired.contains i) ∧
        b.exposedAtLoss = (y.emergency && y.exposedAtEmergency) ∧
        b.dirtyAtLoss = (if y.emergency then y.dirtyAtEmergency else 0)) ∧
      (s.recovery.checkpoint = none → b.checkpointUsed = none ∧ b.segmentsRetired = 0 ∧ b.exposedAtLoss = false ∧
        b.dirtyAtLoss = 0) ∧
      (b.unlistedFailures = true ↔
        s.recovery.outcome = .clean ∧ ∃ m, s.recovery.mark = some m ∧ m.overflow = true) ∧
      (∀ i, i ∈ x.retired ↔ (u.seg i).state = .retired) ∧ x.failed = [] ∧
      (s.recovery.checkpoint = none → u.journal.nextSeq = 1 ∧ u.journal.head = 0 ∧ u.journal.format = 0 ∧
        u.journal.chain = [] ∧ u.txns.nextSerial = 1 ∧ ∀ i, u.seg i = Segment.freeForm) ∧
      (∀ f, s.Discards f → u.journal.sram.read (segBase f.seg + (f.off + 2)) = 2) ∧
      (∀ a, (∀ f, s.Discards f → a ≠ segBase f.seg + (f.off + 2)) →
        u.journal.sram.read a = s.journal.sram.read a) ∧
      b.liveEntries = s.foundAbove.countP (fun f => f.header.stateByte == 1 &&
        (f.header.serial == 0 || serialKept s.recovery.restored.head f.header.serial s.foundEntries)) ∧
      b.liveEntries + b.voidEntries = s.foundAbove.length ∧
      b.discardedTxns = (judgedSerials s.recovery.restored.head s.foundEntries).countP (fun n =>
        !serialKept s.recovery.restored.head n s.foundEntries) ∧
      b.sealedTxns + b.discardedTxns = (judgedSerials s.recovery.restored.head s.foundEntries).length ∧
      AbsentReported u.journal.head u.journal.nextSeq s.foundAbove b ∧
      ∃ m, Greatest s.handedStamps m ∧
        ClockDecision s.clock m ((s.recovery.checkpoint.map Checkpoint.clockValid).getD false) u.clock b.clockLost
end

