-- ==== Sys2Proof/Laws/State.lean ====
section
/-! SUPPORT. What each named update of State leaves and what it sets: the segment table, the channel table, the output, the
device timer.
-/
namespace Sys2Proof.Machine.State

@[simp] theorem seg_setSeg_same (s : State) (i : SegId) (x : Segment) : (s.setSeg i x).seg i = x := by
  simp [State.seg, State.setSeg]

theorem seg_setSeg_other (s : State) {i j : SegId} (x : Segment) (h : j ≠ i) : (s.setSeg i x).seg j = s.seg j := by
  have : i.val ≠ j.val := fun e => h (Fin.ext e.symm)
  simp [State.seg, State.setSeg, this]

@[simp] theorem chan_setChan_same (s : State) (c : ChanId) (x : Channel) : (s.setChan c x).chan c = x := by
  simp [State.chan, State.setChan]

theorem chan_setChan_other (s : State) {c d : ChanId} (x : Channel) (h : d ≠ c) :
    (s.setChan c x).chan d = s.chan d := by
  have : c.val ≠ d.val := fun e => h (Fin.ext e.symm)
  simp [State.chan, State.setChan, this]

@[simp] theorem seg_modSeg_same (s : State) (i : SegId) (f : Segment → Segment) :
    (s.modSeg i f).seg i = f (s.seg i) := by simp [State.modSeg]

theorem seg_modSeg_other (s : State) {i j : SegId} (f : Segment → Segment) (h : j ≠ i) :
    (s.modSeg i f).seg j = s.seg j := by simp [State.modSeg, seg_setSeg_other s _ h]

@[simp] theorem chan_modChan_same (s : State) (c : ChanId) (f : Channel → Channel) :
    (s.modChan c f).chan c = f (s.chan c) := by simp [State.modChan]

theorem chan_modChan_other (s : State) {c d : ChanId} (f : Channel → Channel) (h : d ≠ c) :
    (s.modChan c f).chan d = s.chan d := by simp [State.modChan, chan_setChan_other s _ h]

/-- A segment table built from a function holds its values. -/
@[simp] theorem getElem_buildSegs (f : SegId → Segment) (i : SegId) : (buildSegs f)[i] = f i := by
  simp [buildSegs, Vector.getElem_mk]

/-- A channel table built from a function holds its values. -/
@[simp] theorem getElem_buildChans (f : ChanId → Channel) (c : ChanId) : (buildChans f)[c] = f c := by
  simp [buildChans, Vector.getElem_mk]

end Sys2Proof.Machine.State
end

