-- ==== Sys2Proof/Laws/Frames.lean ====
section
/-! SUPPORT. The frame of each shared operation: one lemma per operation, naming every part of State that it leaves as it
was. A proof cites these and unfolds no operation.
-/
namespace Sys2Proof.Machine

/-- A fold of steps that keep a projection keeps it. -/
theorem foldl_keeps {α β : Type} (p : State → α) (f : State → β → State) (h : ∀ s x, p (f s x) = p s)
    (l : List β) (s : State) : p (l.foldl f s) = p s := by
  induction l generalizing s with
  | nil => rfl
  | cons x xs ih => rw [List.foldl_cons, ih, h]

@[simp] theorem setSeg_frame (i : SegId) (x : Segment) (s : State) :
    (s.setSeg i x).pending = s.pending ∧ (s.setSeg i x).now = s.now ∧ (s.setSeg i x).free = s.free ∧
    (s.setSeg i x).device = s.device ∧ (s.setSeg i x).window = s.window ∧ (s.setSeg i x).staging = s.staging ∧
    (s.setSeg i x).journal.chain = s.journal.chain ∧ (s.setSeg i x).journal.sram = s.journal.sram ∧
    (s.setSeg i x).journal.nextSeq = s.journal.nextSeq ∧ (s.setSeg i x).journal.head = s.journal.head ∧
    (s.setSeg i x).journal.format = s.journal.format ∧ (s.setSeg i x).journal.formatted = s.journal.formatted ∧
    (s.setSeg i x).journal.full = s.journal.full ∧ (s.setSeg i x).journal.readBuffers = s.journal.readBuffers ∧
    (s.setSeg i x).journal.readWaiters = s.journal.readWaiters ∧ (s.setSeg i x).txns = s.txns ∧
    (s.setSeg i x).budget = s.budget ∧ (s.setSeg i x).monitor = s.monitor ∧ (s.setSeg i x).store = s.store ∧
    (s.setSeg i x).array = s.array ∧ (s.setSeg i x).supply = s.supply ∧ (s.setSeg i x).clock = s.clock ∧
    (s.setSeg i x).recovery = s.recovery ∧ (s.setSeg i x).cc = s.cc ∧ (s.setSeg i x).out = s.out := by
  simp [State.setSeg]

@[simp] theorem setChan_frame (c : ChanId) (x : Channel) (s : State) :
    (s.setChan c x).pending = s.pending ∧ (s.setChan c x).now = s.now ∧ (s.setChan c x).free = s.free ∧
    (s.setChan c x).device = s.device ∧ (s.setChan c x).window = s.window ∧ (s.setChan c x).staging = s.staging ∧
    (s.setChan c x).journal = s.journal ∧ (s.setChan c x).txns = s.txns ∧ (s.setChan c x).budget = s.budget ∧
    (s.setChan c x).monitor = s.monitor ∧ (s.setChan c x).store = s.store ∧ (s.setChan c x).array = s.array ∧
    (s.setChan c x).supply = s.supply ∧ (s.setChan c x).clock = s.clock ∧ (s.setChan c x).recovery = s.recovery ∧
    (s.setChan c x).cc.fetch = s.cc.fetch ∧ (s.setChan c x).cc.lastServed = s.cc.lastServed ∧
    (s.setChan c x).cc.fetchPaused = s.cc.fetchPaused ∧ (s.setChan c x).cc.alerts = s.cc.alerts ∧
    (s.setChan c x).cc.alertWaiters = s.cc.alertWaiters ∧ (s.setChan c x).cc.posts = s.cc.posts ∧
    (s.setChan c x).cc.statusWrites = s.cc.statusWrites ∧ (s.setChan c x).out = s.out := by
  simp [State.setChan]

@[simp] theorem modSeg_frame (i : SegId) (f : Segment → Segment) (s : State) :
    (s.modSeg i f).pending = s.pending ∧ (s.modSeg i f).now = s.now ∧ (s.modSeg i f).free = s.free ∧
    (s.modSeg i f).device = s.device ∧ (s.modSeg i f).window = s.window ∧ (s.modSeg i f).staging = s.staging ∧
    (s.modSeg i f).journal.chain = s.journal.chain ∧ (s.modSeg i f).journal.sram = s.journal.sram ∧
    (s.modSeg i f).journal.nextSeq = s.journal.nextSeq ∧ (s.modSeg i f).journal.head = s.journal.head ∧
    (s.modSeg i f).journal.format = s.journal.format ∧ (s.modSeg i f).journal.formatted = s.journal.formatted ∧
    (s.modSeg i f).journal.full = s.journal.full ∧ (s.modSeg i f).journal.readBuffers = s.journal.readBuffers ∧
    (s.modSeg i f).journal.readWaiters = s.journal.readWaiters ∧ (s.modSeg i f).txns = s.txns ∧
    (s.modSeg i f).budget = s.budget ∧ (s.modSeg i f).monitor = s.monitor ∧ (s.modSeg i f).store = s.store ∧
    (s.modSeg i f).array = s.array ∧ (s.modSeg i f).supply = s.supply ∧ (s.modSeg i f).clock = s.clock ∧
    (s.modSeg i f).recovery = s.recovery ∧ (s.modSeg i f).cc = s.cc ∧ (s.modSeg i f).out = s.out := by
  simp [State.modSeg]

@[simp] theorem modChan_frame (c : ChanId) (f : Channel → Channel) (s : State) :
    (s.modChan c f).pending = s.pending ∧ (s.modChan c f).now = s.now ∧ (s.modChan c f).free = s.free ∧
    (s.modChan c f).device = s.device ∧ (s.modChan c f).window = s.window ∧ (s.modChan c f).staging = s.staging ∧
    (s.modChan c f).journal = s.journal ∧ (s.modChan c f).txns = s.txns ∧ (s.modChan c f).budget = s.budget ∧
    (s.modChan c f).monitor = s.monitor ∧ (s.modChan c f).store = s.store ∧ (s.modChan c f).array = s.array ∧
    (s.modChan c f).supply = s.supply ∧ (s.modChan c f).clock = s.clock ∧ (s.modChan c f).recovery = s.recovery ∧
    (s.modChan c f).cc.fetch = s.cc.fetch ∧ (s.modChan c f).cc.lastServed = s.cc.lastServed ∧
    (s.modChan c f).cc.fetchPaused = s.cc.fetchPaused ∧ (s.modChan c f).cc.alerts = s.cc.alerts ∧
    (s.modChan c f).cc.alertWaiters = s.cc.alertWaiters ∧ (s.modChan c f).cc.posts = s.cc.posts ∧
    (s.modChan c f).cc.statusWrites = s.cc.statusWrites ∧ (s.modChan c f).out = s.out := by
  simp [State.modChan]

@[simp] theorem emit_frame (a : LinkAction) (s : State) :
    (s.emit a).pending = s.pending ∧ (s.emit a).now = s.now ∧ (s.emit a).free = s.free ∧
    (s.emit a).device = s.device ∧ (s.emit a).window = s.window ∧ (s.emit a).staging = s.staging ∧
    (s.emit a).journal = s.journal ∧ (s.emit a).txns = s.txns ∧ (s.emit a).budget = s.budget ∧
    (s.emit a).monitor = s.monitor ∧ (s.emit a).store = s.store ∧ (s.emit a).array = s.array ∧
    (s.emit a).supply = s.supply ∧ (s.emit a).clock = s.clock ∧ (s.emit a).recovery = s.recovery ∧
    (s.emit a).cc = s.cc := by
  simp [State.emit]

@[simp] theorem reachTime_frame (t : Nat) (s : State) :
    (s.reachTime t).pending = s.pending ∧ (s.reachTime t).free = s.free ∧ (s.reachTime t).device = s.device ∧
    (s.reachTime t).window = s.window ∧ (s.reachTime t).staging = s.staging ∧ (s.reachTime t).journal = s.journal ∧
    (s.reachTime t).txns = s.txns ∧ (s.reachTime t).budget = s.budget ∧ (s.reachTime t).monitor = s.monitor ∧
    (s.reachTime t).store = s.store ∧ (s.reachTime t).array = s.array ∧ (s.reachTime t).supply = s.supply ∧
    (s.reachTime t).clock = s.clock ∧ (s.reachTime t).recovery = s.recovery ∧ (s.reachTime t).cc = s.cc ∧
    (s.reachTime t).out = s.out := by
  simp [State.reachTime]

@[simp] theorem sendInterrupt_frame (c : ChanId) (s : State) :
    (sendInterrupt c s).pending = s.pending ∧ (sendInterrupt c s).now = s.now ∧ (sendInterrupt c s).free = s.free ∧
    (sendInterrupt c s).device = s.device ∧ (sendInterrupt c s).window = s.window ∧
    (sendInterrupt c s).staging = s.staging ∧ (sendInterrupt c s).journal = s.journal ∧
    (sendInterrupt c s).txns = s.txns ∧ (sendInterrupt c s).budget = s.budget ∧
    (sendInterrupt c s).monitor = s.monitor ∧ (sendInterrupt c s).store = s.store ∧
    (sendInterrupt c s).array = s.array ∧ (sendInterrupt c s).supply = s.supply ∧
    (sendInterrupt c s).clock = s.clock ∧ (sendInterrupt c s).recovery = s.recovery ∧
    (sendInterrupt c s).cc.fetch = s.cc.fetch ∧ (sendInterrupt c s).cc.lastServed = s.cc.lastServed ∧
    (sendInterrupt c s).cc.fetchPaused = s.cc.fetchPaused ∧ (sendInterrupt c s).cc.alerts = s.cc.alerts ∧
    (sendInterrupt c s).cc.alertWaiters = s.cc.alertWaiters ∧ (sendInterrupt c s).cc.posts = s.cc.posts ∧
    (sendInterrupt c s).cc.statusWrites = s.cc.statusWrites := by
  simp [sendInterrupt]

@[simp] theorem coalesce_frame (c : ChanId) (s : State) :
    (coalesce c s).pending = s.pending ∧ (coalesce c s).now = s.now ∧ (coalesce c s).free = s.free ∧
    (coalesce c s).device = s.device ∧ (coalesce c s).window = s.window ∧ (coalesce c s).staging = s.staging ∧
    (coalesce c s).journal = s.journal ∧ (coalesce c s).txns = s.txns ∧ (coalesce c s).budget = s.budget ∧
    (coalesce c s).monitor = s.monitor ∧ (coalesce c s).store = s.store ∧ (coalesce c s).array = s.array ∧
    (coalesce c s).supply = s.supply ∧ (coalesce c s).clock = s.clock ∧ (coalesce c s).recovery = s.recovery ∧
    (coalesce c s).cc.fetch = s.cc.fetch ∧ (coalesce c s).cc.lastServed = s.cc.lastServed ∧
    (coalesce c s).cc.fetchPaused = s.cc.fetchPaused ∧ (coalesce c s).cc.alerts = s.cc.alerts ∧
    (coalesce c s).cc.alertWaiters = s.cc.alertWaiters ∧ (coalesce c s).cc.posts = s.cc.posts ∧
    (coalesce c s).cc.statusWrites = s.cc.statusWrites := by
  simp only [coalesce]
  (repeat' split) <;> simp

@[simp] theorem beginStatusWrite_frame (c : ChanId) (w : StatusPurpose) (addr : HostAddr) (bytes : List Byte) (s : State) :
    (beginStatusWrite c w addr bytes s).pending = s.pending ∧ (beginStatusWrite c w addr bytes s).now = s.now ∧
    (beginStatusWrite c w addr bytes s).free = s.free ∧ (beginStatusWrite c w addr bytes s).device = s.device ∧
    (beginStatusWrite c w addr bytes s).window = s.window ∧ (beginStatusWrite c w addr bytes s).staging = s.staging ∧
    (beginStatusWrite c w addr bytes s).journal = s.journal ∧ (beginStatusWrite c w addr bytes s).txns = s.txns ∧
    (beginStatusWrite c w addr bytes s).budget = s.budget ∧ (beginStatusWrite c w addr bytes s).monitor = s.monitor ∧
    (beginStatusWrite c w addr bytes s).store = s.store ∧ (beginStatusWrite c w addr bytes s).array = s.array ∧
    (beginStatusWrite c w addr bytes s).supply = s.supply ∧ (beginStatusWrite c w addr bytes s).clock = s.clock ∧
    (beginStatusWrite c w addr bytes s).recovery = s.recovery ∧
    (beginStatusWrite c w addr bytes s).cc.chans = s.cc.chans ∧
    (beginStatusWrite c w addr bytes s).cc.fetch = s.cc.fetch ∧
    (beginStatusWrite c w addr bytes s).cc.lastServed = s.cc.lastServed ∧
    (beginStatusWrite c w addr bytes s).cc.fetchPaused = s.cc.fetchPaused ∧
    (beginStatusWrite c w addr bytes s).cc.alerts = s.cc.alerts ∧
    (beginStatusWrite c w addr bytes s).cc.alertWaiters = s.cc.alertWaiters ∧
    (beginStatusWrite c w addr bytes s).cc.posts = s.cc.posts := by
  simp [beginStatusWrite]

@[simp] theorem writeStatus_frame (c : ChanId) (w : StatusPurpose) (s : State) :
    (writeStatus c w s).pending = s.pending ∧ (writeStatus c w s).now = s.now ∧ (writeStatus c w s).free = s.free ∧
    (writeStatus c w s).device = s.device ∧ (writeStatus c w s).window = s.window ∧
    (writeStatus c w s).staging = s.staging ∧ (writeStatus c w s).journal = s.journal ∧
    (writeStatus c w s).txns = s.txns ∧ (writeStatus c w s).budget = s.budget ∧
    (writeStatus c w s).monitor = s.monitor ∧ (writeStatus c w s).store = s.store ∧
    (writeStatus c w s).array = s.array ∧ (writeStatus c w s).supply = s.supply ∧
    (writeStatus c w s).clock = s.clock ∧ (writeStatus c w s).recovery = s.recovery ∧
    (writeStatus c w s).cc.chans = s.cc.chans ∧ (writeStatus c w s).cc.fetch = s.cc.fetch ∧
    (writeStatus c w s).cc.lastServed = s.cc.lastServed ∧ (writeStatus c w s).cc.fetchPaused = s.cc.fetchPaused ∧
    (writeStatus c w s).cc.alerts = s.cc.alerts ∧ (writeStatus c w s).cc.alertWaiters = s.cc.alertWaiters ∧
    (writeStatus c w s).cc.posts = s.cc.posts := by
  simp [writeStatus]

@[simp] theorem abandonTransfers_frame (s : State) :
    (abandonTransfers s).pending = s.pending ∧ (abandonTransfers s).now = s.now ∧
    (abandonTransfers s).device = s.device ∧ (abandonTransfers s).window = s.window ∧
    (abandonTransfers s).staging = s.staging ∧ (abandonTransfers s).journal = s.journal ∧
    (abandonTransfers s).txns = s.txns ∧ (abandonTransfers s).budget = s.budget ∧
    (abandonTransfers s).monitor = s.monitor ∧ (abandonTransfers s).store = s.store ∧
    (abandonTransfers s).array = s.array ∧ (abandonTransfers s).supply = s.supply ∧
    (abandonTransfers s).clock = s.clock ∧ (abandonTransfers s).recovery = s.recovery ∧ (abandonTransfers s).cc = s.cc := by
  simp [abandonTransfers]

@[simp] theorem modFirstPost_frame (c : ChanId) (f : Post → Post) (s : State) :
    (modFirstPost c f s).pending = s.pending ∧ (modFirstPost c f s).now = s.now ∧ (modFirstPost c f s).free = s.free ∧
    (modFirstPost c f s).device = s.device ∧ (modFirstPost c f s).window = s.window ∧
    (modFirstPost c f s).staging = s.staging ∧ (modFirstPost c f s).journal = s.journal ∧
    (modFirstPost c f s).txns = s.txns ∧ (modFirstPost c f s).budget = s.budget ∧
    (modFirstPost c f s).monitor = s.monitor ∧ (modFirstPost c f s).store = s.store ∧
    (modFirstPost c f s).array = s.array ∧ (modFirstPost c f s).supply = s.supply ∧
    (modFirstPost c f s).clock = s.clock ∧ (modFirstPost c f s).recovery = s.recovery ∧
    (modFirstPost c f s).cc.chans = s.cc.chans ∧ (modFirstPost c f s).cc.fetch = s.cc.fetch ∧
    (modFirstPost c f s).cc.lastServed = s.cc.lastServed ∧ (modFirstPost c f s).cc.fetchPaused = s.cc.fetchPaused ∧
    (modFirstPost c f s).cc.alerts = s.cc.alerts ∧ (modFirstPost c f s).cc.alertWaiters = s.cc.alertWaiters ∧
    (modFirstPost c f s).cc.statusWrites = s.cc.statusWrites ∧ (modFirstPost c f s).out = s.out := by
  simp [modFirstPost]

@[simp] theorem beginRecordWrite_frame (c : ChanId) (s : State) :
    (beginRecordWrite c s).pending = s.pending ∧ (beginRecordWrite c s).now = s.now ∧
    (beginRecordWrite c s).free = s.free ∧ (beginRecordWrite c s).device = s.device ∧
    (beginRecordWrite c s).window = s.window ∧ (beginRecordWrite c s).staging = s.staging ∧
    (beginRecordWrite c s).journal = s.journal ∧ (beginRecordWrite c s).txns = s.txns ∧
    (beginRecordWrite c s).budget = s.budget ∧ (beginRecordWrite c s).monitor = s.monitor ∧
    (beginRecordWrite c s).store = s.store ∧ (beginRecordWrite c s).array = s.array ∧
    (beginRecordWrite c s).supply = s.supply ∧ (beginRecordWrite c s).clock = s.clock ∧
    (beginRecordWrite c s).recovery = s.recovery ∧ (beginRecordWrite c s).cc.chans = s.cc.chans ∧
    (beginRecordWrite c s).cc.fetch = s.cc.fetch ∧ (beginRecordWrite c s).cc.lastServed = s.cc.lastServed ∧
    (beginRecordWrite c s).cc.fetchPaused = s.cc.fetchPaused ∧ (beginRecordWrite c s).cc.alerts = s.cc.alerts ∧
    (beginRecordWrite c s).cc.alertWaiters = s.cc.alertWaiters ∧
    (beginRecordWrite c s).cc.statusWrites = s.cc.statusWrites := by
  simp only [beginRecordWrite]
  (repeat' split) <;> simp

@[simp] theorem takeSlot_frame (c : ChanId) (x : Completion) (s : State) :
    (takeSlot c x s).pending = s.pending ∧ (takeSlot c x s).now = s.now ∧ (takeSlot c x s).free = s.free ∧
    (takeSlot c x s).device = s.device ∧ (takeSlot c x s).window = s.window ∧ (takeSlot c x s).staging = s.staging ∧
    (takeSlot c x s).journal = s.journal ∧ (takeSlot c x s).txns = s.txns ∧ (takeSlot c x s).budget = s.budget ∧
    (takeSlot c x s).monitor = s.monitor ∧ (takeSlot c x s).store = s.store ∧ (takeSlot c x s).array = s.array ∧
    (takeSlot c x s).supply = s.supply ∧ (takeSlot c x s).clock = s.clock ∧ (takeSlot c x s).recovery = s.recovery ∧
    (takeSlot c x s).cc.fetch = s.cc.fetch ∧ (takeSlot c x s).cc.lastServed = s.cc.lastServed ∧
    (takeSlot c x s).cc.fetchPaused = s.cc.fetchPaused ∧ (takeSlot c x s).cc.alerts = s.cc.alerts ∧
    (takeSlot c x s).cc.alertWaiters = s.cc.alertWaiters ∧ (takeSlot c x s).cc.statusWrites = s.cc.statusWrites := by
  simp only [takeSlot]
  (repeat' split) <;> simp

@[simp] theorem detachPosts_frame (c : ChanId) (s : State) :
    (detachPosts c s).pending = s.pending ∧ (detachPosts c s).now = s.now ∧ (detachPosts c s).free = s.free ∧
    (detachPosts c s).device = s.device ∧ (detachPosts c s).window = s.window ∧
    (detachPosts c s).staging = s.staging ∧ (detachPosts c s).journal = s.journal ∧ (detachPosts c s).txns = s.txns ∧
    (detachPosts c s).budget = s.budget ∧ (detachPosts c s).monitor = s.monitor ∧ (detachPosts c s).store = s.store ∧
    (detachPosts c s).array = s.array ∧ (detachPosts c s).supply = s.supply ∧ (detachPosts c s).clock = s.clock ∧
    (detachPosts c s).recovery = s.recovery ∧ (detachPosts c s).cc.chans = s.cc.chans ∧
    (detachPosts c s).cc.fetch = s.cc.fetch ∧ (detachPosts c s).cc.lastServed = s.cc.lastServed ∧
    (detachPosts c s).cc.fetchPaused = s.cc.fetchPaused ∧ (detachPosts c s).cc.alerts = s.cc.alerts ∧
    (detachPosts c s).cc.alertWaiters = s.cc.alertWaiters ∧ (detachPosts c s).out = s.out := by
  simp [detachPosts]

@[simp] theorem abandonPosts_frame (c : ChanId) (s : State) :
    (abandonPosts c s).pending = s.pending ∧ (abandonPosts c s).now = s.now ∧ (abandonPosts c s).free = s.free ∧
    (abandonPosts c s).device = s.device ∧ (abandonPosts c s).window = s.window ∧
    (abandonPosts c s).staging = s.staging ∧ (abandonPosts c s).journal = s.journal ∧
    (abandonPosts c s).txns = s.txns ∧ (abandonPosts c s).budget = s.budget ∧ (abandonPosts c s).monitor = s.monitor ∧
    (abandonPosts c s).store = s.store ∧ (abandonPosts c s).array = s.array ∧ (abandonPosts c s).supply = s.supply ∧
    (abandonPosts c s).clock = s.clock ∧ (abandonPosts c s).recovery = s.recovery ∧
    (abandonPosts c s).cc.chans = s.cc.chans ∧ (abandonPosts c s).cc.fetch = s.cc.fetch ∧
    (abandonPosts c s).cc.lastServed = s.cc.lastServed ∧ (abandonPosts c s).cc.fetchPaused = s.cc.fetchPaused ∧
    (abandonPosts c s).cc.alerts = s.cc.alerts ∧ (abandonPosts c s).cc.alertWaiters = s.cc.alertWaiters ∧
    (abandonPosts c s).out = s.out := by
  simp [abandonPosts]

@[simp] theorem closeDrained_frame (c : ChanId) (s : State) :
    (closeDrained c s).pending = s.pending ∧ (closeDrained c s).now = s.now ∧ (closeDrained c s).free = s.free ∧
    (closeDrained c s).device = s.device ∧ (closeDrained c s).window = s.window ∧
    (closeDrained c s).staging = s.staging ∧ (closeDrained c s).journal = s.journal ∧
    (closeDrained c s).txns = s.txns ∧ (closeDrained c s).budget = s.budget ∧ (closeDrained c s).monitor = s.monitor ∧
    (closeDrained c s).store = s.store ∧ (closeDrained c s).array = s.array ∧ (closeDrained c s).supply = s.supply ∧
    (closeDrained c s).clock = s.clock ∧ (closeDrained c s).recovery = s.recovery ∧
    (closeDrained c s).cc.fetch = s.cc.fetch ∧ (closeDrained c s).cc.lastServed = s.cc.lastServed ∧
    (closeDrained c s).cc.fetchPaused = s.cc.fetchPaused ∧ (closeDrained c s).cc.alerts = s.cc.alerts ∧
    (closeDrained c s).cc.alertWaiters = s.cc.alertWaiters := by
  simp only [closeDrained]
  (repeat' split) <;> simp

@[simp] theorem drainCheck_frame (c : ChanId) (s : State) :
    (drainCheck c s).pending = s.pending ∧ (drainCheck c s).now = s.now ∧ (drainCheck c s).free = s.free ∧
    (drainCheck c s).device = s.device ∧ (drainCheck c s).window = s.window ∧ (drainCheck c s).staging = s.staging ∧
    (drainCheck c s).journal = s.journal ∧ (drainCheck c s).txns = s.txns ∧ (drainCheck c s).budget = s.budget ∧
    (drainCheck c s).monitor = s.monitor ∧ (drainCheck c s).store = s.store ∧ (drainCheck c s).array = s.array ∧
    (drainCheck c s).supply = s.supply ∧ (drainCheck c s).clock = s.clock ∧ (drainCheck c s).recovery = s.recovery ∧
    (drainCheck c s).cc.fetch = s.cc.fetch ∧ (drainCheck c s).cc.lastServed = s.cc.lastServed ∧
    (drainCheck c s).cc.fetchPaused = s.cc.fetchPaused ∧ (drainCheck c s).cc.alerts = s.cc.alerts ∧
    (drainCheck c s).cc.alertWaiters = s.cc.alertWaiters := by
  simp only [drainCheck]
  (repeat' split) <;> simp

@[simp] theorem handCompletion_frame (c : ChanId) (x : Completion) (s : State) :
    (handCompletion c x s).pending = s.pending ∧ (handCompletion c x s).now = s.now ∧
    (handCompletion c x s).free = s.free ∧ (handCompletion c x s).device = s.device ∧
    (handCompletion c x s).window = s.window ∧ (handCompletion c x s).staging = s.staging ∧
    (handCompletion c x s).journal = s.journal ∧ (handCompletion c x s).txns = s.txns ∧
    (handCompletion c x s).budget = s.budget ∧ (handCompletion c x s).monitor = s.monitor ∧
    (handCompletion c x s).store = s.store ∧ (handCompletion c x s).array = s.array ∧
    (handCompletion c x s).supply = s.supply ∧ (handCompletion c x s).clock = s.clock ∧
    (handCompletion c x s).recovery = s.recovery ∧ (handCompletion c x s).cc.fetch = s.cc.fetch ∧
    (handCompletion c x s).cc.lastServed = s.cc.lastServed ∧
    (handCompletion c x s).cc.fetchPaused = s.cc.fetchPaused ∧ (handCompletion c x s).cc.alerts = s.cc.alerts ∧
    (handCompletion c x s).cc.alertWaiters = s.cc.alertWaiters := by
  simp [handCompletion]

@[simp] theorem postAlert_frame (k : AlertKind) (n d : Nat) (s : State) :
    (postAlert k n d s).pending = s.pending ∧ (postAlert k n d s).now = s.now ∧ (postAlert k n d s).free = s.free ∧
    (postAlert k n d s).device = s.device ∧ (postAlert k n d s).window = s.window ∧
    (postAlert k n d s).staging = s.staging ∧ (postAlert k n d s).journal = s.journal ∧
    (postAlert k n d s).txns = s.txns ∧ (postAlert k n d s).budget = s.budget ∧
    (postAlert k n d s).monitor = s.monitor ∧ (postAlert k n d s).store = s.store ∧
    (postAlert k n d s).array = s.array ∧ (postAlert k n d s).supply = s.supply ∧
    (postAlert k n d s).clock = s.clock ∧ (postAlert k n d s).recovery = s.recovery ∧
    (postAlert k n d s).cc.fetch = s.cc.fetch ∧ (postAlert k n d s).cc.lastServed = s.cc.lastServed ∧
    (postAlert k n d s).cc.fetchPaused = s.cc.fetchPaused ∧ (postAlert k n d s).cc.statusWrites = s.cc.statusWrites := by
  simp only [postAlert]
  (repeat' split) <;> simp

@[simp] theorem fetchArbiter_frame (s : State) :
    (fetchArbiter s).pending = s.pending ∧ (fetchArbiter s).now = s.now ∧ (fetchArbiter s).free = s.free ∧
    (fetchArbiter s).device = s.device ∧ (fetchArbiter s).window = s.window ∧ (fetchArbiter s).staging = s.staging ∧
    (fetchArbiter s).journal = s.journal ∧ (fetchArbiter s).txns = s.txns ∧ (fetchArbiter s).budget = s.budget ∧
    (fetchArbiter s).monitor = s.monitor ∧ (fetchArbiter s).store = s.store ∧ (fetchArbiter s).array = s.array ∧
    (fetchArbiter s).supply = s.supply ∧ (fetchArbiter s).clock = s.clock ∧ (fetchArbiter s).recovery = s.recovery ∧
    (fetchArbiter s).cc.fetchPaused = s.cc.fetchPaused ∧ (fetchArbiter s).cc.alerts = s.cc.alerts ∧
    (fetchArbiter s).cc.alertWaiters = s.cc.alertWaiters ∧ (fetchArbiter s).cc.posts = s.cc.posts ∧
    (fetchArbiter s).cc.statusWrites = s.cc.statusWrites := by
  simp only [fetchArbiter]
  (repeat' split) <;> simp

@[simp] theorem queueSeg_frame (i : SegId) (s : State) :
    (queueSeg i s).pending = s.pending ∧ (queueSeg i s).now = s.now ∧ (queueSeg i s).free = s.free ∧
    (queueSeg i s).device = s.device ∧ (queueSeg i s).window = s.window ∧ (queueSeg i s).staging = s.staging ∧
    (queueSeg i s).journal = s.journal ∧ (queueSeg i s).txns = s.txns ∧ (queueSeg i s).budget = s.budget ∧
    (queueSeg i s).monitor = s.monitor ∧ (queueSeg i s).store.op = s.store.op ∧
    (queueSeg i s).store.storedThrough = s.store.storedThrough ∧ (queueSeg i s).store.waiting = s.store.waiting ∧
    (queueSeg i s).store.reservationWaiters = s.store.reservationWaiters ∧
    (queueSeg i s).store.metadataDirty = s.store.metadataDirty ∧
    (queueSeg i s).store.jobsSinceDirty = s.store.jobsSinceDirty ∧ (queueSeg i s).store.newest = s.store.newest ∧
    (queueSeg i s).store.idleDelay = s.store.idleDelay ∧ (queueSeg i s).store.idleTimer = s.store.idleTimer ∧
    (queueSeg i s).store.lineStore = s.store.lineStore ∧ (queueSeg i s).store.phase = s.store.phase ∧
    (queueSeg i s).store.storedCount = s.store.storedCount ∧ (queueSeg i s).store.failedList = s.store.failedList ∧
    (queueSeg i s).store.failedOverflow = s.store.failedOverflow ∧
    (queueSeg i s).store.emergencyGeneration = s.store.emergencyGeneration ∧
    (queueSeg i s).store.handedD = s.store.handedD ∧ (queueSeg i s).store.handedExposed = s.store.handedExposed ∧
    (queueSeg i s).array = s.array ∧ (queueSeg i s).supply = s.supply ∧ (queueSeg i s).clock = s.clock ∧
    (queueSeg i s).recovery = s.recovery ∧ (queueSeg i s).cc = s.cc ∧ (queueSeg i s).out = s.out := by
  simp only [queueSeg]
  (repeat' split) <;> simp

@[simp] theorem queueOpen_frame (s : State) :
    (queueOpen s).pending = s.pending ∧ (queueOpen s).now = s.now ∧ (queueOpen s).free = s.free ∧
    (queueOpen s).device = s.device ∧ (queueOpen s).window = s.window ∧ (queueOpen s).staging = s.staging ∧
    (queueOpen s).journal = s.journal ∧ (queueOpen s).txns = s.txns ∧ (queueOpen s).budget = s.budget ∧
    (queueOpen s).monitor = s.monitor ∧ (queueOpen s).store.op = s.store.op ∧
    (queueOpen s).store.storedThrough = s.store.storedThrough ∧ (queueOpen s).store.waiting = s.store.waiting ∧
    (queueOpen s).store.reservationWaiters = s.store.reservationWaiters ∧
    (queueOpen s).store.metadataDirty = s.store.metadataDirty ∧
    (queueOpen s).store.jobsSinceDirty = s.store.jobsSinceDirty ∧ (queueOpen s).store.newest = s.store.newest ∧
    (queueOpen s).store.idleDelay = s.store.idleDelay ∧ (queueOpen s).store.idleTimer = s.store.idleTimer ∧
    (queueOpen s).store.lineStore = s.store.lineStore ∧ (queueOpen s).store.phase = s.store.phase ∧
    (queueOpen s).store.storedCount = s.store.storedCount ∧ (queueOpen s).store.failedList = s.store.failedList ∧
    (queueOpen s).store.failedOverflow = s.store.failedOverflow ∧
    (queueOpen s).store.emergencyGeneration = s.store.emergencyGeneration ∧
    (queueOpen s).store.handedD = s.store.handedD ∧ (queueOpen s).store.handedExposed = s.store.handedExposed ∧
    (queueOpen s).array = s.array ∧ (queueOpen s).supply = s.supply ∧ (queueOpen s).clock = s.clock ∧
    (queueOpen s).recovery = s.recovery ∧ (queueOpen s).cc = s.cc ∧ (queueOpen s).out = s.out := by
  simp only [queueOpen]
  (repeat' split) <;> simp

@[simp] theorem advanceCopy_frame (i : SegId) (s : State) :
    (advanceCopy i s).pending = s.pending ∧ (advanceCopy i s).now = s.now ∧ (advanceCopy i s).device = s.device ∧
    (advanceCopy i s).window = s.window ∧ (advanceCopy i s).staging = s.staging ∧
    (advanceCopy i s).journal = s.journal ∧ (advanceCopy i s).txns = s.txns ∧ (advanceCopy i s).budget = s.budget ∧
    (advanceCopy i s).monitor = s.monitor ∧ (advanceCopy i s).store.queue = s.store.queue ∧
    (advanceCopy i s).store.storedThrough = s.store.storedThrough ∧
    (advanceCopy i s).store.waiting = s.store.waiting ∧
    (advanceCopy i s).store.reservationWaiters = s.store.reservationWaiters ∧
    (advanceCopy i s).store.metadataDirty = s.store.metadataDirty ∧
    (advanceCopy i s).store.jobsSinceDirty = s.store.jobsSinceDirty ∧
    (advanceCopy i s).store.newest = s.store.newest ∧ (advanceCopy i s).store.idleDelay = s.store.idleDelay ∧
    (advanceCopy i s).store.idleTimer = s.store.idleTimer ∧ (advanceCopy i s).store.lineStore = s.store.lineStore ∧
    (advanceCopy i s).store.phase = s.store.phase ∧ (advanceCopy i s).store.storedCount = s.store.storedCount ∧
    (advanceCopy i s).store.failedList = s.store.failedList ∧
    (advanceCopy i s).store.failedOverflow = s.store.failedOverflow ∧
    (advanceCopy i s).store.emergencyGeneration = s.store.emergencyGeneration ∧
    (advanceCopy i s).store.handedD = s.store.handedD ∧
    (advanceCopy i s).store.handedExposed = s.store.handedExposed ∧ (advanceCopy i s).array.slotA = s.array.slotA ∧
    (advanceCopy i s).array.slotB = s.array.slotB ∧ (advanceCopy i s).array.closing = s.array.closing ∧
    (advanceCopy i s).supply = s.supply ∧ (advanceCopy i s).clock = s.clock ∧
    (advanceCopy i s).recovery = s.recovery ∧ (advanceCopy i s).cc = s.cc ∧ (advanceCopy i s).out = s.out := by
  simp only [advanceCopy]
  (repeat' split) <;> simp

@[simp] theorem writeSegment_frame (i : SegId) (off : Nat) (bytes : List Byte) (s : State) :
    (writeSegment i off bytes s).pending = s.pending ∧ (writeSegment i off bytes s).now = s.now ∧
    (writeSegment i off bytes s).device = s.device ∧ (writeSegment i off bytes s).window = s.window ∧
    (writeSegment i off bytes s).staging = s.staging ∧ (writeSegment i off bytes s).journal.segs = s.journal.segs ∧
    (writeSegment i off bytes s).journal.chain = s.journal.chain ∧
    (writeSegment i off bytes s).journal.nextSeq = s.journal.nextSeq ∧
    (writeSegment i off bytes s).journal.head = s.journal.head ∧
    (writeSegment i off bytes s).journal.format = s.journal.format ∧
    (writeSegment i off bytes s).journal.formatted = s.journal.formatted ∧
    (writeSegment i off bytes s).journal.full = s.journal.full ∧
    (writeSegment i off bytes s).journal.readBuffers = s.journal.readBuffers ∧
    (writeSegment i off bytes s).journal.readWaiters = s.journal.readWaiters ∧
    (writeSegment i off bytes s).txns = s.txns ∧ (writeSegment i off bytes s).budget = s.budget ∧
    (writeSegment i off bytes s).monitor = s.monitor ∧ (writeSegment i off bytes s).store.queue = s.store.queue ∧
    (writeSegment i off bytes s).store.storedThrough = s.store.storedThrough ∧
    (writeSegment i off bytes s).store.waiting = s.store.waiting ∧
    (writeSegment i off bytes s).store.reservationWaiters = s.store.reservationWaiters ∧
    (writeSegment i off bytes s).store.metadataDirty = s.store.metadataDirty ∧
    (writeSegment i off bytes s).store.jobsSinceDirty = s.store.jobsSinceDirty ∧
    (writeSegment i off bytes s).store.newest = s.store.newest ∧
    (writeSegment i off bytes s).store.idleDelay = s.store.idleDelay ∧
    (writeSegment i off bytes s).store.idleTimer = s.store.idleTimer ∧
    (writeSegment i off bytes s).store.lineStore = s.store.lineStore ∧
    (writeSegment i off bytes s).store.phase = s.store.phase ∧
    (writeSegment i off bytes s).store.storedCount = s.store.storedCount ∧
    (writeSegment i off bytes s).store.failedList = s.store.failedList ∧
    (writeSegment i off bytes s).store.failedOverflow = s.store.failedOverflow ∧
    (writeSegment i off bytes s).store.emergencyGeneration = s.store.emergencyGeneration ∧
    (writeSegment i off bytes s).store.handedD = s.store.handedD ∧
    (writeSegment i off bytes s).store.handedExposed = s.store.handedExposed ∧
    (writeSegment i off bytes s).array.slotA = s.array.slotA ∧
    (writeSegment i off bytes s).array.slotB = s.array.slotB ∧
    (writeSegment i off bytes s).array.closing = s.array.closing ∧ (writeSegment i off bytes s).supply = s.supply ∧
    (writeSegment i off bytes s).clock = s.clock ∧ (writeSegment i off bytes s).recovery = s.recovery ∧
    (writeSegment i off bytes s).cc = s.cc ∧ (writeSegment i off bytes s).out = s.out := by
  simp [writeSegment]

@[simp] theorem finishCopy_frame (i : SegId) (w : Nat) (s : State) :
    (finishCopy i w s).pending = s.pending ∧ (finishCopy i w s).now = s.now ∧ (finishCopy i w s).free = s.free ∧
    (finishCopy i w s).device = s.device ∧ (finishCopy i w s).window = s.window ∧
    (finishCopy i w s).staging = s.staging ∧ (finishCopy i w s).journal = s.journal ∧
    (finishCopy i w s).txns = s.txns ∧ (finishCopy i w s).budget = s.budget ∧ (finishCopy i w s).monitor = s.monitor ∧
    (finishCopy i w s).store = s.store ∧ (finishCopy i w s).array.slotA = s.array.slotA ∧
    (finishCopy i w s).array.slotB = s.array.slotB ∧ (finishCopy i w s).array.closing = s.array.closing ∧
    (finishCopy i w s).supply = s.supply ∧ (finishCopy i w s).clock = s.clock ∧
    (finishCopy i w s).recovery = s.recovery ∧ (finishCopy i w s).cc = s.cc ∧ (finishCopy i w s).out = s.out := by
  simp [finishCopy]

@[simp] theorem spoilShadow_frame (i : SegId) (s : State) :
    (spoilShadow i s).pending = s.pending ∧ (spoilShadow i s).now = s.now ∧ (spoilShadow i s).device = s.device ∧
    (spoilShadow i s).window = s.window ∧ (spoilShadow i s).staging = s.staging ∧
    (spoilShadow i s).journal = s.journal ∧ (spoilShadow i s).txns = s.txns ∧ (spoilShadow i s).budget = s.budget ∧
    (spoilShadow i s).monitor = s.monitor ∧ (spoilShadow i s).store = s.store ∧
    (spoilShadow i s).array.slotA = s.array.slotA ∧ (spoilShadow i s).array.slotB = s.array.slotB ∧
    (spoilShadow i s).array.closing = s.array.closing ∧ (spoilShadow i s).supply = s.supply ∧
    (spoilShadow i s).clock = s.clock ∧ (spoilShadow i s).recovery = s.recovery ∧ (spoilShadow i s).cc = s.cc ∧
    (spoilShadow i s).out = s.out := by
  simp [spoilShadow]

@[simp] theorem completeWaiter_frame (status : Status) (s : State) (w : Waiter) :
    (completeWaiter status s w).pending = s.pending ∧ (completeWaiter status s w).now = s.now ∧
    (completeWaiter status s w).free = s.free ∧ (completeWaiter status s w).device = s.device ∧
    (completeWaiter status s w).window = s.window ∧ (completeWaiter status s w).staging = s.staging ∧
    (completeWaiter status s w).journal = s.journal ∧ (completeWaiter status s w).txns = s.txns ∧
    (completeWaiter status s w).budget = s.budget ∧ (completeWaiter status s w).monitor = s.monitor ∧
    (completeWaiter status s w).store = s.store ∧ (completeWaiter status s w).array = s.array ∧
    (completeWaiter status s w).supply = s.supply ∧ (completeWaiter status s w).clock = s.clock ∧
    (completeWaiter status s w).recovery = s.recovery ∧ (completeWaiter status s w).cc.fetch = s.cc.fetch ∧
    (completeWaiter status s w).cc.lastServed = s.cc.lastServed ∧
    (completeWaiter status s w).cc.fetchPaused = s.cc.fetchPaused ∧
    (completeWaiter status s w).cc.alerts = s.cc.alerts ∧
    (completeWaiter status s w).cc.alertWaiters = s.cc.alertWaiters := by
  simp [completeWaiter]

@[simp] theorem finishWaiters_frame (p : Waiter → Bool) (status : Status) (s : State) :
    (finishWaiters p status s).pending = s.pending ∧ (finishWaiters p status s).now = s.now ∧
    (finishWaiters p status s).free = s.free ∧ (finishWaiters p status s).device = s.device ∧
    (finishWaiters p status s).window = s.window ∧ (finishWaiters p status s).staging = s.staging ∧
    (finishWaiters p status s).journal = s.journal ∧ (finishWaiters p status s).txns = s.txns ∧
    (finishWaiters p status s).budget = s.budget ∧ (finishWaiters p status s).monitor = s.monitor ∧
    (finishWaiters p status s).store.queue = s.store.queue ∧ (finishWaiters p status s).store.op = s.store.op ∧
    (finishWaiters p status s).store.storedThrough = s.store.storedThrough ∧
    (finishWaiters p status s).store.reservationWaiters = s.store.reservationWaiters ∧
    (finishWaiters p status s).store.metadataDirty = s.store.metadataDirty ∧
    (finishWaiters p status s).store.jobsSinceDirty = s.store.jobsSinceDirty ∧
    (finishWaiters p status s).store.newest = s.store.newest ∧
    (finishWaiters p status s).store.idleDelay = s.store.idleDelay ∧
    (finishWaiters p status s).store.idleTimer = s.store.idleTimer ∧
    (finishWaiters p status s).store.lineStore = s.store.lineStore ∧
    (finishWaiters p status s).store.phase = s.store.phase ∧
    (finishWaiters p status s).store.storedCount = s.store.storedCount ∧
    (finishWaiters p status s).store.failedList = s.store.failedList ∧
    (finishWaiters p status s).store.failedOverflow = s.store.failedOverflow ∧
    (finishWaiters p status s).store.emergencyGeneration = s.store.emergencyGeneration ∧
    (finishWaiters p status s).store.handedD = s.store.handedD ∧
    (finishWaiters p status s).store.handedExposed = s.store.handedExposed ∧
    (finishWaiters p status s).array = s.array ∧ (finishWaiters p status s).supply = s.supply ∧
    (finishWaiters p status s).clock = s.clock ∧ (finishWaiters p status s).recovery = s.recovery ∧
    (finishWaiters p status s).cc.fetch = s.cc.fetch ∧ (finishWaiters p status s).cc.lastServed = s.cc.lastServed ∧
    (finishWaiters p status s).cc.fetchPaused = s.cc.fetchPaused ∧
    (finishWaiters p status s).cc.alerts = s.cc.alerts ∧
    (finishWaiters p status s).cc.alertWaiters = s.cc.alertWaiters := by
  have h := foldl_keeps (fun s : State => (s.pending, s.now, s.free, s.device, s.window, s.staging, s.journal, s.txns, s.budget, s.monitor, s.store.queue, s.store.op, s.store.storedThrough, s.store.reservationWaiters, s.store.metadataDirty, s.store.jobsSinceDirty, s.store.newest, s.store.idleDelay, s.store.idleTimer, s.store.lineStore, s.store.phase, s.store.storedCount, s.store.failedList, s.store.failedOverflow, s.store.emergencyGeneration, s.store.handedD, s.store.handedExposed, s.array, s.supply, s.clock, s.recovery, s.cc.fetch, s.cc.lastServed, s.cc.fetchPaused, s.cc.alerts, s.cc.alertWaiters))
    (completeWaiter status) (fun s x => by simp) (s.store.waiting.filter p)
    { s with store.waiting := s.store.waiting.filter (fun w => !p w) }
  simpa only [finishWaiters, Prod.mk.injEq] using h

@[simp] theorem recomputeS_frame (s : State) :
    (recomputeS s).pending = s.pending ∧ (recomputeS s).now = s.now ∧ (recomputeS s).free = s.free ∧
    (recomputeS s).device = s.device ∧ (recomputeS s).window = s.window ∧ (recomputeS s).staging = s.staging ∧
    (recomputeS s).journal = s.journal ∧ (recomputeS s).txns = s.txns ∧ (recomputeS s).budget = s.budget ∧
    (recomputeS s).monitor = s.monitor ∧ (recomputeS s).store.queue = s.store.queue ∧
    (recomputeS s).store.op = s.store.op ∧ (recomputeS s).store.reservationWaiters = s.store.reservationWaiters ∧
    (recomputeS s).store.metadataDirty = s.store.metadataDirty ∧
    (recomputeS s).store.jobsSinceDirty = s.store.jobsSinceDirty ∧ (recomputeS s).store.newest = s.store.newest ∧
    (recomputeS s).store.idleDelay = s.store.idleDelay ∧ (recomputeS s).store.idleTimer = s.store.idleTimer ∧
    (recomputeS s).store.lineStore = s.store.lineStore ∧ (recomputeS s).store.phase = s.store.phase ∧
    (recomputeS s).store.storedCount = s.store.storedCount ∧ (recomputeS s).store.failedList = s.store.failedList ∧
    (recomputeS s).store.failedOverflow = s.store.failedOverflow ∧
    (recomputeS s).store.emergencyGeneration = s.store.emergencyGeneration ∧
    (recomputeS s).store.handedD = s.store.handedD ∧ (recomputeS s).store.handedExposed = s.store.handedExposed ∧
    (recomputeS s).array = s.array ∧ (recomputeS s).supply = s.supply ∧ (recomputeS s).clock = s.clock ∧
    (recomputeS s).recovery = s.recovery ∧ (recomputeS s).cc.fetch = s.cc.fetch ∧
    (recomputeS s).cc.lastServed = s.cc.lastServed ∧ (recomputeS s).cc.fetchPaused = s.cc.fetchPaused ∧
    (recomputeS s).cc.alerts = s.cc.alerts ∧ (recomputeS s).cc.alertWaiters = s.cc.alertWaiters := by
  simp only [recomputeS]
  (repeat' split) <;> simp

@[simp] theorem fillWaiter_frame (w : Waiter) (s : State) :
    (fillWaiter w s).pending = s.pending ∧ (fillWaiter w s).now = s.now ∧ (fillWaiter w s).free = s.free ∧
    (fillWaiter w s).device = s.device ∧ (fillWaiter w s).window = s.window ∧ (fillWaiter w s).staging = s.staging ∧
    (fillWaiter w s).journal = s.journal ∧ (fillWaiter w s).txns = s.txns ∧ (fillWaiter w s).budget = s.budget ∧
    (fillWaiter w s).monitor = s.monitor ∧ (fillWaiter w s).store.op = s.store.op ∧
    (fillWaiter w s).store.storedThrough = s.store.storedThrough ∧
    (fillWaiter w s).store.reservationWaiters = s.store.reservationWaiters ∧
    (fillWaiter w s).store.metadataDirty = s.store.metadataDirty ∧
    (fillWaiter w s).store.jobsSinceDirty = s.store.jobsSinceDirty ∧ (fillWaiter w s).store.newest = s.store.newest ∧
    (fillWaiter w s).store.idleDelay = s.store.idleDelay ∧ (fillWaiter w s).store.idleTimer = s.store.idleTimer ∧
    (fillWaiter w s).store.lineStore = s.store.lineStore ∧ (fillWaiter w s).store.phase = s.store.phase ∧
    (fillWaiter w s).store.storedCount = s.store.storedCount ∧
    (fillWaiter w s).store.failedList = s.store.failedList ∧
    (fillWaiter w s).store.failedOverflow = s.store.failedOverflow ∧
    (fillWaiter w s).store.emergencyGeneration = s.store.emergencyGeneration ∧
    (fillWaiter w s).store.handedD = s.store.handedD ∧ (fillWaiter w s).store.handedExposed = s.store.handedExposed ∧
    (fillWaiter w s).array = s.array ∧ (fillWaiter w s).supply = s.supply ∧ (fillWaiter w s).clock = s.clock ∧
    (fillWaiter w s).recovery = s.recovery ∧ (fillWaiter w s).cc = s.cc ∧ (fillWaiter w s).out = s.out := by
  simp only [fillWaiter]
  (repeat' split) <;> simp

@[simp] theorem setMetadataDirty_frame (s : State) :
    (setMetadataDirty s).pending = s.pending ∧ (setMetadataDirty s).now = s.now ∧ (setMetadataDirty s).free = s.free ∧
    (setMetadataDirty s).device = s.device ∧ (setMetadataDirty s).window = s.window ∧
    (setMetadataDirty s).staging = s.staging ∧ (setMetadataDirty s).journal = s.journal ∧
    (setMetadataDirty s).txns = s.txns ∧ (setMetadataDirty s).budget = s.budget ∧
    (setMetadataDirty s).monitor = s.monitor ∧ (setMetadataDirty s).store.queue = s.store.queue ∧
    (setMetadataDirty s).store.op = s.store.op ∧ (setMetadataDirty s).store.storedThrough = s.store.storedThrough ∧
    (setMetadataDirty s).store.waiting = s.store.waiting ∧
    (setMetadataDirty s).store.reservationWaiters = s.store.reservationWaiters ∧
    (setMetadataDirty s).store.newest = s.store.newest ∧ (setMetadataDirty s).store.idleDelay = s.store.idleDelay ∧
    (setMetadataDirty s).store.idleTimer = s.store.idleTimer ∧
    (setMetadataDirty s).store.lineStore = s.store.lineStore ∧ (setMetadataDirty s).store.phase = s.store.phase ∧
    (setMetadataDirty s).store.storedCount = s.store.storedCount ∧
    (setMetadataDirty s).store.failedList = s.store.failedList ∧
    (setMetadataDirty s).store.failedOverflow = s.store.failedOverflow ∧
    (setMetadataDirty s).store.emergencyGeneration = s.store.emergencyGeneration ∧
    (setMetadataDirty s).store.handedD = s.store.handedD ∧
    (setMetadataDirty s).store.handedExposed = s.store.handedExposed ∧ (setMetadataDirty s).array = s.array ∧
    (setMetadataDirty s).supply = s.supply ∧ (setMetadataDirty s).clock = s.clock ∧
    (setMetadataDirty s).recovery = s.recovery ∧ (setMetadataDirty s).cc = s.cc ∧ (setMetadataDirty s).out = s.out := by
  simp [setMetadataDirty]

@[simp] theorem startCheckpoint_frame (s : State) :
    (startCheckpoint s).pending = s.pending ∧ (startCheckpoint s).now = s.now ∧ (startCheckpoint s).free = s.free ∧
    (startCheckpoint s).device = s.device ∧ (startCheckpoint s).window = s.window ∧
    (startCheckpoint s).staging = s.staging ∧ (startCheckpoint s).journal = s.journal ∧
    (startCheckpoint s).txns = s.txns ∧ (startCheckpoint s).budget = s.budget ∧
    (startCheckpoint s).monitor = s.monitor ∧ (startCheckpoint s).store.queue = s.store.queue ∧
    (startCheckpoint s).store.storedThrough = s.store.storedThrough ∧
    (startCheckpoint s).store.waiting = s.store.waiting ∧
    (startCheckpoint s).store.reservationWaiters = s.store.reservationWaiters ∧
    (startCheckpoint s).store.newest = s.store.newest ∧ (startCheckpoint s).store.idleDelay = s.store.idleDelay ∧
    (startCheckpoint s).store.idleTimer = s.store.idleTimer ∧
    (startCheckpoint s).store.lineStore = s.store.lineStore ∧ (startCheckpoint s).store.phase = s.store.phase ∧
    (startCheckpoint s).store.storedCount = s.store.storedCount ∧
    (startCheckpoint s).store.failedList = s.store.failedList ∧
    (startCheckpoint s).store.failedOverflow = s.store.failedOverflow ∧
    (startCheckpoint s).store.emergencyGeneration = s.store.emergencyGeneration ∧
    (startCheckpoint s).store.handedD = s.store.handedD ∧
    (startCheckpoint s).store.handedExposed = s.store.handedExposed ∧ (startCheckpoint s).array = s.array ∧
    (startCheckpoint s).supply = s.supply ∧ (startCheckpoint s).clock = s.clock ∧
    (startCheckpoint s).recovery = s.recovery ∧ (startCheckpoint s).cc = s.cc ∧ (startCheckpoint s).out = s.out := by
  simp [startCheckpoint]

@[simp] theorem setSlot_frame (slot : Slot) (x : Option Checkpoint) (s : State) :
    (setSlot slot x s).pending = s.pending ∧ (setSlot slot x s).now = s.now ∧ (setSlot slot x s).free = s.free ∧
    (setSlot slot x s).device = s.device ∧ (setSlot slot x s).window = s.window ∧
    (setSlot slot x s).staging = s.staging ∧ (setSlot slot x s).journal = s.journal ∧
    (setSlot slot x s).txns = s.txns ∧ (setSlot slot x s).budget = s.budget ∧ (setSlot slot x s).monitor = s.monitor ∧
    (setSlot slot x s).store = s.store ∧ (setSlot slot x s).array.shadow = s.array.shadow ∧
    (setSlot slot x s).array.closing = s.array.closing ∧ (setSlot slot x s).supply = s.supply ∧
    (setSlot slot x s).clock = s.clock ∧ (setSlot slot x s).recovery = s.recovery ∧ (setSlot slot x s).cc = s.cc ∧
    (setSlot slot x s).out = s.out := by
  simp only [setSlot]
  (repeat' split) <;> simp

@[simp] theorem startJobOn_frame (i : SegId) (s : State) :
    (startJobOn i s).pending = s.pending ∧ (startJobOn i s).now = s.now ∧ (startJobOn i s).free = s.free ∧
    (startJobOn i s).device = s.device ∧ (startJobOn i s).window = s.window ∧ (startJobOn i s).staging = s.staging ∧
    (startJobOn i s).journal.chain = s.journal.chain ∧ (startJobOn i s).journal.sram = s.journal.sram ∧
    (startJobOn i s).journal.nextSeq = s.journal.nextSeq ∧ (startJobOn i s).journal.head = s.journal.head ∧
    (startJobOn i s).journal.format = s.journal.format ∧ (startJobOn i s).journal.formatted = s.journal.formatted ∧
    (startJobOn i s).journal.full = s.journal.full ∧ (startJobOn i s).journal.readBuffers = s.journal.readBuffers ∧
    (startJobOn i s).journal.readWaiters = s.journal.readWaiters ∧ (startJobOn i s).txns = s.txns ∧
    (startJobOn i s).budget = s.budget ∧ (startJobOn i s).monitor = s.monitor ∧
    (startJobOn i s).store.queue = s.store.queue ∧ (startJobOn i s).store.storedThrough = s.store.storedThrough ∧
    (startJobOn i s).store.waiting = s.store.waiting ∧
    (startJobOn i s).store.reservationWaiters = s.store.reservationWaiters ∧
    (startJobOn i s).store.metadataDirty = s.store.metadataDirty ∧
    (startJobOn i s).store.jobsSinceDirty = s.store.jobsSinceDirty ∧ (startJobOn i s).store.newest = s.store.newest ∧
    (startJobOn i s).store.idleDelay = s.store.idleDelay ∧ (startJobOn i s).store.idleTimer = s.store.idleTimer ∧
    (startJobOn i s).store.lineStore = s.store.lineStore ∧ (startJobOn i s).store.phase = s.store.phase ∧
    (startJobOn i s).store.storedCount = s.store.storedCount ∧
    (startJobOn i s).store.failedList = s.store.failedList ∧
    (startJobOn i s).store.failedOverflow = s.store.failedOverflow ∧
    (startJobOn i s).store.emergencyGeneration = s.store.emergencyGeneration ∧
    (startJobOn i s).store.handedD = s.store.handedD ∧ (startJobOn i s).store.handedExposed = s.store.handedExposed ∧
    (startJobOn i s).array = s.array ∧ (startJobOn i s).supply = s.supply ∧ (startJobOn i s).clock = s.clock ∧
    (startJobOn i s).recovery = s.recovery ∧ (startJobOn i s).cc = s.cc ∧ (startJobOn i s).out = s.out := by
  simp [startJobOn]

@[simp] theorem startJob_frame (s : State) :
    (startJob s).pending = s.pending ∧ (startJob s).now = s.now ∧ (startJob s).free = s.free ∧
    (startJob s).device = s.device ∧ (startJob s).window = s.window ∧ (startJob s).staging = s.staging ∧
    (startJob s).journal.chain = s.journal.chain ∧ (startJob s).journal.sram = s.journal.sram ∧
    (startJob s).journal.nextSeq = s.journal.nextSeq ∧ (startJob s).journal.head = s.journal.head ∧
    (startJob s).journal.format = s.journal.format ∧ (startJob s).journal.formatted = s.journal.formatted ∧
    (startJob s).journal.full = s.journal.full ∧ (startJob s).journal.readBuffers = s.journal.readBuffers ∧
    (startJob s).journal.readWaiters = s.journal.readWaiters ∧ (startJob s).txns = s.txns ∧
    (startJob s).budget = s.budget ∧ (startJob s).monitor = s.monitor ∧
    (startJob s).store.storedThrough = s.store.storedThrough ∧ (startJob s).store.waiting = s.store.waiting ∧
    (startJob s).store.reservationWaiters = s.store.reservationWaiters ∧
    (startJob s).store.metadataDirty = s.store.metadataDirty ∧
    (startJob s).store.jobsSinceDirty = s.store.jobsSinceDirty ∧ (startJob s).store.newest = s.store.newest ∧
    (startJob s).store.idleDelay = s.store.idleDelay ∧ (startJob s).store.idleTimer = s.store.idleTimer ∧
    (startJob s).store.lineStore = s.store.lineStore ∧ (startJob s).store.phase = s.store.phase ∧
    (startJob s).store.storedCount = s.store.storedCount ∧ (startJob s).store.failedList = s.store.failedList ∧
    (startJob s).store.failedOverflow = s.store.failedOverflow ∧
    (startJob s).store.emergencyGeneration = s.store.emergencyGeneration ∧
    (startJob s).store.handedD = s.store.handedD ∧ (startJob s).store.handedExposed = s.store.handedExposed ∧
    (startJob s).array = s.array ∧ (startJob s).supply = s.supply ∧ (startJob s).clock = s.clock ∧
    (startJob s).recovery = s.recovery ∧ (startJob s).cc = s.cc ∧ (startJob s).out = s.out := by
  simp only [startJob]
  (repeat' split) <;> simp

@[simp] theorem startNext_frame (test : Bool) (s : State) :
    (startNext test s).pending = s.pending ∧ (startNext test s).now = s.now ∧ (startNext test s).free = s.free ∧
    (startNext test s).device = s.device ∧ (startNext test s).window = s.window ∧
    (startNext test s).staging = s.staging ∧ (startNext test s).journal.chain = s.journal.chain ∧
    (startNext test s).journal.sram = s.journal.sram ∧ (startNext test s).journal.nextSeq = s.journal.nextSeq ∧
    (startNext test s).journal.head = s.journal.head ∧ (startNext test s).journal.format = s.journal.format ∧
    (startNext test s).journal.formatted = s.journal.formatted ∧ (startNext test s).journal.full = s.journal.full ∧
    (startNext test s).journal.readBuffers = s.journal.readBuffers ∧
    (startNext test s).journal.readWaiters = s.journal.readWaiters ∧ (startNext test s).txns = s.txns ∧
    (startNext test s).budget = s.budget ∧ (startNext test s).monitor = s.monitor ∧
    (startNext test s).store.storedThrough = s.store.storedThrough ∧
    (startNext test s).store.waiting = s.store.waiting ∧
    (startNext test s).store.reservationWaiters = s.store.reservationWaiters ∧
    (startNext test s).store.newest = s.store.newest ∧ (startNext test s).store.idleDelay = s.store.idleDelay ∧
    (startNext test s).store.idleTimer = s.store.idleTimer ∧ (startNext test s).store.lineStore = s.store.lineStore ∧
    (startNext test s).store.phase = s.store.phase ∧ (startNext test s).store.storedCount = s.store.storedCount ∧
    (startNext test s).store.failedList = s.store.failedList ∧
    (startNext test s).store.failedOverflow = s.store.failedOverflow ∧
    (startNext test s).store.emergencyGeneration = s.store.emergencyGeneration ∧
    (startNext test s).store.handedD = s.store.handedD ∧
    (startNext test s).store.handedExposed = s.store.handedExposed ∧ (startNext test s).array = s.array ∧
    (startNext test s).supply = s.supply ∧ (startNext test s).clock = s.clock ∧
    (startNext test s).recovery = s.recovery ∧ (startNext test s).cc = s.cc ∧ (startNext test s).out = s.out := by
  simp only [startNext]
  (repeat' split) <;> simp

@[simp] theorem endLineStore_frame (s : State) :
    (endLineStore s).pending = s.pending ∧ (endLineStore s).now = s.now ∧ (endLineStore s).free = s.free ∧
    (endLineStore s).device = s.device ∧ (endLineStore s).window = s.window ∧ (endLineStore s).staging = s.staging ∧
    (endLineStore s).journal = s.journal ∧ (endLineStore s).txns = s.txns ∧ (endLineStore s).budget = s.budget ∧
    (endLineStore s).monitor = s.monitor ∧ (endLineStore s).store.queue = s.store.queue ∧
    (endLineStore s).store.op = s.store.op ∧ (endLineStore s).store.storedThrough = s.store.storedThrough ∧
    (endLineStore s).store.waiting = s.store.waiting ∧
    (endLineStore s).store.reservationWaiters = s.store.reservationWaiters ∧
    (endLineStore s).store.metadataDirty = s.store.metadataDirty ∧
    (endLineStore s).store.jobsSinceDirty = s.store.jobsSinceDirty ∧ (endLineStore s).store.newest = s.store.newest ∧
    (endLineStore s).store.idleDelay = s.store.idleDelay ∧ (endLineStore s).store.idleTimer = s.store.idleTimer ∧
    (endLineStore s).store.phase = s.store.phase ∧ (endLineStore s).store.storedCount = s.store.storedCount ∧
    (endLineStore s).store.failedList = s.store.failedList ∧
    (endLineStore s).store.failedOverflow = s.store.failedOverflow ∧
    (endLineStore s).store.emergencyGeneration = s.store.emergencyGeneration ∧
    (endLineStore s).store.handedD = s.store.handedD ∧ (endLineStore s).store.handedExposed = s.store.handedExposed ∧
    (endLineStore s).array = s.array ∧ (endLineStore s).supply.good = s.supply.good ∧
    (endLineStore s).supply.latch = s.supply.latch ∧ (endLineStore s).clock = s.clock ∧
    (endLineStore s).recovery = s.recovery ∧ (endLineStore s).cc.chans = s.cc.chans ∧
    (endLineStore s).cc.fetch = s.cc.fetch ∧ (endLineStore s).cc.lastServed = s.cc.lastServed ∧
    (endLineStore s).cc.alerts = s.cc.alerts ∧ (endLineStore s).cc.alertWaiters = s.cc.alertWaiters ∧
    (endLineStore s).cc.posts = s.cc.posts ∧ (endLineStore s).cc.statusWrites = s.cc.statusWrites ∧
    (endLineStore s).out = s.out := by
  simp [endLineStore]

@[simp] theorem lineStoreTest_frame (s : State) :
    (lineStoreTest s).pending = s.pending ∧ (lineStoreTest s).now = s.now ∧ (lineStoreTest s).free = s.free ∧
    (lineStoreTest s).device = s.device ∧ (lineStoreTest s).window = s.window ∧
    (lineStoreTest s).staging = s.staging ∧ (lineStoreTest s).journal = s.journal ∧ (lineStoreTest s).txns = s.txns ∧
    (lineStoreTest s).budget = s.budget ∧ (lineStoreTest s).monitor = s.monitor ∧
    (lineStoreTest s).store.queue = s.store.queue ∧ (lineStoreTest s).store.storedThrough = s.store.storedThrough ∧
    (lineStoreTest s).store.waiting = s.store.waiting ∧
    (lineStoreTest s).store.reservationWaiters = s.store.reservationWaiters ∧
    (lineStoreTest s).store.newest = s.store.newest ∧ (lineStoreTest s).store.idleDelay = s.store.idleDelay ∧
    (lineStoreTest s).store.idleTimer = s.store.idleTimer ∧ (lineStoreTest s).store.phase = s.store.phase ∧
    (lineStoreTest s).store.storedCount = s.store.storedCount ∧
    (lineStoreTest s).store.failedList = s.store.failedList ∧
    (lineStoreTest s).store.failedOverflow = s.store.failedOverflow ∧
    (lineStoreTest s).store.emergencyGeneration = s.store.emergencyGeneration ∧
    (lineStoreTest s).store.handedD = s.store.handedD ∧
    (lineStoreTest s).store.handedExposed = s.store.handedExposed ∧ (lineStoreTest s).array = s.array ∧
    (lineStoreTest s).supply.good = s.supply.good ∧ (lineStoreTest s).supply.latch = s.supply.latch ∧
    (lineStoreTest s).clock = s.clock ∧ (lineStoreTest s).recovery = s.recovery ∧
    (lineStoreTest s).cc.chans = s.cc.chans ∧ (lineStoreTest s).cc.fetch = s.cc.fetch ∧
    (lineStoreTest s).cc.lastServed = s.cc.lastServed ∧ (lineStoreTest s).cc.alerts = s.cc.alerts ∧
    (lineStoreTest s).cc.alertWaiters = s.cc.alertWaiters ∧ (lineStoreTest s).cc.posts = s.cc.posts ∧
    (lineStoreTest s).cc.statusWrites = s.cc.statusWrites ∧ (lineStoreTest s).out = s.out := by
  simp only [lineStoreTest]
  (repeat' split) <;> simp

@[simp] theorem lineStoreAfterCheckpoint_frame (v : Bool) (s : State) :
    (lineStoreAfterCheckpoint v s).pending = s.pending ∧ (lineStoreAfterCheckpoint v s).now = s.now ∧
    (lineStoreAfterCheckpoint v s).free = s.free ∧ (lineStoreAfterCheckpoint v s).device = s.device ∧
    (lineStoreAfterCheckpoint v s).window = s.window ∧ (lineStoreAfterCheckpoint v s).staging = s.staging ∧
    (lineStoreAfterCheckpoint v s).journal = s.journal ∧ (lineStoreAfterCheckpoint v s).txns = s.txns ∧
    (lineStoreAfterCheckpoint v s).budget = s.budget ∧ (lineStoreAfterCheckpoint v s).monitor = s.monitor ∧
    (lineStoreAfterCheckpoint v s).store.storedThrough = s.store.storedThrough ∧
    (lineStoreAfterCheckpoint v s).store.waiting = s.store.waiting ∧
    (lineStoreAfterCheckpoint v s).store.reservationWaiters = s.store.reservationWaiters ∧
    (lineStoreAfterCheckpoint v s).store.newest = s.store.newest ∧
    (lineStoreAfterCheckpoint v s).store.idleDelay = s.store.idleDelay ∧
    (lineStoreAfterCheckpoint v s).store.idleTimer = s.store.idleTimer ∧
    (lineStoreAfterCheckpoint v s).store.phase = s.store.phase ∧
    (lineStoreAfterCheckpoint v s).store.storedCount = s.store.storedCount ∧
    (lineStoreAfterCheckpoint v s).store.failedList = s.store.failedList ∧
    (lineStoreAfterCheckpoint v s).store.failedOverflow = s.store.failedOverflow ∧
    (lineStoreAfterCheckpoint v s).store.emergencyGeneration = s.store.emergencyGeneration ∧
    (lineStoreAfterCheckpoint v s).store.handedD = s.store.handedD ∧
    (lineStoreAfterCheckpoint v s).store.handedExposed = s.store.handedExposed ∧
    (lineStoreAfterCheckpoint v s).array = s.array ∧ (lineStoreAfterCheckpoint v s).supply.good = s.supply.good ∧
    (lineStoreAfterCheckpoint v s).supply.latch = s.supply.latch ∧ (lineStoreAfterCheckpoint v s).clock = s.clock ∧
    (lineStoreAfterCheckpoint v s).recovery = s.recovery ∧ (lineStoreAfterCheckpoint v s).cc.chans = s.cc.chans ∧
    (lineStoreAfterCheckpoint v s).cc.fetch = s.cc.fetch ∧
    (lineStoreAfterCheckpoint v s).cc.lastServed = s.cc.lastServed ∧
    (lineStoreAfterCheckpoint v s).cc.alerts = s.cc.alerts ∧
    (lineStoreAfterCheckpoint v s).cc.alertWaiters = s.cc.alertWaiters ∧
    (lineStoreAfterCheckpoint v s).cc.posts = s.cc.posts ∧
    (lineStoreAfterCheckpoint v s).cc.statusWrites = s.cc.statusWrites ∧ (lineStoreAfterCheckpoint v s).out = s.out := by
  simp only [lineStoreAfterCheckpoint]
  (repeat' split) <;> simp

@[simp] theorem beginLineStore_frame (s : State) :
    (beginLineStore s).pending = s.pending ∧ (beginLineStore s).now = s.now ∧ (beginLineStore s).free = s.free ∧
    (beginLineStore s).device = s.device ∧ (beginLineStore s).window = s.window ∧
    (beginLineStore s).staging = s.staging ∧ (beginLineStore s).journal = s.journal ∧
    (beginLineStore s).txns = s.txns ∧ (beginLineStore s).budget = s.budget ∧ (beginLineStore s).monitor = s.monitor ∧
    (beginLineStore s).store.op = s.store.op ∧ (beginLineStore s).store.storedThrough = s.store.storedThrough ∧
    (beginLineStore s).store.waiting = s.store.waiting ∧
    (beginLineStore s).store.reservationWaiters = s.store.reservationWaiters ∧
    (beginLineStore s).store.metadataDirty = s.store.metadataDirty ∧
    (beginLineStore s).store.jobsSinceDirty = s.store.jobsSinceDirty ∧
    (beginLineStore s).store.newest = s.store.newest ∧ (beginLineStore s).store.idleDelay = s.store.idleDelay ∧
    (beginLineStore s).store.idleTimer = s.store.idleTimer ∧ (beginLineStore s).store.phase = s.store.phase ∧
    (beginLineStore s).store.storedCount = s.store.storedCount ∧
    (beginLineStore s).store.failedList = s.store.failedList ∧
    (beginLineStore s).store.failedOverflow = s.store.failedOverflow ∧
    (beginLineStore s).store.emergencyGeneration = s.store.emergencyGeneration ∧
    (beginLineStore s).store.handedD = s.store.handedD ∧
    (beginLineStore s).store.handedExposed = s.store.handedExposed ∧ (beginLineStore s).array = s.array ∧
    (beginLineStore s).supply.good = s.supply.good ∧ (beginLineStore s).clock = s.clock ∧
    (beginLineStore s).recovery = s.recovery ∧ (beginLineStore s).cc.chans = s.cc.chans ∧
    (beginLineStore s).cc.fetch = s.cc.fetch ∧ (beginLineStore s).cc.lastServed = s.cc.lastServed ∧
    (beginLineStore s).cc.alerts = s.cc.alerts ∧ (beginLineStore s).cc.alertWaiters = s.cc.alertWaiters ∧
    (beginLineStore s).cc.posts = s.cc.posts ∧ (beginLineStore s).cc.statusWrites = s.cc.statusWrites ∧
    (beginLineStore s).out = s.out := by
  simp [beginLineStore]

@[simp] theorem settle_frame (test : Bool) (s : State) :
    (settle test s).pending = s.pending ∧ (settle test s).now = s.now ∧ (settle test s).free = s.free ∧
    (settle test s).device = s.device ∧ (settle test s).window = s.window ∧ (settle test s).staging = s.staging ∧
    (settle test s).journal.chain = s.journal.chain ∧ (settle test s).journal.sram = s.journal.sram ∧
    (settle test s).journal.nextSeq = s.journal.nextSeq ∧ (settle test s).journal.head = s.journal.head ∧
    (settle test s).journal.format = s.journal.format ∧ (settle test s).journal.formatted = s.journal.formatted ∧
    (settle test s).journal.full = s.journal.full ∧ (settle test s).journal.readBuffers = s.journal.readBuffers ∧
    (settle test s).journal.readWaiters = s.journal.readWaiters ∧ (settle test s).txns = s.txns ∧
    (settle test s).budget = s.budget ∧ (settle test s).monitor = s.monitor ∧
    (settle test s).store.storedThrough = s.store.storedThrough ∧ (settle test s).store.waiting = s.store.waiting ∧
    (settle test s).store.reservationWaiters = s.store.reservationWaiters ∧
    (settle test s).store.newest = s.store.newest ∧ (settle test s).store.idleDelay = s.store.idleDelay ∧
    (settle test s).store.idleTimer = s.store.idleTimer ∧ (settle test s).store.phase = s.store.phase ∧
    (settle test s).store.storedCount = s.store.storedCount ∧ (settle test s).store.failedList = s.store.failedList ∧
    (settle test s).store.failedOverflow = s.store.failedOverflow ∧
    (settle test s).store.emergencyGeneration = s.store.emergencyGeneration ∧
    (settle test s).store.handedD = s.store.handedD ∧ (settle test s).store.handedExposed = s.store.handedExposed ∧
    (settle test s).array = s.array ∧ (settle test s).supply.good = s.supply.good ∧
    (settle test s).supply.latch = s.supply.latch ∧ (settle test s).clock = s.clock ∧
    (settle test s).recovery = s.recovery ∧ (settle test s).cc.alerts = s.cc.alerts ∧
    (settle test s).cc.alertWaiters = s.cc.alertWaiters ∧ (settle test s).cc.posts = s.cc.posts ∧
    (settle test s).cc.statusWrites = s.cc.statusWrites := by
  simp [settle]

@[simp] theorem startEmergencyCheckpoint_frame (s : State) :
    (startEmergencyCheckpoint s).pending = s.pending ∧ (startEmergencyCheckpoint s).now = s.now ∧
    (startEmergencyCheckpoint s).free = s.free ∧ (startEmergencyCheckpoint s).device = s.device ∧
    (startEmergencyCheckpoint s).window = s.window ∧ (startEmergencyCheckpoint s).staging = s.staging ∧
    (startEmergencyCheckpoint s).journal = s.journal ∧ (startEmergencyCheckpoint s).txns = s.txns ∧
    (startEmergencyCheckpoint s).budget = s.budget ∧ (startEmergencyCheckpoint s).monitor = s.monitor ∧
    (startEmergencyCheckpoint s).store.queue = s.store.queue ∧
    (startEmergencyCheckpoint s).store.storedThrough = s.store.storedThrough ∧
    (startEmergencyCheckpoint s).store.waiting = s.store.waiting ∧
    (startEmergencyCheckpoint s).store.reservationWaiters = s.store.reservationWaiters ∧
    (startEmergencyCheckpoint s).store.metadataDirty = s.store.metadataDirty ∧
    (startEmergencyCheckpoint s).store.jobsSinceDirty = s.store.jobsSinceDirty ∧
    (startEmergencyCheckpoint s).store.newest = s.store.newest ∧
    (startEmergencyCheckpoint s).store.idleDelay = s.store.idleDelay ∧
    (startEmergencyCheckpoint s).store.idleTimer = s.store.idleTimer ∧
    (startEmergencyCheckpoint s).store.lineStore = s.store.lineStore ∧
    (startEmergencyCheckpoint s).store.storedCount = s.store.storedCount ∧
    (startEmergencyCheckpoint s).store.failedList = s.store.failedList ∧
    (startEmergencyCheckpoint s).store.failedOverflow = s.store.failedOverflow ∧
    (startEmergencyCheckpoint s).store.handedD = s.store.handedD ∧
    (startEmergencyCheckpoint s).store.handedExposed = s.store.handedExposed ∧
    (startEmergencyCheckpoint s).array = s.array ∧ (startEmergencyCheckpoint s).supply = s.supply ∧
    (startEmergencyCheckpoint s).clock = s.clock ∧ (startEmergencyCheckpoint s).recovery = s.recovery ∧
    (startEmergencyCheckpoint s).cc = s.cc ∧ (startEmergencyCheckpoint s).out = s.out := by
  simp [startEmergencyCheckpoint]

@[simp] theorem nextEmergencySegment_frame (s : State) :
    (nextEmergencySegment s).pending = s.pending ∧ (nextEmergencySegment s).now = s.now ∧
    (nextEmergencySegment s).free = s.free ∧ (nextEmergencySegment s).device = s.device ∧
    (nextEmergencySegment s).window = s.window ∧ (nextEmergencySegment s).staging = s.staging ∧
    (nextEmergencySegment s).journal.chain = s.journal.chain ∧
    (nextEmergencySegment s).journal.sram = s.journal.sram ∧
    (nextEmergencySegment s).journal.nextSeq = s.journal.nextSeq ∧
    (nextEmergencySegment s).journal.head = s.journal.head ∧
    (nextEmergencySegment s).journal.format = s.journal.format ∧
    (nextEmergencySegment s).journal.formatted = s.journal.formatted ∧
    (nextEmergencySegment s).journal.full = s.journal.full ∧
    (nextEmergencySegment s).journal.readBuffers = s.journal.readBuffers ∧
    (nextEmergencySegment s).journal.readWaiters = s.journal.readWaiters ∧ (nextEmergencySegment s).txns = s.txns ∧
    (nextEmergencySegment s).budget = s.budget ∧ (nextEmergencySegment s).monitor = s.monitor ∧
    (nextEmergencySegment s).store.storedThrough = s.store.storedThrough ∧
    (nextEmergencySegment s).store.waiting = s.store.waiting ∧
    (nextEmergencySegment s).store.reservationWaiters = s.store.reservationWaiters ∧
    (nextEmergencySegment s).store.metadataDirty = s.store.metadataDirty ∧
    (nextEmergencySegment s).store.jobsSinceDirty = s.store.jobsSinceDirty ∧
    (nextEmergencySegment s).store.newest = s.store.newest ∧
    (nextEmergencySegment s).store.idleDelay = s.store.idleDelay ∧
    (nextEmergencySegment s).store.idleTimer = s.store.idleTimer ∧
    (nextEmergencySegment s).store.lineStore = s.store.lineStore ∧
    (nextEmergencySegment s).store.storedCount = s.store.storedCount ∧
    (nextEmergencySegment s).store.failedList = s.store.failedList ∧
    (nextEmergencySegment s).store.failedOverflow = s.store.failedOverflow ∧
    (nextEmergencySegment s).store.emergencyGeneration = s.store.emergencyGeneration ∧
    (nextEmergencySegment s).store.handedD = s.store.handedD ∧
    (nextEmergencySegment s).store.handedExposed = s.store.handedExposed ∧ (nextEmergencySegment s).array = s.array ∧
    (nextEmergencySegment s).supply = s.supply ∧ (nextEmergencySegment s).clock = s.clock ∧
    (nextEmergencySegment s).recovery = s.recovery ∧ (nextEmergencySegment s).cc = s.cc ∧
    (nextEmergencySegment s).out = s.out := by
  simp only [nextEmergencySegment]
  (repeat' split) <;> simp

@[simp] theorem emergencyAdvance_frame (s : State) :
    (emergencyAdvance s).pending = s.pending ∧ (emergencyAdvance s).now = s.now ∧ (emergencyAdvance s).free = s.free ∧
    (emergencyAdvance s).device = s.device ∧ (emergencyAdvance s).window = s.window ∧
    (emergencyAdvance s).staging = s.staging ∧ (emergencyAdvance s).journal.chain = s.journal.chain ∧
    (emergencyAdvance s).journal.sram = s.journal.sram ∧ (emergencyAdvance s).journal.nextSeq = s.journal.nextSeq ∧
    (emergencyAdvance s).journal.head = s.journal.head ∧ (emergencyAdvance s).journal.format = s.journal.format ∧
    (emergencyAdvance s).journal.formatted = s.journal.formatted ∧
    (emergencyAdvance s).journal.full = s.journal.full ∧
    (emergencyAdvance s).journal.readBuffers = s.journal.readBuffers ∧
    (emergencyAdvance s).journal.readWaiters = s.journal.readWaiters ∧ (emergencyAdvance s).txns = s.txns ∧
    (emergencyAdvance s).budget = s.budget ∧ (emergencyAdvance s).monitor = s.monitor ∧
    (emergencyAdvance s).store.storedThrough = s.store.storedThrough ∧
    (emergencyAdvance s).store.waiting = s.store.waiting ∧
    (emergencyAdvance s).store.reservationWaiters = s.store.reservationWaiters ∧
    (emergencyAdvance s).store.metadataDirty = s.store.metadataDirty ∧
    (emergencyAdvance s).store.jobsSinceDirty = s.store.jobsSinceDirty ∧
    (emergencyAdvance s).store.newest = s.store.newest ∧ (emergencyAdvance s).store.idleDelay = s.store.idleDelay ∧
    (emergencyAdvance s).store.idleTimer = s.store.idleTimer ∧
    (emergencyAdvance s).store.lineStore = s.store.lineStore ∧
    (emergencyAdvance s).store.storedCount = s.store.storedCount ∧
    (emergencyAdvance s).store.failedList = s.store.failedList ∧
    (emergencyAdvance s).store.failedOverflow = s.store.failedOverflow ∧
    (emergencyAdvance s).store.handedD = s.store.handedD ∧
    (emergencyAdvance s).store.handedExposed = s.store.handedExposed ∧ (emergencyAdvance s).array = s.array ∧
    (emergencyAdvance s).supply = s.supply ∧ (emergencyAdvance s).clock = s.clock ∧
    (emergencyAdvance s).recovery = s.recovery ∧ (emergencyAdvance s).cc = s.cc ∧ (emergencyAdvance s).out = s.out := by
  simp only [emergencyAdvance]
  (repeat' split) <;> simp

@[simp] theorem recomputePressure_frame (s : State) :
    (recomputePressure s).pending = s.pending ∧ (recomputePressure s).now = s.now ∧
    (recomputePressure s).free = s.free ∧ (recomputePressure s).device = s.device ∧
    (recomputePressure s).window = s.window ∧ (recomputePressure s).staging = s.staging ∧
    (recomputePressure s).journal = s.journal ∧ (recomputePressure s).txns = s.txns ∧
    (recomputePressure s).budget.b = s.budget.b ∧ (recomputePressure s).budget.limit = s.budget.limit ∧
    (recomputePressure s).budget.headroom = s.budget.headroom ∧
    (recomputePressure s).budget.held = s.budget.held ∧
    (recomputePressure s).budget.exposed = s.budget.exposed ∧ (recomputePressure s).monitor = s.monitor ∧
    (recomputePressure s).store.op = s.store.op ∧
    (recomputePressure s).store.storedThrough = s.store.storedThrough ∧
    (recomputePressure s).store.waiting = s.store.waiting ∧
    (recomputePressure s).store.reservationWaiters = s.store.reservationWaiters ∧
    (recomputePressure s).store.metadataDirty = s.store.metadataDirty ∧
    (recomputePressure s).store.jobsSinceDirty = s.store.jobsSinceDirty ∧
    (recomputePressure s).store.newest = s.store.newest ∧
    (recomputePressure s).store.idleDelay = s.store.idleDelay ∧
    (recomputePressure s).store.idleTimer = s.store.idleTimer ∧
    (recomputePressure s).store.lineStore = s.store.lineStore ∧
    (recomputePressure s).store.phase = s.store.phase ∧
    (recomputePressure s).store.storedCount = s.store.storedCount ∧
    (recomputePressure s).store.failedList = s.store.failedList ∧
    (recomputePressure s).store.failedOverflow = s.store.failedOverflow ∧
    (recomputePressure s).store.emergencyGeneration = s.store.emergencyGeneration ∧
    (recomputePressure s).store.handedD = s.store.handedD ∧
    (recomputePressure s).store.handedExposed = s.store.handedExposed ∧
    (recomputePressure s).array = s.array ∧ (recomputePressure s).supply = s.supply ∧
    (recomputePressure s).clock = s.clock ∧ (recomputePressure s).recovery = s.recovery ∧
    (recomputePressure s).cc = s.cc ∧ (recomputePressure s).out = s.out := by
  simp only [recomputePressure]
  (repeat' split) <;> simp

@[simp] theorem evalExposureBut_frame (lost : Waiter → Bool) (s : State) :
    (evalExposureBut lost s).pending = s.pending ∧ (evalExposureBut lost s).now = s.now ∧ (evalExposureBut lost s).free = s.free ∧
    (evalExposureBut lost s).device = s.device ∧ (evalExposureBut lost s).window = s.window ∧
    (evalExposureBut lost s).staging = s.staging ∧ (evalExposureBut lost s).journal = s.journal ∧
    (evalExposureBut lost s).txns = s.txns ∧ (evalExposureBut lost s).budget.b = s.budget.b ∧
    (evalExposureBut lost s).budget.limit = s.budget.limit ∧ (evalExposureBut lost s).budget.headroom = s.budget.headroom ∧
    (evalExposureBut lost s).budget.held = s.budget.held ∧ (evalExposureBut lost s).budget.pressure = s.budget.pressure ∧
    (evalExposureBut lost s).monitor = s.monitor ∧ (evalExposureBut lost s).store.queue = s.store.queue ∧
    (evalExposureBut lost s).store.op = s.store.op ∧ (evalExposureBut lost s).store.storedThrough = s.store.storedThrough ∧
    (evalExposureBut lost s).store.reservationWaiters = s.store.reservationWaiters ∧
    (evalExposureBut lost s).store.metadataDirty = s.store.metadataDirty ∧
    (evalExposureBut lost s).store.jobsSinceDirty = s.store.jobsSinceDirty ∧
    (evalExposureBut lost s).store.newest = s.store.newest ∧ (evalExposureBut lost s).store.idleDelay = s.store.idleDelay ∧
    (evalExposureBut lost s).store.idleTimer = s.store.idleTimer ∧ (evalExposureBut lost s).store.lineStore = s.store.lineStore ∧
    (evalExposureBut lost s).store.phase = s.store.phase ∧ (evalExposureBut lost s).store.storedCount = s.store.storedCount ∧
    (evalExposureBut lost s).store.failedList = s.store.failedList ∧
    (evalExposureBut lost s).store.failedOverflow = s.store.failedOverflow ∧
    (evalExposureBut lost s).store.emergencyGeneration = s.store.emergencyGeneration ∧
    (evalExposureBut lost s).store.handedD = s.store.handedD ∧
    (evalExposureBut lost s).store.handedExposed = s.store.handedExposed ∧ (evalExposureBut lost s).array = s.array ∧
    (evalExposureBut lost s).supply = s.supply ∧ (evalExposureBut lost s).clock = s.clock ∧
    (evalExposureBut lost s).recovery = s.recovery ∧ (evalExposureBut lost s).cc.fetch = s.cc.fetch ∧
    (evalExposureBut lost s).cc.lastServed = s.cc.lastServed ∧ (evalExposureBut lost s).cc.fetchPaused = s.cc.fetchPaused := by
  simp only [evalExposureBut]
  (repeat' split) <;> simp

@[simp] theorem clearFull_frame (s : State) :
    (clearFull s).pending = s.pending ∧ (clearFull s).now = s.now ∧ (clearFull s).free = s.free ∧
    (clearFull s).device = s.device ∧ (clearFull s).window = s.window ∧ (clearFull s).staging = s.staging ∧
    (clearFull s).journal.segs = s.journal.segs ∧ (clearFull s).journal.chain = s.journal.chain ∧
    (clearFull s).journal.sram = s.journal.sram ∧ (clearFull s).journal.nextSeq = s.journal.nextSeq ∧
    (clearFull s).journal.head = s.journal.head ∧ (clearFull s).journal.format = s.journal.format ∧
    (clearFull s).journal.formatted = s.journal.formatted ∧
    (clearFull s).journal.readBuffers = s.journal.readBuffers ∧
    (clearFull s).journal.readWaiters = s.journal.readWaiters ∧ (clearFull s).txns = s.txns ∧
    (clearFull s).budget = s.budget ∧ (clearFull s).monitor = s.monitor ∧ (clearFull s).store = s.store ∧
    (clearFull s).array = s.array ∧ (clearFull s).supply = s.supply ∧ (clearFull s).clock = s.clock ∧
    (clearFull s).recovery = s.recovery ∧ (clearFull s).cc = s.cc ∧ (clearFull s).out = s.out := by
  simp only [clearFull]
  (repeat' split) <;> simp

@[simp] theorem noteSpace_frame (fp : Nat) (s : State) :
    (noteSpace fp s).pending = s.pending ∧ (noteSpace fp s).now = s.now ∧ (noteSpace fp s).free = s.free ∧
    (noteSpace fp s).device = s.device ∧ (noteSpace fp s).window = s.window ∧ (noteSpace fp s).staging = s.staging ∧
    (noteSpace fp s).journal.segs = s.journal.segs ∧ (noteSpace fp s).journal.chain = s.journal.chain ∧
    (noteSpace fp s).journal.sram = s.journal.sram ∧ (noteSpace fp s).journal.nextSeq = s.journal.nextSeq ∧
    (noteSpace fp s).journal.head = s.journal.head ∧ (noteSpace fp s).journal.format = s.journal.format ∧
    (noteSpace fp s).journal.formatted = s.journal.formatted ∧
    (noteSpace fp s).journal.readBuffers = s.journal.readBuffers ∧
    (noteSpace fp s).journal.readWaiters = s.journal.readWaiters ∧ (noteSpace fp s).txns = s.txns ∧
    (noteSpace fp s).budget = s.budget ∧ (noteSpace fp s).monitor = s.monitor ∧ (noteSpace fp s).store = s.store ∧
    (noteSpace fp s).array = s.array ∧ (noteSpace fp s).supply = s.supply ∧ (noteSpace fp s).clock = s.clock ∧
    (noteSpace fp s).recovery = s.recovery ∧ (noteSpace fp s).cc.fetch = s.cc.fetch ∧
    (noteSpace fp s).cc.lastServed = s.cc.lastServed ∧ (noteSpace fp s).cc.fetchPaused = s.cc.fetchPaused ∧
    (noteSpace fp s).cc.statusWrites = s.cc.statusWrites := by
  simp only [noteSpace]
  (repeat' split) <;> simp

@[simp] theorem heldChanged_frame (s : State) :
    (heldChanged s).pending = s.pending ∧ (heldChanged s).now = s.now ∧ (heldChanged s).free = s.free ∧
    (heldChanged s).device = s.device ∧ (heldChanged s).window = s.window ∧ (heldChanged s).staging = s.staging ∧
    (heldChanged s).journal.segs = s.journal.segs ∧ (heldChanged s).journal.chain = s.journal.chain ∧
    (heldChanged s).journal.sram = s.journal.sram ∧ (heldChanged s).journal.nextSeq = s.journal.nextSeq ∧
    (heldChanged s).journal.head = s.journal.head ∧ (heldChanged s).journal.format = s.journal.format ∧
    (heldChanged s).journal.formatted = s.journal.formatted ∧
    (heldChanged s).journal.readBuffers = s.journal.readBuffers ∧
    (heldChanged s).journal.readWaiters = s.journal.readWaiters ∧ (heldChanged s).txns = s.txns ∧
    (heldChanged s).budget.b = s.budget.b ∧ (heldChanged s).budget.limit = s.budget.limit ∧
    (heldChanged s).budget.headroom = s.budget.headroom ∧ (heldChanged s).budget.held = s.budget.held ∧
    (heldChanged s).budget.exposed = s.budget.exposed ∧ (heldChanged s).monitor = s.monitor ∧
    (heldChanged s).store.op = s.store.op ∧ (heldChanged s).store.storedThrough = s.store.storedThrough ∧
    (heldChanged s).store.waiting = s.store.waiting ∧
    (heldChanged s).store.reservationWaiters = s.store.reservationWaiters ∧
    (heldChanged s).store.metadataDirty = s.store.metadataDirty ∧
    (heldChanged s).store.jobsSinceDirty = s.store.jobsSinceDirty ∧ (heldChanged s).store.newest = s.store.newest ∧
    (heldChanged s).store.idleDelay = s.store.idleDelay ∧ (heldChanged s).store.idleTimer = s.store.idleTimer ∧
    (heldChanged s).store.lineStore = s.store.lineStore ∧ (heldChanged s).store.phase = s.store.phase ∧
    (heldChanged s).store.storedCount = s.store.storedCount ∧ (heldChanged s).store.failedList = s.store.failedList ∧
    (heldChanged s).store.failedOverflow = s.store.failedOverflow ∧
    (heldChanged s).store.emergencyGeneration = s.store.emergencyGeneration ∧
    (heldChanged s).store.handedD = s.store.handedD ∧ (heldChanged s).store.handedExposed = s.store.handedExposed ∧
    (heldChanged s).array = s.array ∧ (heldChanged s).supply = s.supply ∧ (heldChanged s).clock = s.clock ∧
    (heldChanged s).recovery = s.recovery ∧ (heldChanged s).cc = s.cc ∧ (heldChanged s).out = s.out := by
  simp [heldChanged]

@[simp] theorem dropHeld_frame (c : ChanId) (s : State) :
    (dropHeld c s).pending = s.pending ∧ (dropHeld c s).now = s.now ∧ (dropHeld c s).free = s.free ∧
    (dropHeld c s).device = s.device ∧ (dropHeld c s).window = s.window ∧ (dropHeld c s).staging = s.staging ∧
    (dropHeld c s).journal.segs = s.journal.segs ∧ (dropHeld c s).journal.chain = s.journal.chain ∧
    (dropHeld c s).journal.sram = s.journal.sram ∧ (dropHeld c s).journal.nextSeq = s.journal.nextSeq ∧
    (dropHeld c s).journal.head = s.journal.head ∧ (dropHeld c s).journal.format = s.journal.format ∧
    (dropHeld c s).journal.formatted = s.journal.formatted ∧
    (dropHeld c s).journal.readBuffers = s.journal.readBuffers ∧
    (dropHeld c s).journal.readWaiters = s.journal.readWaiters ∧ (dropHeld c s).txns = s.txns ∧
    (dropHeld c s).budget.b = s.budget.b ∧ (dropHeld c s).budget.limit = s.budget.limit ∧
    (dropHeld c s).budget.headroom = s.budget.headroom ∧ (dropHeld c s).budget.exposed = s.budget.exposed ∧
    (dropHeld c s).monitor = s.monitor ∧ (dropHeld c s).store.op = s.store.op ∧
    (dropHeld c s).store.storedThrough = s.store.storedThrough ∧ (dropHeld c s).store.waiting = s.store.waiting ∧
    (dropHeld c s).store.reservationWaiters = s.store.reservationWaiters ∧
    (dropHeld c s).store.metadataDirty = s.store.metadataDirty ∧
    (dropHeld c s).store.jobsSinceDirty = s.store.jobsSinceDirty ∧ (dropHeld c s).store.newest = s.store.newest ∧
    (dropHeld c s).store.idleDelay = s.store.idleDelay ∧ (dropHeld c s).store.idleTimer = s.store.idleTimer ∧
    (dropHeld c s).store.lineStore = s.store.lineStore ∧ (dropHeld c s).store.phase = s.store.phase ∧
    (dropHeld c s).store.storedCount = s.store.storedCount ∧ (dropHeld c s).store.failedList = s.store.failedList ∧
    (dropHeld c s).store.failedOverflow = s.store.failedOverflow ∧
    (dropHeld c s).store.emergencyGeneration = s.store.emergencyGeneration ∧
    (dropHeld c s).store.handedD = s.store.handedD ∧ (dropHeld c s).store.handedExposed = s.store.handedExposed ∧
    (dropHeld c s).array = s.array ∧ (dropHeld c s).supply = s.supply ∧ (dropHeld c s).clock = s.clock ∧
    (dropHeld c s).recovery = s.recovery ∧ (dropHeld c s).cc = s.cc ∧ (dropHeld c s).out = s.out := by
  simp only [dropHeld]
  (repeat' split) <;> simp

@[simp] theorem endExecution_frame (c : ChanId) (s : State) :
    (endExecution c s).pending = s.pending ∧ (endExecution c s).now = s.now ∧ (endExecution c s).free = s.free ∧
    (endExecution c s).device = s.device ∧ (endExecution c s).window = s.window ∧
    (endExecution c s).journal.segs = s.journal.segs ∧ (endExecution c s).journal.chain = s.journal.chain ∧
    (endExecution c s).journal.sram = s.journal.sram ∧ (endExecution c s).journal.nextSeq = s.journal.nextSeq ∧
    (endExecution c s).journal.head = s.journal.head ∧ (endExecution c s).journal.format = s.journal.format ∧
    (endExecution c s).journal.formatted = s.journal.formatted ∧ (endExecution c s).txns = s.txns ∧
    (endExecution c s).budget.b = s.budget.b ∧ (endExecution c s).budget.limit = s.budget.limit ∧
    (endExecution c s).budget.headroom = s.budget.headroom ∧ (endExecution c s).budget.exposed = s.budget.exposed ∧
    (endExecution c s).monitor = s.monitor ∧ (endExecution c s).store.op = s.store.op ∧
    (endExecution c s).store.storedThrough = s.store.storedThrough ∧
    (endExecution c s).store.waiting = s.store.waiting ∧
    (endExecution c s).store.metadataDirty = s.store.metadataDirty ∧
    (endExecution c s).store.jobsSinceDirty = s.store.jobsSinceDirty ∧
    (endExecution c s).store.newest = s.store.newest ∧ (endExecution c s).store.idleDelay = s.store.idleDelay ∧
    (endExecution c s).store.idleTimer = s.store.idleTimer ∧ (endExecution c s).store.lineStore = s.store.lineStore ∧
    (endExecution c s).store.phase = s.store.phase ∧ (endExecution c s).store.storedCount = s.store.storedCount ∧
    (endExecution c s).store.failedList = s.store.failedList ∧
    (endExecution c s).store.failedOverflow = s.store.failedOverflow ∧
    (endExecution c s).store.emergencyGeneration = s.store.emergencyGeneration ∧
    (endExecution c s).store.handedD = s.store.handedD ∧
    (endExecution c s).store.handedExposed = s.store.handedExposed ∧ (endExecution c s).array = s.array ∧
    (endExecution c s).supply = s.supply ∧ (endExecution c s).clock = s.clock ∧
    (endExecution c s).recovery = s.recovery ∧ (endExecution c s).cc.fetch = s.cc.fetch ∧
    (endExecution c s).cc.lastServed = s.cc.lastServed ∧ (endExecution c s).cc.fetchPaused = s.cc.fetchPaused ∧
    (endExecution c s).cc.alerts = s.cc.alerts ∧ (endExecution c s).cc.alertWaiters = s.cc.alertWaiters ∧
    (endExecution c s).cc.posts = s.cc.posts ∧ (endExecution c s).cc.statusWrites = s.cc.statusWrites ∧
    (endExecution c s).out = s.out := by
  simp [endExecution]

@[simp] theorem completeExec_frame (c : ChanId) (x : Completion) (s : State) :
    (completeExec c x s).pending = s.pending ∧ (completeExec c x s).now = s.now ∧ (completeExec c x s).free = s.free ∧
    (completeExec c x s).device = s.device ∧ (completeExec c x s).window = s.window ∧
    (completeExec c x s).journal.segs = s.journal.segs ∧ (completeExec c x s).journal.chain = s.journal.chain ∧
    (completeExec c x s).journal.sram = s.journal.sram ∧ (completeExec c x s).journal.nextSeq = s.journal.nextSeq ∧
    (completeExec c x s).journal.head = s.journal.head ∧ (completeExec c x s).journal.format = s.journal.format ∧
    (completeExec c x s).journal.formatted = s.journal.formatted ∧ (completeExec c x s).txns = s.txns ∧
    (completeExec c x s).budget.b = s.budget.b ∧ (completeExec c x s).budget.limit = s.budget.limit ∧
    (completeExec c x s).budget.headroom = s.budget.headroom ∧
    (completeExec c x s).budget.exposed = s.budget.exposed ∧ (completeExec c x s).monitor = s.monitor ∧
    (completeExec c x s).store.op = s.store.op ∧ (completeExec c x s).store.storedThrough = s.store.storedThrough ∧
    (completeExec c x s).store.waiting = s.store.waiting ∧
    (completeExec c x s).store.metadataDirty = s.store.metadataDirty ∧
    (completeExec c x s).store.jobsSinceDirty = s.store.jobsSinceDirty ∧
    (completeExec c x s).store.newest = s.store.newest ∧ (completeExec c x s).store.idleDelay = s.store.idleDelay ∧
    (completeExec c x s).store.idleTimer = s.store.idleTimer ∧
    (completeExec c x s).store.lineStore = s.store.lineStore ∧ (completeExec c x s).store.phase = s.store.phase ∧
    (completeExec c x s).store.storedCount = s.store.storedCount ∧
    (completeExec c x s).store.failedList = s.store.failedList ∧
    (completeExec c x s).store.failedOverflow = s.store.failedOverflow ∧
    (completeExec c x s).store.emergencyGeneration = s.store.emergencyGeneration ∧
    (completeExec c x s).store.handedD = s.store.handedD ∧
    (completeExec c x s).store.handedExposed = s.store.handedExposed ∧ (completeExec c x s).array = s.array ∧
    (completeExec c x s).supply = s.supply ∧ (completeExec c x s).clock = s.clock ∧
    (completeExec c x s).recovery = s.recovery ∧ (completeExec c x s).cc.fetch = s.cc.fetch ∧
    (completeExec c x s).cc.lastServed = s.cc.lastServed ∧ (completeExec c x s).cc.fetchPaused = s.cc.fetchPaused ∧
    (completeExec c x s).cc.alerts = s.cc.alerts ∧ (completeExec c x s).cc.alertWaiters = s.cc.alertWaiters := by
  simp [completeExec]

@[simp] theorem setStage_frame (c : ChanId) (st : Stage) (s : State) :
    (setStage c st s).pending = s.pending ∧ (setStage c st s).now = s.now ∧ (setStage c st s).free = s.free ∧
    (setStage c st s).device = s.device ∧ (setStage c st s).window = s.window ∧
    (setStage c st s).staging = s.staging ∧ (setStage c st s).journal = s.journal ∧ (setStage c st s).txns = s.txns ∧
    (setStage c st s).budget = s.budget ∧ (setStage c st s).monitor = s.monitor ∧ (setStage c st s).store = s.store ∧
    (setStage c st s).array = s.array ∧ (setStage c st s).supply = s.supply ∧ (setStage c st s).clock = s.clock ∧
    (setStage c st s).recovery = s.recovery ∧ (setStage c st s).cc.fetch = s.cc.fetch ∧
    (setStage c st s).cc.lastServed = s.cc.lastServed ∧ (setStage c st s).cc.fetchPaused = s.cc.fetchPaused ∧
    (setStage c st s).cc.alerts = s.cc.alerts ∧ (setStage c st s).cc.alertWaiters = s.cc.alertWaiters ∧
    (setStage c st s).cc.posts = s.cc.posts ∧ (setStage c st s).cc.statusWrites = s.cc.statusWrites ∧
    (setStage c st s).out = s.out := by
  simp [setStage]

@[simp] theorem endHeld_frame (status : Status) (s : State) (h : HeldRecord) :
    (endHeld status s h).pending = s.pending ∧ (endHeld status s h).now = s.now ∧ (endHeld status s h).free = s.free ∧
    (endHeld status s h).device = s.device ∧ (endHeld status s h).window = s.window ∧
    (endHeld status s h).journal.segs = s.journal.segs ∧ (endHeld status s h).journal.chain = s.journal.chain ∧
    (endHeld status s h).journal.sram = s.journal.sram ∧ (endHeld status s h).journal.nextSeq = s.journal.nextSeq ∧
    (endHeld status s h).journal.head = s.journal.head ∧ (endHeld status s h).journal.format = s.journal.format ∧
    (endHeld status s h).journal.formatted = s.journal.formatted ∧ (endHeld status s h).txns = s.txns ∧
    (endHeld status s h).budget.b = s.budget.b ∧ (endHeld status s h).budget.limit = s.budget.limit ∧
    (endHeld status s h).budget.headroom = s.budget.headroom ∧
    (endHeld status s h).budget.exposed = s.budget.exposed ∧ (endHeld status s h).monitor = s.monitor ∧
    (endHeld status s h).store.op = s.store.op ∧ (endHeld status s h).store.storedThrough = s.store.storedThrough ∧
    (endHeld status s h).store.waiting = s.store.waiting ∧
    (endHeld status s h).store.metadataDirty = s.store.metadataDirty ∧
    (endHeld status s h).store.jobsSinceDirty = s.store.jobsSinceDirty ∧
    (endHeld status s h).store.newest = s.store.newest ∧ (endHeld status s h).store.idleDelay = s.store.idleDelay ∧
    (endHeld status s h).store.idleTimer = s.store.idleTimer ∧
    (endHeld status s h).store.lineStore = s.store.lineStore ∧ (endHeld status s h).store.phase = s.store.phase ∧
    (endHeld status s h).store.storedCount = s.store.storedCount ∧
    (endHeld status s h).store.failedList = s.store.failedList ∧
    (endHeld status s h).store.failedOverflow = s.store.failedOverflow ∧
    (endHeld status s h).store.emergencyGeneration = s.store.emergencyGeneration ∧
    (endHeld status s h).store.handedD = s.store.handedD ∧
    (endHeld status s h).store.handedExposed = s.store.handedExposed ∧ (endHeld status s h).array = s.array ∧
    (endHeld status s h).supply = s.supply ∧ (endHeld status s h).clock = s.clock ∧
    (endHeld status s h).recovery = s.recovery ∧ (endHeld status s h).cc.fetch = s.cc.fetch ∧
    (endHeld status s h).cc.lastServed = s.cc.lastServed ∧ (endHeld status s h).cc.fetchPaused = s.cc.fetchPaused ∧
    (endHeld status s h).cc.alerts = s.cc.alerts ∧ (endHeld status s h).cc.alertWaiters = s.cc.alertWaiters := by
  simp only [endHeld]
  (repeat' split) <;> simp

@[simp] theorem endAllHeld_frame (status : Status) (s : State) :
    (endAllHeld status s).pending = s.pending ∧ (endAllHeld status s).now = s.now ∧
    (endAllHeld status s).free = s.free ∧ (endAllHeld status s).device = s.device ∧
    (endAllHeld status s).window = s.window ∧ (endAllHeld status s).journal.segs = s.journal.segs ∧
    (endAllHeld status s).journal.chain = s.journal.chain ∧ (endAllHeld status s).journal.sram = s.journal.sram ∧
    (endAllHeld status s).journal.nextSeq = s.journal.nextSeq ∧ (endAllHeld status s).journal.head = s.journal.head ∧
    (endAllHeld status s).journal.format = s.journal.format ∧
    (endAllHeld status s).journal.formatted = s.journal.formatted ∧ (endAllHeld status s).txns = s.txns ∧
    (endAllHeld status s).budget.b = s.budget.b ∧ (endAllHeld status s).budget.limit = s.budget.limit ∧
    (endAllHeld status s).budget.headroom = s.budget.headroom ∧
    (endAllHeld status s).budget.exposed = s.budget.exposed ∧ (endAllHeld status s).monitor = s.monitor ∧
    (endAllHeld status s).store.op = s.store.op ∧ (endAllHeld status s).store.storedThrough = s.store.storedThrough ∧
    (endAllHeld status s).store.waiting = s.store.waiting ∧
    (endAllHeld status s).store.metadataDirty = s.store.metadataDirty ∧
    (endAllHeld status s).store.jobsSinceDirty = s.store.jobsSinceDirty ∧
    (endAllHeld status s).store.newest = s.store.newest ∧ (endAllHeld status s).store.idleDelay = s.store.idleDelay ∧
    (endAllHeld status s).store.idleTimer = s.store.idleTimer ∧
    (endAllHeld status s).store.lineStore = s.store.lineStore ∧ (endAllHeld status s).store.phase = s.store.phase ∧
    (endAllHeld status s).store.storedCount = s.store.storedCount ∧
    (endAllHeld status s).store.failedList = s.store.failedList ∧
    (endAllHeld status s).store.failedOverflow = s.store.failedOverflow ∧
    (endAllHeld status s).store.emergencyGeneration = s.store.emergencyGeneration ∧
    (endAllHeld status s).store.handedD = s.store.handedD ∧
    (endAllHeld status s).store.handedExposed = s.store.handedExposed ∧ (endAllHeld status s).array = s.array ∧
    (endAllHeld status s).supply = s.supply ∧ (endAllHeld status s).clock = s.clock ∧
    (endAllHeld status s).recovery = s.recovery ∧ (endAllHeld status s).cc.fetch = s.cc.fetch ∧
    (endAllHeld status s).cc.lastServed = s.cc.lastServed ∧ (endAllHeld status s).cc.fetchPaused = s.cc.fetchPaused ∧
    (endAllHeld status s).cc.alerts = s.cc.alerts ∧ (endAllHeld status s).cc.alertWaiters = s.cc.alertWaiters := by
  have h := foldl_keeps (fun s : State => (s.pending, s.now, s.free, s.device, s.window, s.journal.segs, s.journal.chain, s.journal.sram, s.journal.nextSeq, s.journal.head, s.journal.format, s.journal.formatted, s.txns, s.budget.b, s.budget.limit, s.budget.headroom, s.budget.exposed, s.monitor, s.store.op, s.store.storedThrough, s.store.waiting, s.store.metadataDirty, s.store.jobsSinceDirty, s.store.newest, s.store.idleDelay, s.store.idleTimer, s.store.lineStore, s.store.phase, s.store.storedCount, s.store.failedList, s.store.failedOverflow, s.store.emergencyGeneration, s.store.handedD, s.store.handedExposed, s.array, s.supply, s.clock, s.recovery, s.cc.fetch, s.cc.lastServed, s.cc.fetchPaused, s.cc.alerts, s.cc.alertWaiters))
    (endHeld status) (fun s x => by simp) s.budget.held s
  simpa only [endAllHeld, Prod.mk.injEq] using h

@[simp] theorem markVoid_frame (s : State) (e : SegId × Nat) :
    (markVoid s e).pending = s.pending ∧ (markVoid s e).now = s.now ∧ (markVoid s e).device = s.device ∧
    (markVoid s e).window = s.window ∧ (markVoid s e).staging = s.staging ∧
    (markVoid s e).journal.segs = s.journal.segs ∧ (markVoid s e).journal.chain = s.journal.chain ∧
    (markVoid s e).journal.nextSeq = s.journal.nextSeq ∧ (markVoid s e).journal.head = s.journal.head ∧
    (markVoid s e).journal.format = s.journal.format ∧ (markVoid s e).journal.formatted = s.journal.formatted ∧
    (markVoid s e).journal.full = s.journal.full ∧ (markVoid s e).journal.readBuffers = s.journal.readBuffers ∧
    (markVoid s e).journal.readWaiters = s.journal.readWaiters ∧ (markVoid s e).txns = s.txns ∧
    (markVoid s e).budget = s.budget ∧ (markVoid s e).monitor = s.monitor ∧
    (markVoid s e).store.queue = s.store.queue ∧ (markVoid s e).store.storedThrough = s.store.storedThrough ∧
    (markVoid s e).store.waiting = s.store.waiting ∧
    (markVoid s e).store.reservationWaiters = s.store.reservationWaiters ∧
    (markVoid s e).store.metadataDirty = s.store.metadataDirty ∧
    (markVoid s e).store.jobsSinceDirty = s.store.jobsSinceDirty ∧ (markVoid s e).store.newest = s.store.newest ∧
    (markVoid s e).store.idleDelay = s.store.idleDelay ∧ (markVoid s e).store.idleTimer = s.store.idleTimer ∧
    (markVoid s e).store.lineStore = s.store.lineStore ∧ (markVoid s e).store.phase = s.store.phase ∧
    (markVoid s e).store.storedCount = s.store.storedCount ∧ (markVoid s e).store.failedList = s.store.failedList ∧
    (markVoid s e).store.failedOverflow = s.store.failedOverflow ∧
    (markVoid s e).store.emergencyGeneration = s.store.emergencyGeneration ∧
    (markVoid s e).store.handedD = s.store.handedD ∧ (markVoid s e).store.handedExposed = s.store.handedExposed ∧
    (markVoid s e).array.slotA = s.array.slotA ∧ (markVoid s e).array.slotB = s.array.slotB ∧
    (markVoid s e).array.closing = s.array.closing ∧ (markVoid s e).supply = s.supply ∧
    (markVoid s e).clock = s.clock ∧ (markVoid s e).recovery = s.recovery ∧ (markVoid s e).cc = s.cc ∧
    (markVoid s e).out = s.out := by
  simp [markVoid]

@[simp] theorem voidTxn_frame (t : TxnRecord) (s : State) :
    (voidTxn t s).pending = s.pending ∧ (voidTxn t s).now = s.now ∧ (voidTxn t s).device = s.device ∧
    (voidTxn t s).window = s.window ∧ (voidTxn t s).staging = s.staging ∧
    (voidTxn t s).journal.segs = s.journal.segs ∧ (voidTxn t s).journal.chain = s.journal.chain ∧
    (voidTxn t s).journal.nextSeq = s.journal.nextSeq ∧ (voidTxn t s).journal.head = s.journal.head ∧
    (voidTxn t s).journal.format = s.journal.format ∧ (voidTxn t s).journal.formatted = s.journal.formatted ∧
    (voidTxn t s).journal.full = s.journal.full ∧ (voidTxn t s).journal.readBuffers = s.journal.readBuffers ∧
    (voidTxn t s).journal.readWaiters = s.journal.readWaiters ∧ (voidTxn t s).txns = s.txns ∧
    (voidTxn t s).budget = s.budget ∧ (voidTxn t s).monitor = s.monitor ∧ (voidTxn t s).store.queue = s.store.queue ∧
    (voidTxn t s).store.storedThrough = s.store.storedThrough ∧ (voidTxn t s).store.waiting = s.store.waiting ∧
    (voidTxn t s).store.reservationWaiters = s.store.reservationWaiters ∧
    (voidTxn t s).store.metadataDirty = s.store.metadataDirty ∧
    (voidTxn t s).store.jobsSinceDirty = s.store.jobsSinceDirty ∧ (voidTxn t s).store.newest = s.store.newest ∧
    (voidTxn t s).store.idleDelay = s.store.idleDelay ∧ (voidTxn t s).store.idleTimer = s.store.idleTimer ∧
    (voidTxn t s).store.lineStore = s.store.lineStore ∧ (voidTxn t s).store.phase = s.store.phase ∧
    (voidTxn t s).store.storedCount = s.store.storedCount ∧ (voidTxn t s).store.failedList = s.store.failedList ∧
    (voidTxn t s).store.failedOverflow = s.store.failedOverflow ∧
    (voidTxn t s).store.emergencyGeneration = s.store.emergencyGeneration ∧
    (voidTxn t s).store.handedD = s.store.handedD ∧ (voidTxn t s).store.handedExposed = s.store.handedExposed ∧
    (voidTxn t s).array.slotA = s.array.slotA ∧ (voidTxn t s).array.slotB = s.array.slotB ∧
    (voidTxn t s).array.closing = s.array.closing ∧ (voidTxn t s).supply = s.supply ∧ (voidTxn t s).clock = s.clock ∧
    (voidTxn t s).recovery = s.recovery ∧ (voidTxn t s).cc = s.cc ∧ (voidTxn t s).out = s.out := by
  have h := foldl_keeps (fun s : State => (s.pending, s.now, s.device, s.window, s.staging, s.journal.segs, s.journal.chain, s.journal.nextSeq, s.journal.head, s.journal.format, s.journal.formatted, s.journal.full, s.journal.readBuffers, s.journal.readWaiters, s.txns, s.budget, s.monitor, s.store.queue, s.store.storedThrough, s.store.waiting, s.store.reservationWaiters, s.store.metadataDirty, s.store.jobsSinceDirty, s.store.newest, s.store.idleDelay, s.store.idleTimer, s.store.lineStore, s.store.phase, s.store.storedCount, s.store.failedList, s.store.failedOverflow, s.store.emergencyGeneration, s.store.handedD, s.store.handedExposed, s.array.slotA, s.array.slotB, s.array.closing, s.supply, s.clock, s.recovery, s.cc, s.out))
    markVoid (fun s x => by simp) (s.entriesOfTxn t.serial t.firstSeq t.lastSeq) s
  simpa only [voidTxn, Prod.mk.injEq] using h

@[simp] theorem endTxns_frame (p : ChanId → Bool) (s : State) :
    (endTxns p s).pending = s.pending ∧ (endTxns p s).now = s.now ∧ (endTxns p s).device = s.device ∧
    (endTxns p s).window = s.window ∧ (endTxns p s).staging = s.staging ∧
    (endTxns p s).journal.segs = s.journal.segs ∧ (endTxns p s).journal.chain = s.journal.chain ∧
    (endTxns p s).journal.nextSeq = s.journal.nextSeq ∧ (endTxns p s).journal.head = s.journal.head ∧
    (endTxns p s).journal.format = s.journal.format ∧ (endTxns p s).journal.formatted = s.journal.formatted ∧
    (endTxns p s).journal.full = s.journal.full ∧ (endTxns p s).journal.readBuffers = s.journal.readBuffers ∧
    (endTxns p s).journal.readWaiters = s.journal.readWaiters ∧ (endTxns p s).budget = s.budget ∧
    (endTxns p s).monitor = s.monitor ∧ (endTxns p s).store.queue = s.store.queue ∧
    (endTxns p s).store.storedThrough = s.store.storedThrough ∧ (endTxns p s).store.waiting = s.store.waiting ∧
    (endTxns p s).store.reservationWaiters = s.store.reservationWaiters ∧
    (endTxns p s).store.metadataDirty = s.store.metadataDirty ∧
    (endTxns p s).store.jobsSinceDirty = s.store.jobsSinceDirty ∧ (endTxns p s).store.newest = s.store.newest ∧
    (endTxns p s).store.idleDelay = s.store.idleDelay ∧ (endTxns p s).store.idleTimer = s.store.idleTimer ∧
    (endTxns p s).store.lineStore = s.store.lineStore ∧ (endTxns p s).store.phase = s.store.phase ∧
    (endTxns p s).store.storedCount = s.store.storedCount ∧ (endTxns p s).store.failedList = s.store.failedList ∧
    (endTxns p s).store.failedOverflow = s.store.failedOverflow ∧
    (endTxns p s).store.emergencyGeneration = s.store.emergencyGeneration ∧
    (endTxns p s).store.handedD = s.store.handedD ∧ (endTxns p s).store.handedExposed = s.store.handedExposed ∧
    (endTxns p s).array.slotA = s.array.slotA ∧ (endTxns p s).array.slotB = s.array.slotB ∧
    (endTxns p s).array.closing = s.array.closing ∧ (endTxns p s).supply = s.supply ∧ (endTxns p s).clock = s.clock ∧
    (endTxns p s).recovery = s.recovery ∧ (endTxns p s).cc = s.cc ∧ (endTxns p s).out = s.out := by
  have h := foldl_keeps (fun s : State => (s.pending, s.now, s.device, s.window, s.staging, s.journal.segs, s.journal.chain, s.journal.nextSeq, s.journal.head, s.journal.format, s.journal.formatted, s.journal.full, s.journal.readBuffers, s.journal.readWaiters, s.budget, s.monitor, s.store.queue, s.store.storedThrough, s.store.waiting, s.store.reservationWaiters, s.store.metadataDirty, s.store.jobsSinceDirty, s.store.newest, s.store.idleDelay, s.store.idleTimer, s.store.lineStore, s.store.phase, s.store.storedCount, s.store.failedList, s.store.failedOverflow, s.store.emergencyGeneration, s.store.handedD, s.store.handedExposed, s.array.slotA, s.array.slotB, s.array.closing, s.supply, s.clock, s.recovery, s.cc, s.out))
    (fun s t => voidTxn t s) (fun s x => by simp) (s.txns.table.filter (fun t => p t.chan && !t.expired)) s
  simpa only [endTxns, Prod.mk.injEq] using h

@[simp] theorem removeTxn_frame (c : ChanId) (h : Nat) (s : State) :
    (removeTxn c h s).pending = s.pending ∧ (removeTxn c h s).now = s.now ∧ (removeTxn c h s).free = s.free ∧
    (removeTxn c h s).device = s.device ∧ (removeTxn c h s).window = s.window ∧
    (removeTxn c h s).staging = s.staging ∧ (removeTxn c h s).journal = s.journal ∧
    (removeTxn c h s).budget = s.budget ∧ (removeTxn c h s).monitor = s.monitor ∧ (removeTxn c h s).store = s.store ∧
    (removeTxn c h s).array = s.array ∧ (removeTxn c h s).supply = s.supply ∧ (removeTxn c h s).clock = s.clock ∧
    (removeTxn c h s).recovery = s.recovery ∧ (removeTxn c h s).cc = s.cc ∧ (removeTxn c h s).out = s.out := by
  simp [removeTxn]

@[simp] theorem holdRequest_frame (grant : Bool) (c : ChanId) (r : Executing) (reason : HoldReason) (s : State) :
    (holdRequest grant c r reason s).pending = s.pending ∧ (holdRequest grant c r reason s).now = s.now ∧
    (holdRequest grant c r reason s).free = s.free ∧ (holdRequest grant c r reason s).device = s.device ∧
    (holdRequest grant c r reason s).window = s.window ∧ (holdRequest grant c r reason s).staging = s.staging ∧
    (holdRequest grant c r reason s).journal.segs = s.journal.segs ∧
    (holdRequest grant c r reason s).journal.chain = s.journal.chain ∧
    (holdRequest grant c r reason s).journal.sram = s.journal.sram ∧
    (holdRequest grant c r reason s).journal.nextSeq = s.journal.nextSeq ∧
    (holdRequest grant c r reason s).journal.head = s.journal.head ∧
    (holdRequest grant c r reason s).journal.format = s.journal.format ∧
    (holdRequest grant c r reason s).journal.formatted = s.journal.formatted ∧
    (holdRequest grant c r reason s).journal.readBuffers = s.journal.readBuffers ∧
    (holdRequest grant c r reason s).journal.readWaiters = s.journal.readWaiters ∧
    (holdRequest grant c r reason s).txns = s.txns ∧ (holdRequest grant c r reason s).budget.b = s.budget.b ∧
    (holdRequest grant c r reason s).budget.limit = s.budget.limit ∧
    (holdRequest grant c r reason s).budget.headroom = s.budget.headroom ∧
    (holdRequest grant c r reason s).budget.exposed = s.budget.exposed ∧
    (holdRequest grant c r reason s).monitor = s.monitor ∧ (holdRequest grant c r reason s).store.op = s.store.op ∧
    (holdRequest grant c r reason s).store.storedThrough = s.store.storedThrough ∧
    (holdRequest grant c r reason s).store.waiting = s.store.waiting ∧
    (holdRequest grant c r reason s).store.reservationWaiters = s.store.reservationWaiters ∧
    (holdRequest grant c r reason s).store.metadataDirty = s.store.metadataDirty ∧
    (holdRequest grant c r reason s).store.jobsSinceDirty = s.store.jobsSinceDirty ∧
    (holdRequest grant c r reason s).store.newest = s.store.newest ∧
    (holdRequest grant c r reason s).store.idleDelay = s.store.idleDelay ∧
    (holdRequest grant c r reason s).store.idleTimer = s.store.idleTimer ∧
    (holdRequest grant c r reason s).store.lineStore = s.store.lineStore ∧
    (holdRequest grant c r reason s).store.phase = s.store.phase ∧
    (holdRequest grant c r reason s).store.storedCount = s.store.storedCount ∧
    (holdRequest grant c r reason s).store.failedList = s.store.failedList ∧
    (holdRequest grant c r reason s).store.failedOverflow = s.store.failedOverflow ∧
    (holdRequest grant c r reason s).store.emergencyGeneration = s.store.emergencyGeneration ∧
    (holdRequest grant c r reason s).store.handedD = s.store.handedD ∧
    (holdRequest grant c r reason s).store.handedExposed = s.store.handedExposed ∧
    (holdRequest grant c r reason s).array = s.array ∧ (holdRequest grant c r reason s).supply = s.supply ∧
    (holdRequest grant c r reason s).clock = s.clock ∧ (holdRequest grant c r reason s).recovery = s.recovery ∧
    (holdRequest grant c r reason s).cc.fetch = s.cc.fetch ∧
    (holdRequest grant c r reason s).cc.lastServed = s.cc.lastServed ∧
    (holdRequest grant c r reason s).cc.fetchPaused = s.cc.fetchPaused ∧
    (holdRequest grant c r reason s).cc.statusWrites = s.cc.statusWrites := by
  simp only [holdRequest]
  (repeat' split) <;> simp

@[simp] theorem freeSegment_frame (i : SegId) (s : State) :
    (freeSegment i s).pending = s.pending ∧ (freeSegment i s).now = s.now ∧ (freeSegment i s).free = s.free ∧
    (freeSegment i s).device = s.device ∧ (freeSegment i s).window = s.window ∧
    (freeSegment i s).staging = s.staging ∧ (freeSegment i s).journal.sram = s.journal.sram ∧
    (freeSegment i s).journal.nextSeq = s.journal.nextSeq ∧ (freeSegment i s).journal.head = s.journal.head ∧
    (freeSegment i s).journal.format = s.journal.format ∧ (freeSegment i s).journal.formatted = s.journal.formatted ∧
    (freeSegment i s).journal.full = s.journal.full ∧ (freeSegment i s).journal.readBuffers = s.journal.readBuffers ∧
    (freeSegment i s).journal.readWaiters = s.journal.readWaiters ∧ (freeSegment i s).txns = s.txns ∧
    (freeSegment i s).budget = s.budget ∧ (freeSegment i s).monitor = s.monitor ∧
    (freeSegment i s).store.op = s.store.op ∧ (freeSegment i s).store.storedThrough = s.store.storedThrough ∧
    (freeSegment i s).store.waiting = s.store.waiting ∧
    (freeSegment i s).store.reservationWaiters = s.store.reservationWaiters ∧
    (freeSegment i s).store.metadataDirty = s.store.metadataDirty ∧
    (freeSegment i s).store.jobsSinceDirty = s.store.jobsSinceDirty ∧
    (freeSegment i s).store.newest = s.store.newest ∧ (freeSegment i s).store.idleDelay = s.store.idleDelay ∧
    (freeSegment i s).store.idleTimer = s.store.idleTimer ∧ (freeSegment i s).store.lineStore = s.store.lineStore ∧
    (freeSegment i s).store.phase = s.store.phase ∧ (freeSegment i s).store.storedCount = s.store.storedCount ∧
    (freeSegment i s).store.failedList = s.store.failedList ∧
    (freeSegment i s).store.failedOverflow = s.store.failedOverflow ∧
    (freeSegment i s).store.emergencyGeneration = s.store.emergencyGeneration ∧
    (freeSegment i s).store.handedD = s.store.handedD ∧
    (freeSegment i s).store.handedExposed = s.store.handedExposed ∧ (freeSegment i s).array = s.array ∧
    (freeSegment i s).supply = s.supply ∧ (freeSegment i s).clock = s.clock ∧
    (freeSegment i s).recovery = s.recovery ∧ (freeSegment i s).cc = s.cc ∧ (freeSegment i s).out = s.out := by
  simp [freeSegment]

@[simp] theorem closeOpen_frame (s : State) :
    (closeOpen s).pending = s.pending ∧ (closeOpen s).now = s.now ∧ (closeOpen s).free = s.free ∧
    (closeOpen s).device = s.device ∧ (closeOpen s).window = s.window ∧ (closeOpen s).staging = s.staging ∧
    (closeOpen s).journal.sram = s.journal.sram ∧ (closeOpen s).journal.nextSeq = s.journal.nextSeq ∧
    (closeOpen s).journal.head = s.journal.head ∧ (closeOpen s).journal.format = s.journal.format ∧
    (closeOpen s).journal.formatted = s.journal.formatted ∧ (closeOpen s).journal.full = s.journal.full ∧
    (closeOpen s).journal.readBuffers = s.journal.readBuffers ∧
    (closeOpen s).journal.readWaiters = s.journal.readWaiters ∧ (closeOpen s).txns = s.txns ∧
    (closeOpen s).budget = s.budget ∧ (closeOpen s).monitor = s.monitor ∧ (closeOpen s).store.op = s.store.op ∧
    (closeOpen s).store.reservationWaiters = s.store.reservationWaiters ∧
    (closeOpen s).store.metadataDirty = s.store.metadataDirty ∧
    (closeOpen s).store.jobsSinceDirty = s.store.jobsSinceDirty ∧ (closeOpen s).store.newest = s.store.newest ∧
    (closeOpen s).store.idleDelay = s.store.idleDelay ∧ (closeOpen s).store.lineStore = s.store.lineStore ∧
    (closeOpen s).store.phase = s.store.phase ∧ (closeOpen s).store.storedCount = s.store.storedCount ∧
    (closeOpen s).store.failedList = s.store.failedList ∧
    (closeOpen s).store.failedOverflow = s.store.failedOverflow ∧
    (closeOpen s).store.emergencyGeneration = s.store.emergencyGeneration ∧
    (closeOpen s).store.handedD = s.store.handedD ∧ (closeOpen s).store.handedExposed = s.store.handedExposed ∧
    (closeOpen s).array = s.array ∧ (closeOpen s).supply = s.supply ∧ (closeOpen s).clock = s.clock ∧
    (closeOpen s).recovery = s.recovery ∧ (closeOpen s).cc.fetch = s.cc.fetch ∧
    (closeOpen s).cc.lastServed = s.cc.lastServed ∧ (closeOpen s).cc.fetchPaused = s.cc.fetchPaused ∧
    (closeOpen s).cc.alerts = s.cc.alerts ∧ (closeOpen s).cc.alertWaiters = s.cc.alertWaiters := by
  simp only [closeOpen]
  (repeat' split) <;> simp

@[simp] theorem openNew_frame (tail : Option SegId) (s : State) :
    (openNew tail s).pending = s.pending ∧ (openNew tail s).now = s.now ∧ (openNew tail s).free = s.free ∧
    (openNew tail s).device = s.device ∧ (openNew tail s).window = s.window ∧ (openNew tail s).staging = s.staging ∧
    (openNew tail s).journal.nextSeq = s.journal.nextSeq ∧ (openNew tail s).journal.head = s.journal.head ∧
    (openNew tail s).journal.format = s.journal.format ∧ (openNew tail s).journal.formatted = s.journal.formatted ∧
    (openNew tail s).journal.full = s.journal.full ∧ (openNew tail s).journal.readBuffers = s.journal.readBuffers ∧
    (openNew tail s).journal.readWaiters = s.journal.readWaiters ∧ (openNew tail s).txns = s.txns ∧
    (openNew tail s).budget = s.budget ∧ (openNew tail s).monitor = s.monitor ∧ (openNew tail s).store = s.store ∧
    (openNew tail s).array = s.array ∧ (openNew tail s).supply = s.supply ∧ (openNew tail s).clock = s.clock ∧
    (openNew tail s).recovery = s.recovery ∧ (openNew tail s).cc = s.cc ∧ (openNew tail s).out = s.out := by
  simp only [openNew]
  (repeat' split) <;> simp

@[simp] theorem prepareSegment_frame (fp : Nat) (s : State) :
    (prepareSegment fp s).pending = s.pending ∧ (prepareSegment fp s).now = s.now ∧
    (prepareSegment fp s).free = s.free ∧ (prepareSegment fp s).device = s.device ∧
    (prepareSegment fp s).window = s.window ∧ (prepareSegment fp s).staging = s.staging ∧
    (prepareSegment fp s).journal.nextSeq = s.journal.nextSeq ∧ (prepareSegment fp s).journal.head = s.journal.head ∧
    (prepareSegment fp s).journal.format = s.journal.format ∧
    (prepareSegment fp s).journal.formatted = s.journal.formatted ∧
    (prepareSegment fp s).journal.full = s.journal.full ∧
    (prepareSegment fp s).journal.readBuffers = s.journal.readBuffers ∧
    (prepareSegment fp s).journal.readWaiters = s.journal.readWaiters ∧ (prepareSegment fp s).txns = s.txns ∧
    (prepareSegment fp s).budget = s.budget ∧ (prepareSegment fp s).monitor = s.monitor ∧
    (prepareSegment fp s).store.op = s.store.op ∧
    (prepareSegment fp s).store.reservationWaiters = s.store.reservationWaiters ∧
    (prepareSegment fp s).store.metadataDirty = s.store.metadataDirty ∧
    (prepareSegment fp s).store.jobsSinceDirty = s.store.jobsSinceDirty ∧
    (prepareSegment fp s).store.newest = s.store.newest ∧ (prepareSegment fp s).store.idleDelay = s.store.idleDelay ∧
    (prepareSegment fp s).store.lineStore = s.store.lineStore ∧ (prepareSegment fp s).store.phase = s.store.phase ∧
    (prepareSegment fp s).store.storedCount = s.store.storedCount ∧
    (prepareSegment fp s).store.failedList = s.store.failedList ∧
    (prepareSegment fp s).store.failedOverflow = s.store.failedOverflow ∧
    (prepareSegment fp s).store.emergencyGeneration = s.store.emergencyGeneration ∧
    (prepareSegment fp s).store.handedD = s.store.handedD ∧
    (prepareSegment fp s).store.handedExposed = s.store.handedExposed ∧ (prepareSegment fp s).array = s.array ∧
    (prepareSegment fp s).supply = s.supply ∧ (prepareSegment fp s).clock = s.clock ∧
    (prepareSegment fp s).recovery = s.recovery ∧ (prepareSegment fp s).cc.fetch = s.cc.fetch ∧
    (prepareSegment fp s).cc.lastServed = s.cc.lastServed ∧ (prepareSegment fp s).cc.fetchPaused = s.cc.fetchPaused ∧
    (prepareSegment fp s).cc.alerts = s.cc.alerts ∧ (prepareSegment fp s).cc.alertWaiters = s.cc.alertWaiters := by
  simp only [prepareSegment]
  (repeat' split) <;> simp

@[simp] theorem reportTxn_frame (c : ChanId) (r : Request) (n : Nat) (s : State) :
    (reportTxn c r n s).pending = s.pending ∧ (reportTxn c r n s).now = s.now ∧ (reportTxn c r n s).free = s.free ∧
    (reportTxn c r n s).device = s.device ∧ (reportTxn c r n s).window = s.window ∧
    (reportTxn c r n s).staging = s.staging ∧ (reportTxn c r n s).journal = s.journal ∧
    (reportTxn c r n s).budget = s.budget ∧ (reportTxn c r n s).monitor = s.monitor ∧
    (reportTxn c r n s).store = s.store ∧ (reportTxn c r n s).array = s.array ∧
    (reportTxn c r n s).supply = s.supply ∧ (reportTxn c r n s).clock = s.clock ∧
    (reportTxn c r n s).recovery = s.recovery ∧ (reportTxn c r n s).cc = s.cc ∧ (reportTxn c r n s).out = s.out := by
  simp only [reportTxn]
  (repeat' split) <;> simp

@[simp] theorem placeEntry_frame (i : SegId) (h : Header) (payload : List Byte) (s : State) :
    (placeEntry i h payload s).pending = s.pending ∧ (placeEntry i h payload s).now = s.now ∧
    (placeEntry i h payload s).device = s.device ∧ (placeEntry i h payload s).window = s.window ∧
    (placeEntry i h payload s).staging = s.staging ∧ (placeEntry i h payload s).journal.chain = s.journal.chain ∧
    (placeEntry i h payload s).journal.nextSeq = s.journal.nextSeq ∧
    (placeEntry i h payload s).journal.head = s.journal.head ∧
    (placeEntry i h payload s).journal.format = s.journal.format ∧
    (placeEntry i h payload s).journal.formatted = s.journal.formatted ∧
    (placeEntry i h payload s).journal.full = s.journal.full ∧
    (placeEntry i h payload s).journal.readBuffers = s.journal.readBuffers ∧
    (placeEntry i h payload s).journal.readWaiters = s.journal.readWaiters ∧
    (placeEntry i h payload s).txns = s.txns ∧ (placeEntry i h payload s).budget = s.budget ∧
    (placeEntry i h payload s).monitor = s.monitor ∧ (placeEntry i h payload s).store.queue = s.store.queue ∧
    (placeEntry i h payload s).store.storedThrough = s.store.storedThrough ∧
    (placeEntry i h payload s).store.waiting = s.store.waiting ∧
    (placeEntry i h payload s).store.reservationWaiters = s.store.reservationWaiters ∧
    (placeEntry i h payload s).store.metadataDirty = s.store.metadataDirty ∧
    (placeEntry i h payload s).store.jobsSinceDirty = s.store.jobsSinceDirty ∧
    (placeEntry i h payload s).store.newest = s.store.newest ∧
    (placeEntry i h payload s).store.idleDelay = s.store.idleDelay ∧
    (placeEntry i h payload s).store.idleTimer = s.store.idleTimer ∧
    (placeEntry i h payload s).store.lineStore = s.store.lineStore ∧
    (placeEntry i h payload s).store.phase = s.store.phase ∧
    (placeEntry i h payload s).store.storedCount = s.store.storedCount ∧
    (placeEntry i h payload s).store.failedList = s.store.failedList ∧
    (placeEntry i h payload s).store.failedOverflow = s.store.failedOverflow ∧
    (placeEntry i h payload s).store.emergencyGeneration = s.store.emergencyGeneration ∧
    (placeEntry i h payload s).store.handedD = s.store.handedD ∧
    (placeEntry i h payload s).store.handedExposed = s.store.handedExposed ∧
    (placeEntry i h payload s).array.slotA = s.array.slotA ∧ (placeEntry i h payload s).array.slotB = s.array.slotB ∧
    (placeEntry i h payload s).array.closing = s.array.closing ∧ (placeEntry i h payload s).supply = s.supply ∧
    (placeEntry i h payload s).clock = s.clock ∧ (placeEntry i h payload s).recovery = s.recovery ∧
    (placeEntry i h payload s).cc = s.cc ∧ (placeEntry i h payload s).out = s.out := by
  simp only [placeEntry]
  (repeat' split) <;> simp

@[simp] theorem reportStore_frame (i : SegId) (s : State) :
    (reportStore i s).pending = s.pending ∧ (reportStore i s).now = s.now ∧ (reportStore i s).free = s.free ∧
    (reportStore i s).device = s.device ∧ (reportStore i s).window = s.window ∧
    (reportStore i s).staging = s.staging ∧ (reportStore i s).journal = s.journal ∧ (reportStore i s).txns = s.txns ∧
    (reportStore i s).budget = s.budget ∧ (reportStore i s).monitor = s.monitor ∧
    (reportStore i s).store.op = s.store.op ∧ (reportStore i s).store.storedThrough = s.store.storedThrough ∧
    (reportStore i s).store.waiting = s.store.waiting ∧
    (reportStore i s).store.reservationWaiters = s.store.reservationWaiters ∧
    (reportStore i s).store.metadataDirty = s.store.metadataDirty ∧
    (reportStore i s).store.jobsSinceDirty = s.store.jobsSinceDirty ∧
    (reportStore i s).store.newest = s.store.newest ∧ (reportStore i s).store.idleDelay = s.store.idleDelay ∧
    (reportStore i s).store.lineStore = s.store.lineStore ∧ (reportStore i s).store.phase = s.store.phase ∧
    (reportStore i s).store.storedCount = s.store.storedCount ∧
    (reportStore i s).store.failedList = s.store.failedList ∧
    (reportStore i s).store.failedOverflow = s.store.failedOverflow ∧
    (reportStore i s).store.emergencyGeneration = s.store.emergencyGeneration ∧
    (reportStore i s).store.handedD = s.store.handedD ∧
    (reportStore i s).store.handedExposed = s.store.handedExposed ∧ (reportStore i s).array = s.array ∧
    (reportStore i s).supply = s.supply ∧ (reportStore i s).clock = s.clock ∧
    (reportStore i s).recovery = s.recovery ∧ (reportStore i s).cc = s.cc ∧ (reportStore i s).out = s.out := by
  simp only [reportStore]
  (repeat' split) <;> simp

@[simp] theorem decideCompletion_frame (c : ChanId) (r : Request) (h : Header) (s : State) :
    (decideCompletion c r h s).pending = s.pending ∧ (decideCompletion c r h s).now = s.now ∧
    (decideCompletion c r h s).free = s.free ∧ (decideCompletion c r h s).device = s.device ∧
    (decideCompletion c r h s).window = s.window ∧ (decideCompletion c r h s).journal.segs = s.journal.segs ∧
    (decideCompletion c r h s).journal.chain = s.journal.chain ∧
    (decideCompletion c r h s).journal.sram = s.journal.sram ∧
    (decideCompletion c r h s).journal.nextSeq = s.journal.nextSeq ∧
    (decideCompletion c r h s).journal.head = s.journal.head ∧
    (decideCompletion c r h s).journal.format = s.journal.format ∧
    (decideCompletion c r h s).journal.formatted = s.journal.formatted ∧ (decideCompletion c r h s).txns = s.txns ∧
    (decideCompletion c r h s).budget.b = s.budget.b ∧ (decideCompletion c r h s).budget.limit = s.budget.limit ∧
    (decideCompletion c r h s).budget.headroom = s.budget.headroom ∧
    (decideCompletion c r h s).budget.exposed = s.budget.exposed ∧ (decideCompletion c r h s).monitor = s.monitor ∧
    (decideCompletion c r h s).store.op = s.store.op ∧
    (decideCompletion c r h s).store.storedThrough = s.store.storedThrough ∧
    (decideCompletion c r h s).store.metadataDirty = s.store.metadataDirty ∧
    (decideCompletion c r h s).store.jobsSinceDirty = s.store.jobsSinceDirty ∧
    (decideCompletion c r h s).store.newest = s.store.newest ∧
    (decideCompletion c r h s).store.idleDelay = s.store.idleDelay ∧
    (decideCompletion c r h s).store.idleTimer = s.store.idleTimer ∧
    (decideCompletion c r h s).store.lineStore = s.store.lineStore ∧
    (decideCompletion c r h s).store.phase = s.store.phase ∧
    (decideCompletion c r h s).store.storedCount = s.store.storedCount ∧
    (decideCompletion c r h s).store.failedList = s.store.failedList ∧
    (decideCompletion c r h s).store.failedOverflow = s.store.failedOverflow ∧
    (decideCompletion c r h s).store.emergencyGeneration = s.store.emergencyGeneration ∧
    (decideCompletion c r h s).store.handedD = s.store.handedD ∧
    (decideCompletion c r h s).store.handedExposed = s.store.handedExposed ∧
    (decideCompletion c r h s).array = s.array ∧ (decideCompletion c r h s).supply = s.supply ∧
    (decideCompletion c r h s).clock = s.clock ∧ (decideCompletion c r h s).recovery = s.recovery ∧
    (decideCompletion c r h s).cc.fetch = s.cc.fetch ∧ (decideCompletion c r h s).cc.lastServed = s.cc.lastServed ∧
    (decideCompletion c r h s).cc.fetchPaused = s.cc.fetchPaused ∧
    (decideCompletion c r h s).cc.alerts = s.cc.alerts ∧
    (decideCompletion c r h s).cc.alertWaiters = s.cc.alertWaiters := by
  simp only [decideCompletion]
  (repeat' split) <;> simp

@[simp] theorem takeSeq_frame (s : State) :
    (takeSeq s).pending = s.pending ∧ (takeSeq s).now = s.now ∧ (takeSeq s).free = s.free ∧
    (takeSeq s).device = s.device ∧ (takeSeq s).window = s.window ∧ (takeSeq s).staging = s.staging ∧
    (takeSeq s).journal.segs = s.journal.segs ∧ (takeSeq s).journal.chain = s.journal.chain ∧
    (takeSeq s).journal.sram = s.journal.sram ∧ (takeSeq s).journal.head = s.journal.head ∧
    (takeSeq s).journal.format = s.journal.format ∧ (takeSeq s).journal.formatted = s.journal.formatted ∧
    (takeSeq s).journal.full = s.journal.full ∧ (takeSeq s).journal.readBuffers = s.journal.readBuffers ∧
    (takeSeq s).journal.readWaiters = s.journal.readWaiters ∧ (takeSeq s).txns = s.txns ∧
    (takeSeq s).budget = s.budget ∧ (takeSeq s).monitor = s.monitor ∧ (takeSeq s).store = s.store ∧
    (takeSeq s).array = s.array ∧ (takeSeq s).supply = s.supply ∧ (takeSeq s).clock.ticks = s.clock.ticks ∧
    (takeSeq s).clock.epoch = s.clock.epoch ∧ (takeSeq s).clock.intact = s.clock.intact ∧
    (takeSeq s).clock.stopLatch = s.clock.stopLatch ∧ (takeSeq s).clock.validMarker = s.clock.validMarker ∧
    (takeSeq s).clock.oscRunning = s.clock.oscRunning ∧ (takeSeq s).clock.batteryGood = s.clock.batteryGood ∧
    (takeSeq s).clock.clockValid = s.clock.clockValid ∧ (takeSeq s).clock.transfer = s.clock.transfer ∧
    (takeSeq s).clock.batteryHeld = s.clock.batteryHeld ∧ (takeSeq s).clock.stopRecorded = s.clock.stopRecorded ∧
    (takeSeq s).clock.vbatGood = s.clock.vbatGood ∧ (takeSeq s).recovery = s.recovery ∧ (takeSeq s).cc = s.cc ∧
    (takeSeq s).out = s.out := by
  simp [takeSeq]

@[simp] theorem reportDirtied_frame (wasDirty : Bool) (s : State) :
    (reportDirtied wasDirty s).pending = s.pending ∧ (reportDirtied wasDirty s).now = s.now ∧
    (reportDirtied wasDirty s).free = s.free ∧ (reportDirtied wasDirty s).device = s.device ∧
    (reportDirtied wasDirty s).window = s.window ∧ (reportDirtied wasDirty s).staging = s.staging ∧
    (reportDirtied wasDirty s).journal = s.journal ∧ (reportDirtied wasDirty s).txns = s.txns ∧
    (reportDirtied wasDirty s).budget.b = s.budget.b ∧ (reportDirtied wasDirty s).budget.limit = s.budget.limit ∧
    (reportDirtied wasDirty s).budget.headroom = s.budget.headroom ∧
    (reportDirtied wasDirty s).budget.held = s.budget.held ∧
    (reportDirtied wasDirty s).budget.exposed = s.budget.exposed ∧ (reportDirtied wasDirty s).monitor = s.monitor ∧
    (reportDirtied wasDirty s).store.op = s.store.op ∧
    (reportDirtied wasDirty s).store.storedThrough = s.store.storedThrough ∧
    (reportDirtied wasDirty s).store.waiting = s.store.waiting ∧
    (reportDirtied wasDirty s).store.reservationWaiters = s.store.reservationWaiters ∧
    (reportDirtied wasDirty s).store.metadataDirty = s.store.metadataDirty ∧
    (reportDirtied wasDirty s).store.jobsSinceDirty = s.store.jobsSinceDirty ∧
    (reportDirtied wasDirty s).store.newest = s.store.newest ∧
    (reportDirtied wasDirty s).store.idleDelay = s.store.idleDelay ∧
    (reportDirtied wasDirty s).store.idleTimer = s.store.idleTimer ∧
    (reportDirtied wasDirty s).store.lineStore = s.store.lineStore ∧
    (reportDirtied wasDirty s).store.phase = s.store.phase ∧
    (reportDirtied wasDirty s).store.storedCount = s.store.storedCount ∧
    (reportDirtied wasDirty s).store.failedList = s.store.failedList ∧
    (reportDirtied wasDirty s).store.failedOverflow = s.store.failedOverflow ∧
    (reportDirtied wasDirty s).store.emergencyGeneration = s.store.emergencyGeneration ∧
    (reportDirtied wasDirty s).store.handedD = s.store.handedD ∧
    (reportDirtied wasDirty s).store.handedExposed = s.store.handedExposed ∧
    (reportDirtied wasDirty s).array = s.array ∧ (reportDirtied wasDirty s).supply = s.supply ∧
    (reportDirtied wasDirty s).clock = s.clock ∧ (reportDirtied wasDirty s).recovery = s.recovery ∧
    (reportDirtied wasDirty s).cc = s.cc ∧ (reportDirtied wasDirty s).out = s.out := by
  simp only [reportDirtied]
  (repeat' split) <;> simp

@[simp] theorem recordEntry_frame (i : SegId) (c : ChanId) (r : Request) (h : Header) (payload : List Byte) (s : State) :
    (recordEntry i c r h payload s).pending = s.pending ∧ (recordEntry i c r h payload s).now = s.now ∧
    (recordEntry i c r h payload s).device = s.device ∧ (recordEntry i c r h payload s).window = s.window ∧
    (recordEntry i c r h payload s).staging = s.staging ∧
    (recordEntry i c r h payload s).journal.chain = s.journal.chain ∧
    (recordEntry i c r h payload s).journal.head = s.journal.head ∧
    (recordEntry i c r h payload s).journal.format = s.journal.format ∧
    (recordEntry i c r h payload s).journal.formatted = s.journal.formatted ∧
    (recordEntry i c r h payload s).journal.full = s.journal.full ∧
    (recordEntry i c r h payload s).journal.readBuffers = s.journal.readBuffers ∧
    (recordEntry i c r h payload s).journal.readWaiters = s.journal.readWaiters ∧
    (recordEntry i c r h payload s).budget.b = s.budget.b ∧
    (recordEntry i c r h payload s).budget.limit = s.budget.limit ∧
    (recordEntry i c r h payload s).budget.headroom = s.budget.headroom ∧
    (recordEntry i c r h payload s).budget.held = s.budget.held ∧
    (recordEntry i c r h payload s).budget.exposed = s.budget.exposed ∧
    (recordEntry i c r h payload s).monitor = s.monitor ∧
    (recordEntry i c r h payload s).store.storedThrough = s.store.storedThrough ∧
    (recordEntry i c r h payload s).store.waiting = s.store.waiting ∧
    (recordEntry i c r h payload s).store.reservationWaiters = s.store.reservationWaiters ∧
    (recordEntry i c r h payload s).store.metadataDirty = s.store.metadataDirty ∧
    (recordEntry i c r h payload s).store.jobsSinceDirty = s.store.jobsSinceDirty ∧
    (recordEntry i c r h payload s).store.newest = s.store.newest ∧
    (recordEntry i c r h payload s).store.idleDelay = s.store.idleDelay ∧
    (recordEntry i c r h payload s).store.lineStore = s.store.lineStore ∧
    (recordEntry i c r h payload s).store.phase = s.store.phase ∧
    (recordEntry i c r h payload s).store.storedCount = s.store.storedCount ∧
    (recordEntry i c r h payload s).store.failedList = s.store.failedList ∧
    (recordEntry i c r h payload s).store.failedOverflow = s.store.failedOverflow ∧
    (recordEntry i c r h payload s).store.emergencyGeneration = s.store.emergencyGeneration ∧
    (recordEntry i c r h payload s).store.handedD = s.store.handedD ∧
    (recordEntry i c r h payload s).store.handedExposed = s.store.handedExposed ∧
    (recordEntry i c r h payload s).array.slotA = s.array.slotA ∧
    (recordEntry i c r h payload s).array.slotB = s.array.slotB ∧
    (recordEntry i c r h payload s).array.closing = s.array.closing ∧
    (recordEntry i c r h payload s).supply = s.supply ∧ (recordEntry i c r h payload s).clock.ticks = s.clock.ticks ∧
    (recordEntry i c r h payload s).clock.epoch = s.clock.epoch ∧
    (recordEntry i c r h payload s).clock.intact = s.clock.intact ∧
    (recordEntry i c r h payload s).clock.stopLatch = s.clock.stopLatch ∧
    (recordEntry i c r h payload s).clock.validMarker = s.clock.validMarker ∧
    (recordEntry i c r h payload s).clock.oscRunning = s.clock.oscRunning ∧
    (recordEntry i c r h payload s).clock.batteryGood = s.clock.batteryGood ∧
    (recordEntry i c r h payload s).clock.clockValid = s.clock.clockValid ∧
    (recordEntry i c r h payload s).clock.transfer = s.clock.transfer ∧
    (recordEntry i c r h payload s).clock.batteryHeld = s.clock.batteryHeld ∧
    (recordEntry i c r h payload s).clock.stopRecorded = s.clock.stopRecorded ∧
    (recordEntry i c r h payload s).clock.vbatGood = s.clock.vbatGood ∧
    (recordEntry i c r h payload s).recovery = s.recovery ∧ (recordEntry i c r h payload s).cc = s.cc ∧
    (recordEntry i c r h payload s).out = s.out := by
  simp [recordEntry]

@[simp] theorem commit_frame (c : ChanId) (r : Request) (s : State) :
    (commit c r s).pending = s.pending ∧ (commit c r s).now = s.now ∧ (commit c r s).device = s.device ∧
    (commit c r s).window = s.window ∧ (commit c r s).journal.head = s.journal.head ∧
    (commit c r s).journal.format = s.journal.format ∧ (commit c r s).journal.formatted = s.journal.formatted ∧
    (commit c r s).budget.b = s.budget.b ∧ (commit c r s).budget.limit = s.budget.limit ∧
    (commit c r s).budget.headroom = s.budget.headroom ∧ (commit c r s).budget.exposed = s.budget.exposed ∧
    (commit c r s).monitor = s.monitor ∧ (commit c r s).store.metadataDirty = s.store.metadataDirty ∧
    (commit c r s).store.jobsSinceDirty = s.store.jobsSinceDirty ∧ (commit c r s).store.newest = s.store.newest ∧
    (commit c r s).store.idleDelay = s.store.idleDelay ∧ (commit c r s).store.lineStore = s.store.lineStore ∧
    (commit c r s).store.phase = s.store.phase ∧ (commit c r s).store.storedCount = s.store.storedCount ∧
    (commit c r s).store.failedList = s.store.failedList ∧
    (commit c r s).store.failedOverflow = s.store.failedOverflow ∧
    (commit c r s).store.emergencyGeneration = s.store.emergencyGeneration ∧
    (commit c r s).store.handedD = s.store.handedD ∧ (commit c r s).store.handedExposed = s.store.handedExposed ∧
    (commit c r s).array.slotA = s.array.slotA ∧ (commit c r s).array.slotB = s.array.slotB ∧
    (commit c r s).array.closing = s.array.closing ∧ (commit c r s).supply = s.supply ∧
    (commit c r s).clock.ticks = s.clock.ticks ∧ (commit c r s).clock.epoch = s.clock.epoch ∧
    (commit c r s).clock.intact = s.clock.intact ∧ (commit c r s).clock.stopLatch = s.clock.stopLatch ∧
    (commit c r s).clock.validMarker = s.clock.validMarker ∧ (commit c r s).clock.oscRunning = s.clock.oscRunning ∧
    (commit c r s).clock.batteryGood = s.clock.batteryGood ∧ (commit c r s).clock.clockValid = s.clock.clockValid ∧
    (commit c r s).clock.transfer = s.clock.transfer ∧ (commit c r s).clock.batteryHeld = s.clock.batteryHeld ∧
    (commit c r s).clock.stopRecorded = s.clock.stopRecorded ∧ (commit c r s).clock.vbatGood = s.clock.vbatGood ∧
    (commit c r s).recovery = s.recovery ∧ (commit c r s).cc.fetch = s.cc.fetch ∧
    (commit c r s).cc.lastServed = s.cc.lastServed ∧ (commit c r s).cc.fetchPaused = s.cc.fetchPaused ∧
    (commit c r s).cc.alerts = s.cc.alerts ∧ (commit c r s).cc.alertWaiters = s.cc.alertWaiters := by
  simp only [commit]
  (repeat' split) <;> simp

@[simp] theorem takeTxnReservation_frame (c : ChanId) (r : Executing) (s : State) :
    (takeTxnReservation c r s).pending = s.pending ∧ (takeTxnReservation c r s).now = s.now ∧
    (takeTxnReservation c r s).free = s.free ∧ (takeTxnReservation c r s).device = s.device ∧
    (takeTxnReservation c r s).window = s.window ∧ (takeTxnReservation c r s).staging = s.staging ∧
    (takeTxnReservation c r s).journal = s.journal ∧ (takeTxnReservation c r s).txns = s.txns ∧
    (takeTxnReservation c r s).budget = s.budget ∧ (takeTxnReservation c r s).monitor = s.monitor ∧
    (takeTxnReservation c r s).store = s.store ∧ (takeTxnReservation c r s).array = s.array ∧
    (takeTxnReservation c r s).supply = s.supply ∧ (takeTxnReservation c r s).clock = s.clock ∧
    (takeTxnReservation c r s).recovery = s.recovery ∧ (takeTxnReservation c r s).cc.fetch = s.cc.fetch ∧
    (takeTxnReservation c r s).cc.lastServed = s.cc.lastServed ∧
    (takeTxnReservation c r s).cc.fetchPaused = s.cc.fetchPaused ∧
    (takeTxnReservation c r s).cc.alerts = s.cc.alerts ∧
    (takeTxnReservation c r s).cc.alertWaiters = s.cc.alertWaiters ∧
    (takeTxnReservation c r s).cc.posts = s.cc.posts ∧
    (takeTxnReservation c r s).cc.statusWrites = s.cc.statusWrites ∧ (takeTxnReservation c r s).out = s.out := by
  simp only [takeTxnReservation]
  (repeat' split) <;> simp

@[simp] theorem commitAttempt_frame (grant : Bool) (c : ChanId) (r : Executing) (s : State) :
    (commitAttempt grant c r s).pending = s.pending ∧ (commitAttempt grant c r s).now = s.now ∧
    (commitAttempt grant c r s).device = s.device ∧ (commitAttempt grant c r s).window = s.window ∧
    (commitAttempt grant c r s).journal.head = s.journal.head ∧
    (commitAttempt grant c r s).journal.format = s.journal.format ∧
    (commitAttempt grant c r s).journal.formatted = s.journal.formatted ∧
    (commitAttempt grant c r s).budget.b = s.budget.b ∧ (commitAttempt grant c r s).budget.limit = s.budget.limit ∧
    (commitAttempt grant c r s).budget.headroom = s.budget.headroom ∧
    (commitAttempt grant c r s).budget.exposed = s.budget.exposed ∧ (commitAttempt grant c r s).monitor = s.monitor ∧
    (commitAttempt grant c r s).store.metadataDirty = s.store.metadataDirty ∧
    (commitAttempt grant c r s).store.jobsSinceDirty = s.store.jobsSinceDirty ∧
    (commitAttempt grant c r s).store.newest = s.store.newest ∧
    (commitAttempt grant c r s).store.idleDelay = s.store.idleDelay ∧
    (commitAttempt grant c r s).store.lineStore = s.store.lineStore ∧
    (commitAttempt grant c r s).store.phase = s.store.phase ∧
    (commitAttempt grant c r s).store.storedCount = s.store.storedCount ∧
    (commitAttempt grant c r s).store.failedList = s.store.failedList ∧
    (commitAttempt grant c r s).store.failedOverflow = s.store.failedOverflow ∧
    (commitAttempt grant c r s).store.emergencyGeneration = s.store.emergencyGeneration ∧
    (commitAttempt grant c r s).store.handedD = s.store.handedD ∧
    (commitAttempt grant c r s).store.handedExposed = s.store.handedExposed ∧
    (commitAttempt grant c r s).array.slotA = s.array.slotA ∧
    (commitAttempt grant c r s).array.slotB = s.array.slotB ∧
    (commitAttempt grant c r s).array.closing = s.array.closing ∧ (commitAttempt grant c r s).supply = s.supply ∧
    (commitAttempt grant c r s).clock.ticks = s.clock.ticks ∧
    (commitAttempt grant c r s).clock.epoch = s.clock.epoch ∧
    (commitAttempt grant c r s).clock.intact = s.clock.intact ∧
    (commitAttempt grant c r s).clock.stopLatch = s.clock.stopLatch ∧
    (commitAttempt grant c r s).clock.validMarker = s.clock.validMarker ∧
    (commitAttempt grant c r s).clock.oscRunning = s.clock.oscRunning ∧
    (commitAttempt grant c r s).clock.batteryGood = s.clock.batteryGood ∧
    (commitAttempt grant c r s).clock.clockValid = s.clock.clockValid ∧
    (commitAttempt grant c r s).clock.transfer = s.clock.transfer ∧
    (commitAttempt grant c r s).clock.batteryHeld = s.clock.batteryHeld ∧
    (commitAttempt grant c r s).clock.stopRecorded = s.clock.stopRecorded ∧
    (commitAttempt grant c r s).clock.vbatGood = s.clock.vbatGood ∧
    (commitAttempt grant c r s).recovery = s.recovery ∧ (commitAttempt grant c r s).cc.fetch = s.cc.fetch ∧
    (commitAttempt grant c r s).cc.lastServed = s.cc.lastServed ∧
    (commitAttempt grant c r s).cc.fetchPaused = s.cc.fetchPaused := by
  simp only [commitAttempt]
  (repeat' split) <;> simp

@[simp] theorem grantLoop_frame (n : Nat) (s : State) :
    (grantLoop n s).pending = s.pending ∧ (grantLoop n s).now = s.now ∧ (grantLoop n s).device = s.device ∧
    (grantLoop n s).window = s.window ∧ (grantLoop n s).journal.head = s.journal.head ∧
    (grantLoop n s).journal.format = s.journal.format ∧ (grantLoop n s).journal.formatted = s.journal.formatted ∧
    (grantLoop n s).budget.b = s.budget.b ∧ (grantLoop n s).budget.limit = s.budget.limit ∧
    (grantLoop n s).budget.headroom = s.budget.headroom ∧ (grantLoop n s).budget.exposed = s.budget.exposed ∧
    (grantLoop n s).monitor = s.monitor ∧ (grantLoop n s).store.metadataDirty = s.store.metadataDirty ∧
    (grantLoop n s).store.jobsSinceDirty = s.store.jobsSinceDirty ∧ (grantLoop n s).store.newest = s.store.newest ∧
    (grantLoop n s).store.idleDelay = s.store.idleDelay ∧ (grantLoop n s).store.lineStore = s.store.lineStore ∧
    (grantLoop n s).store.phase = s.store.phase ∧ (grantLoop n s).store.storedCount = s.store.storedCount ∧
    (grantLoop n s).store.failedList = s.store.failedList ∧
    (grantLoop n s).store.failedOverflow = s.store.failedOverflow ∧
    (grantLoop n s).store.emergencyGeneration = s.store.emergencyGeneration ∧
    (grantLoop n s).store.handedD = s.store.handedD ∧ (grantLoop n s).store.handedExposed = s.store.handedExposed ∧
    (grantLoop n s).array.slotA = s.array.slotA ∧ (grantLoop n s).array.slotB = s.array.slotB ∧
    (grantLoop n s).array.closing = s.array.closing ∧ (grantLoop n s).supply = s.supply ∧
    (grantLoop n s).clock.ticks = s.clock.ticks ∧ (grantLoop n s).clock.epoch = s.clock.epoch ∧
    (grantLoop n s).clock.intact = s.clock.intact ∧ (grantLoop n s).clock.stopLatch = s.clock.stopLatch ∧
    (grantLoop n s).clock.validMarker = s.clock.validMarker ∧ (grantLoop n s).clock.oscRunning = s.clock.oscRunning ∧
    (grantLoop n s).clock.batteryGood = s.clock.batteryGood ∧ (grantLoop n s).clock.clockValid = s.clock.clockValid ∧
    (grantLoop n s).clock.transfer = s.clock.transfer ∧ (grantLoop n s).clock.batteryHeld = s.clock.batteryHeld ∧
    (grantLoop n s).clock.stopRecorded = s.clock.stopRecorded ∧ (grantLoop n s).clock.vbatGood = s.clock.vbatGood ∧
    (grantLoop n s).recovery = s.recovery ∧ (grantLoop n s).cc.fetch = s.cc.fetch ∧
    (grantLoop n s).cc.lastServed = s.cc.lastServed ∧ (grantLoop n s).cc.fetchPaused = s.cc.fetchPaused := by
  induction n generalizing s with
  | zero => simp [grantLoop]
  | succ n ih =>
    simp only [grantLoop]
    (repeat' split) <;> simp [ih]

@[simp] theorem grantRun_frame (s : State) :
    (grantRun s).pending = s.pending ∧ (grantRun s).now = s.now ∧ (grantRun s).device = s.device ∧
    (grantRun s).window = s.window ∧ (grantRun s).journal.head = s.journal.head ∧
    (grantRun s).journal.format = s.journal.format ∧ (grantRun s).journal.formatted = s.journal.formatted ∧
    (grantRun s).budget.b = s.budget.b ∧ (grantRun s).budget.limit = s.budget.limit ∧
    (grantRun s).budget.headroom = s.budget.headroom ∧ (grantRun s).budget.exposed = s.budget.exposed ∧
    (grantRun s).monitor = s.monitor ∧ (grantRun s).store.metadataDirty = s.store.metadataDirty ∧
    (grantRun s).store.jobsSinceDirty = s.store.jobsSinceDirty ∧ (grantRun s).store.newest = s.store.newest ∧
    (grantRun s).store.idleDelay = s.store.idleDelay ∧ (grantRun s).store.lineStore = s.store.lineStore ∧
    (grantRun s).store.phase = s.store.phase ∧ (grantRun s).store.storedCount = s.store.storedCount ∧
    (grantRun s).store.failedList = s.store.failedList ∧ (grantRun s).store.failedOverflow = s.store.failedOverflow ∧
    (grantRun s).store.emergencyGeneration = s.store.emergencyGeneration ∧
    (grantRun s).store.handedD = s.store.handedD ∧ (grantRun s).store.handedExposed = s.store.handedExposed ∧
    (grantRun s).array.slotA = s.array.slotA ∧ (grantRun s).array.slotB = s.array.slotB ∧
    (grantRun s).array.closing = s.array.closing ∧ (grantRun s).supply = s.supply ∧
    (grantRun s).clock.ticks = s.clock.ticks ∧ (grantRun s).clock.epoch = s.clock.epoch ∧
    (grantRun s).clock.intact = s.clock.intact ∧ (grantRun s).clock.stopLatch = s.clock.stopLatch ∧
    (grantRun s).clock.validMarker = s.clock.validMarker ∧ (grantRun s).clock.oscRunning = s.clock.oscRunning ∧
    (grantRun s).clock.batteryGood = s.clock.batteryGood ∧ (grantRun s).clock.clockValid = s.clock.clockValid ∧
    (grantRun s).clock.transfer = s.clock.transfer ∧ (grantRun s).clock.batteryHeld = s.clock.batteryHeld ∧
    (grantRun s).clock.stopRecorded = s.clock.stopRecorded ∧ (grantRun s).clock.vbatGood = s.clock.vbatGood ∧
    (grantRun s).recovery = s.recovery ∧ (grantRun s).cc.fetch = s.cc.fetch ∧
    (grantRun s).cc.lastServed = s.cc.lastServed ∧ (grantRun s).cc.fetchPaused = s.cc.fetchPaused := by
  simp [grantRun]

@[simp] theorem onReliefBut_frame (lost : Waiter → Bool) (s : State) :
    (onReliefBut lost s).pending = s.pending ∧ (onReliefBut lost s).now = s.now ∧ (onReliefBut lost s).device = s.device ∧
    (onReliefBut lost s).window = s.window ∧ (onReliefBut lost s).journal.head = s.journal.head ∧
    (onReliefBut lost s).journal.format = s.journal.format ∧ (onReliefBut lost s).journal.formatted = s.journal.formatted ∧
    (onReliefBut lost s).budget.b = s.budget.b ∧ (onReliefBut lost s).budget.limit = s.budget.limit ∧
    (onReliefBut lost s).budget.headroom = s.budget.headroom ∧ (onReliefBut lost s).monitor = s.monitor ∧
    (onReliefBut lost s).store.metadataDirty = s.store.metadataDirty ∧
    (onReliefBut lost s).store.jobsSinceDirty = s.store.jobsSinceDirty ∧ (onReliefBut lost s).store.newest = s.store.newest ∧
    (onReliefBut lost s).store.idleDelay = s.store.idleDelay ∧ (onReliefBut lost s).store.lineStore = s.store.lineStore ∧
    (onReliefBut lost s).store.phase = s.store.phase ∧ (onReliefBut lost s).store.storedCount = s.store.storedCount ∧
    (onReliefBut lost s).store.failedList = s.store.failedList ∧ (onReliefBut lost s).store.failedOverflow = s.store.failedOverflow ∧
    (onReliefBut lost s).store.emergencyGeneration = s.store.emergencyGeneration ∧
    (onReliefBut lost s).store.handedD = s.store.handedD ∧ (onReliefBut lost s).store.handedExposed = s.store.handedExposed ∧
    (onReliefBut lost s).array.slotA = s.array.slotA ∧ (onReliefBut lost s).array.slotB = s.array.slotB ∧
    (onReliefBut lost s).array.closing = s.array.closing ∧ (onReliefBut lost s).supply = s.supply ∧
    (onReliefBut lost s).clock.ticks = s.clock.ticks ∧ (onReliefBut lost s).clock.epoch = s.clock.epoch ∧
    (onReliefBut lost s).clock.intact = s.clock.intact ∧ (onReliefBut lost s).clock.stopLatch = s.clock.stopLatch ∧
    (onReliefBut lost s).clock.validMarker = s.clock.validMarker ∧ (onReliefBut lost s).clock.oscRunning = s.clock.oscRunning ∧
    (onReliefBut lost s).clock.batteryGood = s.clock.batteryGood ∧ (onReliefBut lost s).clock.clockValid = s.clock.clockValid ∧
    (onReliefBut lost s).clock.transfer = s.clock.transfer ∧ (onReliefBut lost s).clock.batteryHeld = s.clock.batteryHeld ∧
    (onReliefBut lost s).clock.stopRecorded = s.clock.stopRecorded ∧ (onReliefBut lost s).clock.vbatGood = s.clock.vbatGood ∧
    (onReliefBut lost s).recovery = s.recovery ∧ (onReliefBut lost s).cc.fetch = s.cc.fetch ∧
    (onReliefBut lost s).cc.lastServed = s.cc.lastServed ∧ (onReliefBut lost s).cc.fetchPaused = s.cc.fetchPaused := by
  simp only [onReliefBut]
  (repeat' split) <;> simp

@[simp] theorem onFreed_frame (s : State) :
    (onFreed s).pending = s.pending ∧ (onFreed s).now = s.now ∧ (onFreed s).device = s.device ∧
    (onFreed s).window = s.window ∧ (onFreed s).journal.head = s.journal.head ∧
    (onFreed s).journal.format = s.journal.format ∧ (onFreed s).journal.formatted = s.journal.formatted ∧
    (onFreed s).budget.b = s.budget.b ∧ (onFreed s).budget.limit = s.budget.limit ∧
    (onFreed s).budget.headroom = s.budget.headroom ∧ (onFreed s).budget.exposed = s.budget.exposed ∧
    (onFreed s).monitor = s.monitor ∧ (onFreed s).store.metadataDirty = s.store.metadataDirty ∧
    (onFreed s).store.jobsSinceDirty = s.store.jobsSinceDirty ∧ (onFreed s).store.newest = s.store.newest ∧
    (onFreed s).store.idleDelay = s.store.idleDelay ∧ (onFreed s).store.lineStore = s.store.lineStore ∧
    (onFreed s).store.phase = s.store.phase ∧ (onFreed s).store.storedCount = s.store.storedCount ∧
    (onFreed s).store.failedList = s.store.failedList ∧ (onFreed s).store.failedOverflow = s.store.failedOverflow ∧
    (onFreed s).store.emergencyGeneration = s.store.emergencyGeneration ∧
    (onFreed s).store.handedD = s.store.handedD ∧ (onFreed s).store.handedExposed = s.store.handedExposed ∧
    (onFreed s).array.slotA = s.array.slotA ∧ (onFreed s).array.slotB = s.array.slotB ∧
    (onFreed s).array.closing = s.array.closing ∧ (onFreed s).supply = s.supply ∧
    (onFreed s).clock.ticks = s.clock.ticks ∧ (onFreed s).clock.epoch = s.clock.epoch ∧
    (onFreed s).clock.intact = s.clock.intact ∧ (onFreed s).clock.stopLatch = s.clock.stopLatch ∧
    (onFreed s).clock.validMarker = s.clock.validMarker ∧ (onFreed s).clock.oscRunning = s.clock.oscRunning ∧
    (onFreed s).clock.batteryGood = s.clock.batteryGood ∧ (onFreed s).clock.clockValid = s.clock.clockValid ∧
    (onFreed s).clock.transfer = s.clock.transfer ∧ (onFreed s).clock.batteryHeld = s.clock.batteryHeld ∧
    (onFreed s).clock.stopRecorded = s.clock.stopRecorded ∧ (onFreed s).clock.vbatGood = s.clock.vbatGood ∧
    (onFreed s).recovery = s.recovery ∧ (onFreed s).cc.fetch = s.cc.fetch ∧
    (onFreed s).cc.lastServed = s.cc.lastServed ∧ (onFreed s).cc.fetchPaused = s.cc.fetchPaused := by
  simp only [onFreed]
  (repeat' split) <;> simp

end Sys2Proof.Machine
end

