-- ==== Sys2Proof/Laws/CommandFrames.lean ====
section
/-! SUPPORT. The frame of each operation that a command's meaning calls: what it leaves as it was.
-/
namespace Sys2Proof.Machine

@[simp] theorem grantAfter_frame (b : Bool) (s : State) :
    (grantAfter b s).pending = s.pending ∧ (grantAfter b s).now = s.now ∧ (grantAfter b s).device = s.device ∧
    (grantAfter b s).window = s.window ∧ (grantAfter b s).journal.head = s.journal.head ∧
    (grantAfter b s).journal.format = s.journal.format ∧ (grantAfter b s).journal.formatted = s.journal.formatted ∧
    (grantAfter b s).budget.b = s.budget.b ∧ (grantAfter b s).budget.limit = s.budget.limit ∧
    (grantAfter b s).budget.headroom = s.budget.headroom ∧ (grantAfter b s).budget.exposed = s.budget.exposed ∧
    (grantAfter b s).monitor = s.monitor ∧ (grantAfter b s).store.metadataDirty = s.store.metadataDirty ∧
    (grantAfter b s).store.jobsSinceDirty = s.store.jobsSinceDirty ∧ (grantAfter b s).store.newest = s.store.newest ∧
    (grantAfter b s).store.idleDelay = s.store.idleDelay ∧ (grantAfter b s).store.lineStore = s.store.lineStore ∧
    (grantAfter b s).store.phase = s.store.phase ∧ (grantAfter b s).store.storedCount = s.store.storedCount ∧
    (grantAfter b s).store.failedList = s.store.failedList ∧
    (grantAfter b s).store.failedOverflow = s.store.failedOverflow ∧
    (grantAfter b s).store.emergencyGeneration = s.store.emergencyGeneration ∧
    (grantAfter b s).store.handedD = s.store.handedD ∧ (grantAfter b s).store.handedExposed = s.store.handedExposed ∧
    (grantAfter b s).array.slotA = s.array.slotA ∧ (grantAfter b s).array.slotB = s.array.slotB ∧
    (grantAfter b s).array.closing = s.array.closing ∧ (grantAfter b s).supply = s.supply ∧
    (grantAfter b s).clock.ticks = s.clock.ticks ∧ (grantAfter b s).clock.epoch = s.clock.epoch ∧
    (grantAfter b s).clock.intact = s.clock.intact ∧ (grantAfter b s).clock.stopLatch = s.clock.stopLatch ∧
    (grantAfter b s).clock.validMarker = s.clock.validMarker ∧
    (grantAfter b s).clock.oscRunning = s.clock.oscRunning ∧
    (grantAfter b s).clock.batteryGood = s.clock.batteryGood ∧
    (grantAfter b s).clock.clockValid = s.clock.clockValid ∧ (grantAfter b s).clock.transfer = s.clock.transfer ∧
    (grantAfter b s).clock.batteryHeld = s.clock.batteryHeld ∧
    (grantAfter b s).clock.stopRecorded = s.clock.stopRecorded ∧ (grantAfter b s).clock.vbatGood = s.clock.vbatGood ∧
    (grantAfter b s).recovery = s.recovery ∧ (grantAfter b s).cc.fetch = s.cc.fetch ∧
    (grantAfter b s).cc.lastServed = s.cc.lastServed ∧ (grantAfter b s).cc.fetchPaused = s.cc.fetchPaused := by
  simp only [grantAfter]
  (repeat' split) <;> simp

@[simp] theorem dropWork_frame (c : ChanId) (s : State) :
    (dropWork c s).pending = s.pending ∧ (dropWork c s).now = s.now ∧ (dropWork c s).free = s.free ∧
    (dropWork c s).device = s.device ∧ (dropWork c s).window = s.window ∧
    (dropWork c s).journal.segs = s.journal.segs ∧ (dropWork c s).journal.chain = s.journal.chain ∧
    (dropWork c s).journal.sram = s.journal.sram ∧ (dropWork c s).journal.nextSeq = s.journal.nextSeq ∧
    (dropWork c s).journal.head = s.journal.head ∧ (dropWork c s).journal.format = s.journal.format ∧
    (dropWork c s).journal.formatted = s.journal.formatted ∧ (dropWork c s).txns = s.txns ∧
    (dropWork c s).budget.b = s.budget.b ∧ (dropWork c s).budget.limit = s.budget.limit ∧
    (dropWork c s).budget.headroom = s.budget.headroom ∧ (dropWork c s).budget.exposed = s.budget.exposed ∧
    (dropWork c s).monitor = s.monitor ∧ (dropWork c s).store.op = s.store.op ∧
    (dropWork c s).store.storedThrough = s.store.storedThrough ∧
    (dropWork c s).store.metadataDirty = s.store.metadataDirty ∧
    (dropWork c s).store.jobsSinceDirty = s.store.jobsSinceDirty ∧ (dropWork c s).store.newest = s.store.newest ∧
    (dropWork c s).store.idleDelay = s.store.idleDelay ∧ (dropWork c s).store.idleTimer = s.store.idleTimer ∧
    (dropWork c s).store.lineStore = s.store.lineStore ∧ (dropWork c s).store.phase = s.store.phase ∧
    (dropWork c s).store.storedCount = s.store.storedCount ∧ (dropWork c s).store.failedList = s.store.failedList ∧
    (dropWork c s).store.failedOverflow = s.store.failedOverflow ∧
    (dropWork c s).store.emergencyGeneration = s.store.emergencyGeneration ∧
    (dropWork c s).store.handedD = s.store.handedD ∧ (dropWork c s).store.handedExposed = s.store.handedExposed ∧
    (dropWork c s).array = s.array ∧ (dropWork c s).supply = s.supply ∧ (dropWork c s).clock = s.clock ∧
    (dropWork c s).recovery = s.recovery ∧ (dropWork c s).cc.lastServed = s.cc.lastServed ∧
    (dropWork c s).cc.fetchPaused = s.cc.fetchPaused ∧ (dropWork c s).cc.alerts = s.cc.alerts ∧
    (dropWork c s).cc.alertWaiters = s.cc.alertWaiters := by
  simp [dropWork]

@[simp] theorem controlFault_frame (reason : FaultReason) (s : State) :
    (controlFault reason s).pending = s.pending ∧ (controlFault reason s).now = s.now ∧
    (controlFault reason s).free = s.free ∧ (controlFault reason s).device = s.device ∧
    (controlFault reason s).staging = s.staging ∧ (controlFault reason s).journal = s.journal ∧
    (controlFault reason s).txns = s.txns ∧ (controlFault reason s).budget = s.budget ∧
    (controlFault reason s).monitor = s.monitor ∧ (controlFault reason s).store = s.store ∧
    (controlFault reason s).array = s.array ∧ (controlFault reason s).supply = s.supply ∧
    (controlFault reason s).clock = s.clock ∧ (controlFault reason s).recovery = s.recovery ∧
    (controlFault reason s).cc.fetch = s.cc.fetch ∧ (controlFault reason s).cc.lastServed = s.cc.lastServed ∧
    (controlFault reason s).cc.fetchPaused = s.cc.fetchPaused ∧ (controlFault reason s).cc.alerts = s.cc.alerts ∧
    (controlFault reason s).cc.posts = s.cc.posts ∧ (controlFault reason s).cc.statusWrites = s.cc.statusWrites ∧
    (controlFault reason s).out = s.out := by
  simp [controlFault]

@[simp] theorem closeFaulted_frame (c : ChanId) (reason : FaultReason) (s : State) :
    (closeFaulted c reason s).pending = s.pending ∧ (closeFaulted c reason s).now = s.now ∧
    (closeFaulted c reason s).free = s.free ∧ (closeFaulted c reason s).device = s.device ∧
    (closeFaulted c reason s).window = s.window ∧ (closeFaulted c reason s).staging = s.staging ∧
    (closeFaulted c reason s).journal = s.journal ∧ (closeFaulted c reason s).txns = s.txns ∧
    (closeFaulted c reason s).budget = s.budget ∧ (closeFaulted c reason s).monitor = s.monitor ∧
    (closeFaulted c reason s).store = s.store ∧ (closeFaulted c reason s).array = s.array ∧
    (closeFaulted c reason s).supply = s.supply ∧ (closeFaulted c reason s).clock = s.clock ∧
    (closeFaulted c reason s).recovery = s.recovery ∧ (closeFaulted c reason s).cc.fetch = s.cc.fetch ∧
    (closeFaulted c reason s).cc.lastServed = s.cc.lastServed ∧
    (closeFaulted c reason s).cc.fetchPaused = s.cc.fetchPaused ∧ (closeFaulted c reason s).cc.alerts = s.cc.alerts ∧
    (closeFaulted c reason s).cc.alertWaiters = s.cc.alertWaiters ∧
    (closeFaulted c reason s).cc.statusWrites = s.cc.statusWrites := by
  simp only [closeFaulted]
  (repeat' split) <;> simp

/-- A fault's dropped host writes leave the whole block as it was, but for the record of what the link has done and the
free value they use up. -/
@[simp] theorem dropWrites_frame (c : ChanId) (reason : FaultReason) (s : State) :
    (dropWrites c reason s).pending = s.pending ∧ (dropWrites c reason s).now = s.now ∧
    (dropWrites c reason s).device = s.device ∧ (dropWrites c reason s).window = s.window ∧
    (dropWrites c reason s).cc = s.cc ∧ (dropWrites c reason s).staging = s.staging ∧
    (dropWrites c reason s).journal = s.journal ∧ (dropWrites c reason s).txns = s.txns ∧
    (dropWrites c reason s).budget = s.budget ∧ (dropWrites c reason s).monitor = s.monitor ∧
    (dropWrites c reason s).store = s.store ∧ (dropWrites c reason s).array = s.array ∧
    (dropWrites c reason s).supply = s.supply ∧ (dropWrites c reason s).clock = s.clock ∧
    (dropWrites c reason s).recovery = s.recovery := by
  simp only [dropWrites]
  split <;> simp

@[simp] theorem beginFault_frame (c : ChanId) (reason : FaultReason) (s : State) :
    (beginFault c reason s).pending = s.pending ∧ (beginFault c reason s).now = s.now ∧
    (beginFault c reason s).device = s.device ∧
    (beginFault c reason s).journal.segs = s.journal.segs ∧ (beginFault c reason s).journal.chain = s.journal.chain ∧
    (beginFault c reason s).journal.sram = s.journal.sram ∧
    (beginFault c reason s).journal.nextSeq = s.journal.nextSeq ∧
    (beginFault c reason s).journal.head = s.journal.head ∧
    (beginFault c reason s).journal.format = s.journal.format ∧
    (beginFault c reason s).journal.formatted = s.journal.formatted ∧ (beginFault c reason s).txns = s.txns ∧
    (beginFault c reason s).budget.b = s.budget.b ∧ (beginFault c reason s).budget.limit = s.budget.limit ∧
    (beginFault c reason s).budget.headroom = s.budget.headroom ∧
    (beginFault c reason s).budget.exposed = s.budget.exposed ∧ (beginFault c reason s).monitor = s.monitor ∧
    (beginFault c reason s).store.op = s.store.op ∧
    (beginFault c reason s).store.storedThrough = s.store.storedThrough ∧
    (beginFault c reason s).store.metadataDirty = s.store.metadataDirty ∧
    (beginFault c reason s).store.jobsSinceDirty = s.store.jobsSinceDirty ∧
    (beginFault c reason s).store.newest = s.store.newest ∧
    (beginFault c reason s).store.idleDelay = s.store.idleDelay ∧
    (beginFault c reason s).store.idleTimer = s.store.idleTimer ∧
    (beginFault c reason s).store.lineStore = s.store.lineStore ∧
    (beginFault c reason s).store.phase = s.store.phase ∧
    (beginFault c reason s).store.storedCount = s.store.storedCount ∧
    (beginFault c reason s).store.failedList = s.store.failedList ∧
    (beginFault c reason s).store.failedOverflow = s.store.failedOverflow ∧
    (beginFault c reason s).store.emergencyGeneration = s.store.emergencyGeneration ∧
    (beginFault c reason s).store.handedD = s.store.handedD ∧
    (beginFault c reason s).store.handedExposed = s.store.handedExposed ∧ (beginFault c reason s).array = s.array ∧
    (beginFault c reason s).supply = s.supply ∧ (beginFault c reason s).clock = s.clock ∧
    (beginFault c reason s).recovery = s.recovery ∧ (beginFault c reason s).cc.lastServed = s.cc.lastServed ∧
    (beginFault c reason s).cc.fetchPaused = s.cc.fetchPaused ∧ (beginFault c reason s).cc.alerts = s.cc.alerts := by
  simp only [beginFault]
  (repeat' split) <;> simp

@[simp] theorem reportFault_frame (c : ChanId) (reason : FaultReason) (s : State) :
    (reportFault c reason s).pending = s.pending ∧ (reportFault c reason s).now = s.now ∧
    (reportFault c reason s).free = s.free ∧ (reportFault c reason s).device = s.device ∧
    (reportFault c reason s).window = s.window ∧ (reportFault c reason s).staging = s.staging ∧
    (reportFault c reason s).journal = s.journal ∧ (reportFault c reason s).txns = s.txns ∧
    (reportFault c reason s).budget = s.budget ∧ (reportFault c reason s).monitor = s.monitor ∧
    (reportFault c reason s).store = s.store ∧ (reportFault c reason s).array = s.array ∧
    (reportFault c reason s).supply = s.supply ∧ (reportFault c reason s).clock = s.clock ∧
    (reportFault c reason s).recovery = s.recovery ∧ (reportFault c reason s).cc.fetch = s.cc.fetch ∧
    (reportFault c reason s).cc.lastServed = s.cc.lastServed ∧
    (reportFault c reason s).cc.fetchPaused = s.cc.fetchPaused := by
  simp only [reportFault]
  (repeat' split) <;> simp

@[simp] theorem faultChannel_frame (c : ChanId) (reason : FaultReason) (s : State) :
    (faultChannel c reason s).pending = s.pending ∧ (faultChannel c reason s).now = s.now ∧
    (faultChannel c reason s).device = s.device ∧ (faultChannel c reason s).journal.head = s.journal.head ∧
    (faultChannel c reason s).journal.format = s.journal.format ∧
    (faultChannel c reason s).journal.formatted = s.journal.formatted ∧
    (faultChannel c reason s).budget.b = s.budget.b ∧ (faultChannel c reason s).budget.limit = s.budget.limit ∧
    (faultChannel c reason s).budget.headroom = s.budget.headroom ∧
    (faultChannel c reason s).budget.exposed = s.budget.exposed ∧ (faultChannel c reason s).monitor = s.monitor ∧
    (faultChannel c reason s).store.metadataDirty = s.store.metadataDirty ∧
    (faultChannel c reason s).store.jobsSinceDirty = s.store.jobsSinceDirty ∧
    (faultChannel c reason s).store.newest = s.store.newest ∧
    (faultChannel c reason s).store.idleDelay = s.store.idleDelay ∧
    (faultChannel c reason s).store.lineStore = s.store.lineStore ∧
    (faultChannel c reason s).store.phase = s.store.phase ∧
    (faultChannel c reason s).store.storedCount = s.store.storedCount ∧
    (faultChannel c reason s).store.failedList = s.store.failedList ∧
    (faultChannel c reason s).store.failedOverflow = s.store.failedOverflow ∧
    (faultChannel c reason s).store.emergencyGeneration = s.store.emergencyGeneration ∧
    (faultChannel c reason s).store.handedD = s.store.handedD ∧
    (faultChannel c reason s).store.handedExposed = s.store.handedExposed ∧
    (faultChannel c reason s).array.slotA = s.array.slotA ∧ (faultChannel c reason s).array.slotB = s.array.slotB ∧
    (faultChannel c reason s).array.closing = s.array.closing ∧ (faultChannel c reason s).supply = s.supply ∧
    (faultChannel c reason s).clock.ticks = s.clock.ticks ∧ (faultChannel c reason s).clock.epoch = s.clock.epoch ∧
    (faultChannel c reason s).clock.intact = s.clock.intact ∧
    (faultChannel c reason s).clock.stopLatch = s.clock.stopLatch ∧
    (faultChannel c reason s).clock.validMarker = s.clock.validMarker ∧
    (faultChannel c reason s).clock.oscRunning = s.clock.oscRunning ∧
    (faultChannel c reason s).clock.batteryGood = s.clock.batteryGood ∧
    (faultChannel c reason s).clock.clockValid = s.clock.clockValid ∧
    (faultChannel c reason s).clock.transfer = s.clock.transfer ∧
    (faultChannel c reason s).clock.batteryHeld = s.clock.batteryHeld ∧
    (faultChannel c reason s).clock.stopRecorded = s.clock.stopRecorded ∧
    (faultChannel c reason s).clock.vbatGood = s.clock.vbatGood ∧ (faultChannel c reason s).recovery = s.recovery ∧
    (faultChannel c reason s).cc.lastServed = s.cc.lastServed ∧
    (faultChannel c reason s).cc.fetchPaused = s.cc.fetchPaused := by
  simp only [faultChannel]
  (repeat' split) <;> simp

@[simp] theorem dropHostWork_frame (s : State) :
    (dropHostWork s).pending = s.pending ∧ (dropHostWork s).now = s.now ∧ (dropHostWork s).free = s.free ∧
    (dropHostWork s).journal.segs = s.journal.segs ∧ (dropHostWork s).journal.chain = s.journal.chain ∧
    (dropHostWork s).journal.sram = s.journal.sram ∧ (dropHostWork s).journal.nextSeq = s.journal.nextSeq ∧
    (dropHostWork s).journal.head = s.journal.head ∧ (dropHostWork s).journal.format = s.journal.format ∧
    (dropHostWork s).journal.formatted = s.journal.formatted ∧ (dropHostWork s).journal.full = s.journal.full ∧
    (dropHostWork s).txns = s.txns ∧ (dropHostWork s).budget.b = s.budget.b ∧
    (dropHostWork s).budget.limit = s.budget.limit ∧ (dropHostWork s).budget.headroom = s.budget.headroom ∧
    (dropHostWork s).budget.exposed = s.budget.exposed ∧ (dropHostWork s).budget.pressure = s.budget.pressure ∧
    (dropHostWork s).monitor = s.monitor ∧ (dropHostWork s).store.queue = s.store.queue ∧
    (dropHostWork s).store.op = s.store.op ∧ (dropHostWork s).store.storedThrough = s.store.storedThrough ∧
    (dropHostWork s).store.metadataDirty = s.store.metadataDirty ∧
    (dropHostWork s).store.jobsSinceDirty = s.store.jobsSinceDirty ∧ (dropHostWork s).store.newest = s.store.newest ∧
    (dropHostWork s).store.idleDelay = s.store.idleDelay ∧ (dropHostWork s).store.idleTimer = s.store.idleTimer ∧
    (dropHostWork s).store.lineStore = s.store.lineStore ∧ (dropHostWork s).store.phase = s.store.phase ∧
    (dropHostWork s).store.storedCount = s.store.storedCount ∧
    (dropHostWork s).store.failedList = s.store.failedList ∧
    (dropHostWork s).store.failedOverflow = s.store.failedOverflow ∧
    (dropHostWork s).store.emergencyGeneration = s.store.emergencyGeneration ∧
    (dropHostWork s).store.handedD = s.store.handedD ∧ (dropHostWork s).store.handedExposed = s.store.handedExposed ∧
    (dropHostWork s).array = s.array ∧ (dropHostWork s).supply = s.supply ∧ (dropHostWork s).clock = s.clock ∧
    (dropHostWork s).recovery = s.recovery ∧ (dropHostWork s).out = s.out ∧
    (dropHostWork s).cc.fetchPaused = s.cc.fetchPaused ∧ (dropHostWork s).cc.alerts = s.cc.alerts := by
  simp [dropHostWork]

@[simp] theorem hostReset_frame (s : State) :
    (hostReset s).pending = s.pending ∧ (hostReset s).now = s.now ∧ (hostReset s).journal.chain = s.journal.chain ∧
    (hostReset s).journal.nextSeq = s.journal.nextSeq ∧ (hostReset s).journal.head = s.journal.head ∧
    (hostReset s).journal.format = s.journal.format ∧ (hostReset s).journal.formatted = s.journal.formatted ∧
    (hostReset s).budget.b = s.budget.b ∧ (hostReset s).budget.limit = s.budget.limit ∧
    (hostReset s).budget.headroom = s.budget.headroom ∧ (hostReset s).budget.exposed = s.budget.exposed ∧
    (hostReset s).monitor = s.monitor ∧ (hostReset s).store.storedThrough = s.store.storedThrough ∧
    (hostReset s).store.newest = s.store.newest ∧ (hostReset s).store.idleDelay = s.store.idleDelay ∧
    (hostReset s).store.idleTimer = s.store.idleTimer ∧ (hostReset s).store.phase = s.store.phase ∧
    (hostReset s).store.storedCount = s.store.storedCount ∧ (hostReset s).store.failedList = s.store.failedList ∧
    (hostReset s).store.failedOverflow = s.store.failedOverflow ∧
    (hostReset s).store.emergencyGeneration = s.store.emergencyGeneration ∧
    (hostReset s).store.handedD = s.store.handedD ∧ (hostReset s).store.handedExposed = s.store.handedExposed ∧
    (hostReset s).array.slotA = s.array.slotA ∧ (hostReset s).array.slotB = s.array.slotB ∧
    (hostReset s).array.closing = s.array.closing ∧ (hostReset s).supply = s.supply ∧
    (hostReset s).store.lineStore = s.store.lineStore ∧ (hostReset s).cc.fetchPaused = s.cc.fetchPaused ∧
    (hostReset s).clock = s.clock ∧ (hostReset s).recovery = s.recovery ∧ (hostReset s).cc.alerts = s.cc.alerts := by
  simp only [hostReset]
  (repeat' split) <;> simp

@[simp] theorem enterRunning_frame (s : State) :
    (enterRunning s).pending = s.pending ∧ (enterRunning s).now = s.now ∧ (enterRunning s).free = s.free ∧
    (enterRunning s).staging = s.staging ∧ (enterRunning s).journal = s.journal ∧ (enterRunning s).txns = s.txns ∧
    (enterRunning s).budget = s.budget ∧ (enterRunning s).monitor = s.monitor ∧ (enterRunning s).store = s.store ∧
    (enterRunning s).array = s.array ∧ (enterRunning s).supply = s.supply ∧ (enterRunning s).clock = s.clock ∧
    (enterRunning s).recovery = s.recovery ∧ (enterRunning s).cc.fetch = s.cc.fetch ∧
    (enterRunning s).cc.lastServed = s.cc.lastServed ∧ (enterRunning s).cc.fetchPaused = s.cc.fetchPaused ∧
    (enterRunning s).cc.alerts = s.cc.alerts ∧ (enterRunning s).cc.alertWaiters = s.cc.alertWaiters ∧
    (enterRunning s).cc.posts = s.cc.posts := by
  simp [enterRunning]

@[simp] theorem badBase_frame (s : State) :
    (badBase s).pending = s.pending ∧ (badBase s).now = s.now ∧ (badBase s).free = s.free ∧
    (badBase s).device = s.device ∧ (badBase s).staging = s.staging ∧ (badBase s).journal = s.journal ∧
    (badBase s).txns = s.txns ∧ (badBase s).budget = s.budget ∧ (badBase s).monitor = s.monitor ∧
    (badBase s).store = s.store ∧ (badBase s).array = s.array ∧ (badBase s).supply = s.supply ∧
    (badBase s).clock = s.clock ∧ (badBase s).recovery = s.recovery ∧ (badBase s).cc = s.cc ∧ (badBase s).out = s.out := by
  simp [badBase]

@[simp] theorem enableWrite_frame (s : State) :
    (enableWrite s).pending = s.pending ∧ (enableWrite s).now = s.now ∧ (enableWrite s).free = s.free ∧
    (enableWrite s).staging = s.staging ∧ (enableWrite s).journal.chain = s.journal.chain ∧
    (enableWrite s).journal.sram = s.journal.sram ∧ (enableWrite s).journal.nextSeq = s.journal.nextSeq ∧
    (enableWrite s).journal.head = s.journal.head ∧ (enableWrite s).journal.format = s.journal.format ∧
    (enableWrite s).journal.formatted = s.journal.formatted ∧ (enableWrite s).journal.full = s.journal.full ∧
    (enableWrite s).journal.readBuffers = s.journal.readBuffers ∧
    (enableWrite s).journal.readWaiters = s.journal.readWaiters ∧ (enableWrite s).txns = s.txns ∧
    (enableWrite s).budget = s.budget ∧ (enableWrite s).monitor = s.monitor ∧
    (enableWrite s).store.storedThrough = s.store.storedThrough ∧ (enableWrite s).store.waiting = s.store.waiting ∧
    (enableWrite s).store.reservationWaiters = s.store.reservationWaiters ∧
    (enableWrite s).store.newest = s.store.newest ∧ (enableWrite s).store.idleDelay = s.store.idleDelay ∧
    (enableWrite s).store.idleTimer = s.store.idleTimer ∧ (enableWrite s).store.phase = s.store.phase ∧
    (enableWrite s).store.storedCount = s.store.storedCount ∧ (enableWrite s).store.failedList = s.store.failedList ∧
    (enableWrite s).store.failedOverflow = s.store.failedOverflow ∧
    (enableWrite s).store.emergencyGeneration = s.store.emergencyGeneration ∧
    (enableWrite s).store.handedD = s.store.handedD ∧ (enableWrite s).store.handedExposed = s.store.handedExposed ∧
    (enableWrite s).array = s.array ∧ (enableWrite s).supply.good = s.supply.good ∧
    (enableWrite s).supply.latch = s.supply.latch ∧ (enableWrite s).clock = s.clock ∧
    (enableWrite s).recovery = s.recovery ∧ (enableWrite s).cc.alerts = s.cc.alerts ∧
    (enableWrite s).cc.alertWaiters = s.cc.alertWaiters ∧ (enableWrite s).cc.posts = s.cc.posts := by
  simp only [enableWrite]
  (repeat' split) <;> simp

@[simp] theorem notifyWrite_frame (c : ChanId) (n : Nat) (s : State) :
    (notifyWrite c n s).pending = s.pending ∧ (notifyWrite c n s).now = s.now ∧
    (notifyWrite c n s).device = s.device ∧ (notifyWrite c n s).journal.head = s.journal.head ∧
    (notifyWrite c n s).journal.format = s.journal.format ∧
    (notifyWrite c n s).journal.formatted = s.journal.formatted ∧ (notifyWrite c n s).budget.b = s.budget.b ∧
    (notifyWrite c n s).budget.limit = s.budget.limit ∧ (notifyWrite c n s).budget.headroom = s.budget.headroom ∧
    (notifyWrite c n s).budget.exposed = s.budget.exposed ∧ (notifyWrite c n s).monitor = s.monitor ∧
    (notifyWrite c n s).store.newest = s.store.newest ∧ (notifyWrite c n s).store.idleDelay = s.store.idleDelay ∧
    (notifyWrite c n s).store.phase = s.store.phase ∧ (notifyWrite c n s).store.storedCount = s.store.storedCount ∧
    (notifyWrite c n s).store.failedList = s.store.failedList ∧
    (notifyWrite c n s).store.failedOverflow = s.store.failedOverflow ∧
    (notifyWrite c n s).store.emergencyGeneration = s.store.emergencyGeneration ∧
    (notifyWrite c n s).store.handedD = s.store.handedD ∧
    (notifyWrite c n s).store.handedExposed = s.store.handedExposed ∧
    (notifyWrite c n s).array.slotA = s.array.slotA ∧ (notifyWrite c n s).array.slotB = s.array.slotB ∧
    (notifyWrite c n s).array.closing = s.array.closing ∧ (notifyWrite c n s).supply.good = s.supply.good ∧
    (notifyWrite c n s).supply.latch = s.supply.latch ∧ (notifyWrite c n s).clock.ticks = s.clock.ticks ∧
    (notifyWrite c n s).clock.epoch = s.clock.epoch ∧ (notifyWrite c n s).clock.intact = s.clock.intact ∧
    (notifyWrite c n s).clock.stopLatch = s.clock.stopLatch ∧
    (notifyWrite c n s).clock.validMarker = s.clock.validMarker ∧
    (notifyWrite c n s).clock.oscRunning = s.clock.oscRunning ∧
    (notifyWrite c n s).clock.batteryGood = s.clock.batteryGood ∧
    (notifyWrite c n s).clock.clockValid = s.clock.clockValid ∧
    (notifyWrite c n s).clock.transfer = s.clock.transfer ∧
    (notifyWrite c n s).clock.batteryHeld = s.clock.batteryHeld ∧
    (notifyWrite c n s).clock.stopRecorded = s.clock.stopRecorded ∧
    (notifyWrite c n s).clock.vbatGood = s.clock.vbatGood ∧ (notifyWrite c n s).recovery = s.recovery := by
  simp only [notifyWrite]
  (repeat' split) <;> simp

@[simp] theorem retireWrite_frame (c : ChanId) (n : Nat) (s : State) :
    (retireWrite c n s).pending = s.pending ∧ (retireWrite c n s).now = s.now ∧
    (retireWrite c n s).device = s.device ∧ (retireWrite c n s).journal.head = s.journal.head ∧
    (retireWrite c n s).journal.format = s.journal.format ∧
    (retireWrite c n s).journal.formatted = s.journal.formatted ∧ (retireWrite c n s).budget.b = s.budget.b ∧
    (retireWrite c n s).budget.limit = s.budget.limit ∧ (retireWrite c n s).budget.headroom = s.budget.headroom ∧
    (retireWrite c n s).budget.exposed = s.budget.exposed ∧ (retireWrite c n s).monitor = s.monitor ∧
    (retireWrite c n s).store.newest = s.store.newest ∧ (retireWrite c n s).store.idleDelay = s.store.idleDelay ∧
    (retireWrite c n s).store.phase = s.store.phase ∧ (retireWrite c n s).store.storedCount = s.store.storedCount ∧
    (retireWrite c n s).store.failedList = s.store.failedList ∧
    (retireWrite c n s).store.failedOverflow = s.store.failedOverflow ∧
    (retireWrite c n s).store.emergencyGeneration = s.store.emergencyGeneration ∧
    (retireWrite c n s).store.handedD = s.store.handedD ∧
    (retireWrite c n s).store.handedExposed = s.store.handedExposed ∧
    (retireWrite c n s).array.slotA = s.array.slotA ∧ (retireWrite c n s).array.slotB = s.array.slotB ∧
    (retireWrite c n s).array.closing = s.array.closing ∧ (retireWrite c n s).supply.good = s.supply.good ∧
    (retireWrite c n s).supply.latch = s.supply.latch ∧ (retireWrite c n s).clock.ticks = s.clock.ticks ∧
    (retireWrite c n s).clock.epoch = s.clock.epoch ∧ (retireWrite c n s).clock.intact = s.clock.intact ∧
    (retireWrite c n s).clock.stopLatch = s.clock.stopLatch ∧
    (retireWrite c n s).clock.validMarker = s.clock.validMarker ∧
    (retireWrite c n s).clock.oscRunning = s.clock.oscRunning ∧
    (retireWrite c n s).clock.batteryGood = s.clock.batteryGood ∧
    (retireWrite c n s).clock.clockValid = s.clock.clockValid ∧
    (retireWrite c n s).clock.transfer = s.clock.transfer ∧
    (retireWrite c n s).clock.batteryHeld = s.clock.batteryHeld ∧
    (retireWrite c n s).clock.stopRecorded = s.clock.stopRecorded ∧
    (retireWrite c n s).clock.vbatGood = s.clock.vbatGood ∧ (retireWrite c n s).recovery = s.recovery := by
  simp only [retireWrite]
  (repeat' split) <;> simp

@[simp] theorem windowWrite_frame (offset : BitVec 12) (value : BitVec 32) (s : State) :
    (windowWrite offset value s).pending = s.pending ∧ (windowWrite offset value s).now = s.now ∧
    (windowWrite offset value s).journal.head = s.journal.head ∧
    (windowWrite offset value s).journal.format = s.journal.format ∧
    (windowWrite offset value s).journal.formatted = s.journal.formatted ∧
    (windowWrite offset value s).budget.b = s.budget.b ∧ (windowWrite offset value s).budget.limit = s.budget.limit ∧
    (windowWrite offset value s).budget.headroom = s.budget.headroom ∧
    (windowWrite offset value s).budget.exposed = s.budget.exposed ∧
    (windowWrite offset value s).monitor = s.monitor ∧ (windowWrite offset value s).store.newest = s.store.newest ∧
    (windowWrite offset value s).store.idleDelay = s.store.idleDelay ∧
    (windowWrite offset value s).store.phase = s.store.phase ∧
    (windowWrite offset value s).store.storedCount = s.store.storedCount ∧
    (windowWrite offset value s).store.failedList = s.store.failedList ∧
    (windowWrite offset value s).store.failedOverflow = s.store.failedOverflow ∧
    (windowWrite offset value s).store.emergencyGeneration = s.store.emergencyGeneration ∧
    (windowWrite offset value s).store.handedD = s.store.handedD ∧
    (windowWrite offset value s).store.handedExposed = s.store.handedExposed ∧
    (windowWrite offset value s).array.slotA = s.array.slotA ∧
    (windowWrite offset value s).array.slotB = s.array.slotB ∧
    (windowWrite offset value s).array.closing = s.array.closing ∧
    (windowWrite offset value s).supply.good = s.supply.good ∧
    (windowWrite offset value s).supply.latch = s.supply.latch ∧
    (windowWrite offset value s).clock.ticks = s.clock.ticks ∧
    (windowWrite offset value s).clock.epoch = s.clock.epoch ∧
    (windowWrite offset value s).clock.intact = s.clock.intact ∧
    (windowWrite offset value s).clock.stopLatch = s.clock.stopLatch ∧
    (windowWrite offset value s).clock.validMarker = s.clock.validMarker ∧
    (windowWrite offset value s).clock.oscRunning = s.clock.oscRunning ∧
    (windowWrite offset value s).clock.batteryGood = s.clock.batteryGood ∧
    (windowWrite offset value s).clock.clockValid = s.clock.clockValid ∧
    (windowWrite offset value s).clock.transfer = s.clock.transfer ∧
    (windowWrite offset value s).clock.batteryHeld = s.clock.batteryHeld ∧
    (windowWrite offset value s).clock.stopRecorded = s.clock.stopRecorded ∧
    (windowWrite offset value s).clock.vbatGood = s.clock.vbatGood ∧
    (windowWrite offset value s).recovery = s.recovery := by
  simp only [windowWrite]
  (repeat' split) <;> simp

@[simp] theorem takeRecord_frame (c : ChanId) (bytes : List Byte) (s : State) :
    (takeRecord c bytes s).pending = s.pending ∧ (takeRecord c bytes s).now = s.now ∧
    (takeRecord c bytes s).free = s.free ∧ (takeRecord c bytes s).device = s.device ∧
    (takeRecord c bytes s).window = s.window ∧ (takeRecord c bytes s).staging = s.staging ∧
    (takeRecord c bytes s).journal = s.journal ∧ (takeRecord c bytes s).txns = s.txns ∧
    (takeRecord c bytes s).budget = s.budget ∧ (takeRecord c bytes s).monitor = s.monitor ∧
    (takeRecord c bytes s).store = s.store ∧ (takeRecord c bytes s).array = s.array ∧
    (takeRecord c bytes s).supply = s.supply ∧ (takeRecord c bytes s).clock = s.clock ∧
    (takeRecord c bytes s).recovery = s.recovery ∧ (takeRecord c bytes s).cc.lastServed = s.cc.lastServed ∧
    (takeRecord c bytes s).cc.fetchPaused = s.cc.fetchPaused ∧ (takeRecord c bytes s).cc.alerts = s.cc.alerts ∧
    (takeRecord c bytes s).cc.alertWaiters = s.cc.alertWaiters := by
  simp only [takeRecord]
  (repeat' split) <;> simp

@[simp] theorem dropDetached_frame (c : ChanId) (s : State) :
    (dropDetached c s).pending = s.pending ∧ (dropDetached c s).now = s.now ∧ (dropDetached c s).free = s.free ∧
    (dropDetached c s).device = s.device ∧ (dropDetached c s).window = s.window ∧
    (dropDetached c s).staging = s.staging ∧ (dropDetached c s).journal = s.journal ∧
    (dropDetached c s).txns = s.txns ∧ (dropDetached c s).budget = s.budget ∧ (dropDetached c s).monitor = s.monitor ∧
    (dropDetached c s).store = s.store ∧ (dropDetached c s).array = s.array ∧ (dropDetached c s).supply = s.supply ∧
    (dropDetached c s).clock = s.clock ∧ (dropDetached c s).recovery = s.recovery ∧
    (dropDetached c s).cc.chans = s.cc.chans ∧ (dropDetached c s).cc.fetch = s.cc.fetch ∧
    (dropDetached c s).cc.lastServed = s.cc.lastServed ∧ (dropDetached c s).cc.fetchPaused = s.cc.fetchPaused ∧
    (dropDetached c s).cc.alerts = s.cc.alerts ∧ (dropDetached c s).cc.alertWaiters = s.cc.alertWaiters ∧
    (dropDetached c s).cc.statusWrites = s.cc.statusWrites := by
  simp [dropDetached]

@[simp] theorem publish_frame (c : ChanId) (p : Post) (s : State) :
    (publish c p s).pending = s.pending ∧ (publish c p s).now = s.now ∧ (publish c p s).free = s.free ∧
    (publish c p s).device = s.device ∧ (publish c p s).window = s.window ∧ (publish c p s).staging = s.staging ∧
    (publish c p s).journal = s.journal ∧ (publish c p s).txns = s.txns ∧ (publish c p s).budget = s.budget ∧
    (publish c p s).monitor = s.monitor ∧ (publish c p s).store = s.store ∧ (publish c p s).array = s.array ∧
    (publish c p s).supply = s.supply ∧ (publish c p s).clock = s.clock ∧ (publish c p s).recovery = s.recovery ∧
    (publish c p s).cc.fetch = s.cc.fetch ∧ (publish c p s).cc.lastServed = s.cc.lastServed ∧
    (publish c p s).cc.fetchPaused = s.cc.fetchPaused ∧ (publish c p s).cc.alerts = s.cc.alerts ∧
    (publish c p s).cc.alertWaiters = s.cc.alertWaiters := by
  simp only [publish]
  (repeat' split) <;> simp

@[simp] theorem popPost_frame (c : ChanId) (s : State) :
    (popPost c s).pending = s.pending ∧ (popPost c s).now = s.now ∧ (popPost c s).free = s.free ∧
    (popPost c s).device = s.device ∧ (popPost c s).window = s.window ∧ (popPost c s).staging = s.staging ∧
    (popPost c s).journal = s.journal ∧ (popPost c s).txns = s.txns ∧ (popPost c s).budget = s.budget ∧
    (popPost c s).monitor = s.monitor ∧ (popPost c s).store = s.store ∧ (popPost c s).array = s.array ∧
    (popPost c s).supply = s.supply ∧ (popPost c s).clock = s.clock ∧ (popPost c s).recovery = s.recovery ∧
    (popPost c s).cc.chans = s.cc.chans ∧ (popPost c s).cc.fetch = s.cc.fetch ∧
    (popPost c s).cc.lastServed = s.cc.lastServed ∧ (popPost c s).cc.fetchPaused = s.cc.fetchPaused ∧
    (popPost c s).cc.alerts = s.cc.alerts ∧ (popPost c s).cc.alertWaiters = s.cc.alertWaiters ∧
    (popPost c s).cc.statusWrites = s.cc.statusWrites := by
  simp [popPost]

@[simp] theorem coalesceDetached_frame (c : ChanId) (s : State) :
    (coalesceDetached c s).pending = s.pending ∧ (coalesceDetached c s).now = s.now ∧
    (coalesceDetached c s).free = s.free ∧ (coalesceDetached c s).device = s.device ∧
    (coalesceDetached c s).window = s.window ∧ (coalesceDetached c s).cc = s.cc ∧
    (coalesceDetached c s).staging = s.staging ∧ (coalesceDetached c s).journal = s.journal ∧
    (coalesceDetached c s).txns = s.txns ∧ (coalesceDetached c s).budget = s.budget ∧
    (coalesceDetached c s).monitor = s.monitor ∧ (coalesceDetached c s).store = s.store ∧
    (coalesceDetached c s).array = s.array ∧ (coalesceDetached c s).supply = s.supply ∧
    (coalesceDetached c s).clock = s.clock ∧ (coalesceDetached c s).recovery = s.recovery := by
  simp only [coalesceDetached]
  split <;> simp

@[simp] theorem endStatusWrite_frame (c : ChanId) (w : StatusPurpose) (ok : Bool) (s : State) :
    (endStatusWrite c w ok s).pending = s.pending ∧ (endStatusWrite c w ok s).now = s.now ∧
    (endStatusWrite c w ok s).device = s.device ∧ (endStatusWrite c w ok s).journal.head = s.journal.head ∧
    (endStatusWrite c w ok s).journal.format = s.journal.format ∧
    (endStatusWrite c w ok s).journal.formatted = s.journal.formatted ∧
    (endStatusWrite c w ok s).budget.b = s.budget.b ∧ (endStatusWrite c w ok s).budget.limit = s.budget.limit ∧
    (endStatusWrite c w ok s).budget.headroom = s.budget.headroom ∧
    (endStatusWrite c w ok s).budget.exposed = s.budget.exposed ∧ (endStatusWrite c w ok s).monitor = s.monitor ∧
    (endStatusWrite c w ok s).store.newest = s.store.newest ∧
    (endStatusWrite c w ok s).store.idleDelay = s.store.idleDelay ∧
    (endStatusWrite c w ok s).store.phase = s.store.phase ∧
    (endStatusWrite c w ok s).store.storedCount = s.store.storedCount ∧
    (endStatusWrite c w ok s).store.failedList = s.store.failedList ∧
    (endStatusWrite c w ok s).store.failedOverflow = s.store.failedOverflow ∧
    (endStatusWrite c w ok s).store.emergencyGeneration = s.store.emergencyGeneration ∧
    (endStatusWrite c w ok s).store.handedD = s.store.handedD ∧
    (endStatusWrite c w ok s).store.handedExposed = s.store.handedExposed ∧
    (endStatusWrite c w ok s).array.slotA = s.array.slotA ∧ (endStatusWrite c w ok s).array.slotB = s.array.slotB ∧
    (endStatusWrite c w ok s).array.closing = s.array.closing ∧
    (endStatusWrite c w ok s).supply.good = s.supply.good ∧ (endStatusWrite c w ok s).supply.latch = s.supply.latch ∧
    (endStatusWrite c w ok s).clock.ticks = s.clock.ticks ∧ (endStatusWrite c w ok s).clock.epoch = s.clock.epoch ∧
    (endStatusWrite c w ok s).clock.intact = s.clock.intact ∧
    (endStatusWrite c w ok s).clock.stopLatch = s.clock.stopLatch ∧
    (endStatusWrite c w ok s).clock.validMarker = s.clock.validMarker ∧
    (endStatusWrite c w ok s).clock.oscRunning = s.clock.oscRunning ∧
    (endStatusWrite c w ok s).clock.batteryGood = s.clock.batteryGood ∧
    (endStatusWrite c w ok s).clock.clockValid = s.clock.clockValid ∧
    (endStatusWrite c w ok s).clock.transfer = s.clock.transfer ∧
    (endStatusWrite c w ok s).clock.batteryHeld = s.clock.batteryHeld ∧
    (endStatusWrite c w ok s).clock.stopRecorded = s.clock.stopRecorded ∧
    (endStatusWrite c w ok s).clock.vbatGood = s.clock.vbatGood ∧
    (endStatusWrite c w ok s).recovery = s.recovery := by
  simp only [endStatusWrite]
  (repeat' split) <;> simp

@[simp] theorem setExec_frame (c : ChanId) (r : Executing) (s : State) :
    (setExec c r s).pending = s.pending ∧ (setExec c r s).now = s.now ∧ (setExec c r s).free = s.free ∧
    (setExec c r s).device = s.device ∧ (setExec c r s).window = s.window ∧ (setExec c r s).staging = s.staging ∧
    (setExec c r s).journal = s.journal ∧ (setExec c r s).txns = s.txns ∧ (setExec c r s).budget = s.budget ∧
    (setExec c r s).monitor = s.monitor ∧ (setExec c r s).store = s.store ∧ (setExec c r s).array = s.array ∧
    (setExec c r s).supply = s.supply ∧ (setExec c r s).clock = s.clock ∧ (setExec c r s).recovery = s.recovery ∧
    (setExec c r s).cc.fetch = s.cc.fetch ∧ (setExec c r s).cc.lastServed = s.cc.lastServed ∧
    (setExec c r s).cc.fetchPaused = s.cc.fetchPaused ∧ (setExec c r s).cc.alerts = s.cc.alerts ∧
    (setExec c r s).cc.alertWaiters = s.cc.alertWaiters ∧ (setExec c r s).cc.posts = s.cc.posts ∧
    (setExec c r s).cc.statusWrites = s.cc.statusWrites ∧ (setExec c r s).out = s.out := by
  simp [setExec]

@[simp] theorem takeStaging_frame (c : ChanId) (r : Executing) (s : State) :
    (takeStaging c r s).pending = s.pending ∧ (takeStaging c r s).now = s.now ∧ (takeStaging c r s).free = s.free ∧
    (takeStaging c r s).device = s.device ∧ (takeStaging c r s).window = s.window ∧
    (takeStaging c r s).journal = s.journal ∧ (takeStaging c r s).txns = s.txns ∧
    (takeStaging c r s).budget = s.budget ∧ (takeStaging c r s).monitor = s.monitor ∧
    (takeStaging c r s).store = s.store ∧ (takeStaging c r s).array = s.array ∧
    (takeStaging c r s).supply = s.supply ∧ (takeStaging c r s).clock = s.clock ∧
    (takeStaging c r s).recovery = s.recovery ∧ (takeStaging c r s).cc.fetch = s.cc.fetch ∧
    (takeStaging c r s).cc.lastServed = s.cc.lastServed ∧ (takeStaging c r s).cc.fetchPaused = s.cc.fetchPaused ∧
    (takeStaging c r s).cc.alerts = s.cc.alerts ∧ (takeStaging c r s).cc.alertWaiters = s.cc.alertWaiters ∧
    (takeStaging c r s).cc.posts = s.cc.posts ∧ (takeStaging c r s).cc.statusWrites = s.cc.statusWrites := by
  simp [takeStaging]

@[simp] theorem claimStaging_frame (c : ChanId) (r : Executing) (s : State) :
    (claimStaging c r s).pending = s.pending ∧ (claimStaging c r s).now = s.now ∧ (claimStaging c r s).free = s.free ∧
    (claimStaging c r s).device = s.device ∧ (claimStaging c r s).window = s.window ∧
    (claimStaging c r s).journal = s.journal ∧ (claimStaging c r s).txns = s.txns ∧
    (claimStaging c r s).budget = s.budget ∧ (claimStaging c r s).monitor = s.monitor ∧
    (claimStaging c r s).store = s.store ∧ (claimStaging c r s).array = s.array ∧
    (claimStaging c r s).supply = s.supply ∧ (claimStaging c r s).clock = s.clock ∧
    (claimStaging c r s).recovery = s.recovery ∧ (claimStaging c r s).cc.fetch = s.cc.fetch ∧
    (claimStaging c r s).cc.lastServed = s.cc.lastServed ∧ (claimStaging c r s).cc.fetchPaused = s.cc.fetchPaused ∧
    (claimStaging c r s).cc.alerts = s.cc.alerts ∧ (claimStaging c r s).cc.alertWaiters = s.cc.alertWaiters ∧
    (claimStaging c r s).cc.posts = s.cc.posts ∧ (claimStaging c r s).cc.statusWrites = s.cc.statusWrites := by
  simp only [claimStaging]
  (repeat' split) <;> simp

@[simp] theorem flushExecute_frame (c : ChanId) (r : Executing) (s : State) :
    (flushExecute c r s).pending = s.pending ∧ (flushExecute c r s).now = s.now ∧ (flushExecute c r s).free = s.free ∧
    (flushExecute c r s).device = s.device ∧ (flushExecute c r s).window = s.window ∧
    (flushExecute c r s).journal.segs = s.journal.segs ∧ (flushExecute c r s).journal.chain = s.journal.chain ∧
    (flushExecute c r s).journal.sram = s.journal.sram ∧ (flushExecute c r s).journal.nextSeq = s.journal.nextSeq ∧
    (flushExecute c r s).journal.head = s.journal.head ∧ (flushExecute c r s).journal.format = s.journal.format ∧
    (flushExecute c r s).journal.formatted = s.journal.formatted ∧ (flushExecute c r s).txns = s.txns ∧
    (flushExecute c r s).budget.b = s.budget.b ∧ (flushExecute c r s).budget.limit = s.budget.limit ∧
    (flushExecute c r s).budget.headroom = s.budget.headroom ∧
    (flushExecute c r s).budget.exposed = s.budget.exposed ∧ (flushExecute c r s).monitor = s.monitor ∧
    (flushExecute c r s).store.op = s.store.op ∧ (flushExecute c r s).store.storedThrough = s.store.storedThrough ∧
    (flushExecute c r s).store.metadataDirty = s.store.metadataDirty ∧
    (flushExecute c r s).store.jobsSinceDirty = s.store.jobsSinceDirty ∧
    (flushExecute c r s).store.newest = s.store.newest ∧ (flushExecute c r s).store.idleDelay = s.store.idleDelay ∧
    (flushExecute c r s).store.idleTimer = s.store.idleTimer ∧
    (flushExecute c r s).store.lineStore = s.store.lineStore ∧ (flushExecute c r s).store.phase = s.store.phase ∧
    (flushExecute c r s).store.storedCount = s.store.storedCount ∧
    (flushExecute c r s).store.failedList = s.store.failedList ∧
    (flushExecute c r s).store.failedOverflow = s.store.failedOverflow ∧
    (flushExecute c r s).store.emergencyGeneration = s.store.emergencyGeneration ∧
    (flushExecute c r s).store.handedD = s.store.handedD ∧
    (flushExecute c r s).store.handedExposed = s.store.handedExposed ∧ (flushExecute c r s).array = s.array ∧
    (flushExecute c r s).supply = s.supply ∧ (flushExecute c r s).clock = s.clock ∧
    (flushExecute c r s).recovery = s.recovery ∧ (flushExecute c r s).cc.fetch = s.cc.fetch ∧
    (flushExecute c r s).cc.lastServed = s.cc.lastServed ∧ (flushExecute c r s).cc.fetchPaused = s.cc.fetchPaused ∧
    (flushExecute c r s).cc.alerts = s.cc.alerts ∧ (flushExecute c r s).cc.alertWaiters = s.cc.alertWaiters := by
  simp only [flushExecute]
  (repeat' split) <;> simp

@[simp] theorem afterReservation_frame (c : ChanId) (r : Executing) (s : State) :
    (afterReservation c r s).pending = s.pending ∧ (afterReservation c r s).now = s.now ∧
    (afterReservation c r s).device = s.device ∧ (afterReservation c r s).window = s.window ∧
    (afterReservation c r s).journal.head = s.journal.head ∧
    (afterReservation c r s).journal.format = s.journal.format ∧
    (afterReservation c r s).journal.formatted = s.journal.formatted ∧
    (afterReservation c r s).budget.b = s.budget.b ∧ (afterReservation c r s).budget.limit = s.budget.limit ∧
    (afterReservation c r s).budget.headroom = s.budget.headroom ∧
    (afterReservation c r s).budget.exposed = s.budget.exposed ∧ (afterReservation c r s).monitor = s.monitor ∧
    (afterReservation c r s).store.metadataDirty = s.store.metadataDirty ∧
    (afterReservation c r s).store.jobsSinceDirty = s.store.jobsSinceDirty ∧
    (afterReservation c r s).store.newest = s.store.newest ∧
    (afterReservation c r s).store.idleDelay = s.store.idleDelay ∧
    (afterReservation c r s).store.lineStore = s.store.lineStore ∧
    (afterReservation c r s).store.phase = s.store.phase ∧
    (afterReservation c r s).store.storedCount = s.store.storedCount ∧
    (afterReservation c r s).store.failedList = s.store.failedList ∧
    (afterReservation c r s).store.failedOverflow = s.store.failedOverflow ∧
    (afterReservation c r s).store.emergencyGeneration = s.store.emergencyGeneration ∧
    (afterReservation c r s).store.handedD = s.store.handedD ∧
    (afterReservation c r s).store.handedExposed = s.store.handedExposed ∧
    (afterReservation c r s).array.slotA = s.array.slotA ∧ (afterReservation c r s).array.slotB = s.array.slotB ∧
    (afterReservation c r s).array.closing = s.array.closing ∧ (afterReservation c r s).supply = s.supply ∧
    (afterReservation c r s).clock.ticks = s.clock.ticks ∧ (afterReservation c r s).clock.epoch = s.clock.epoch ∧
    (afterReservation c r s).clock.intact = s.clock.intact ∧
    (afterReservation c r s).clock.stopLatch = s.clock.stopLatch ∧
    (afterReservation c r s).clock.validMarker = s.clock.validMarker ∧
    (afterReservation c r s).clock.oscRunning = s.clock.oscRunning ∧
    (afterReservation c r s).clock.batteryGood = s.clock.batteryGood ∧
    (afterReservation c r s).clock.clockValid = s.clock.clockValid ∧
    (afterReservation c r s).clock.transfer = s.clock.transfer ∧
    (afterReservation c r s).clock.batteryHeld = s.clock.batteryHeld ∧
    (afterReservation c r s).clock.stopRecorded = s.clock.stopRecorded ∧
    (afterReservation c r s).clock.vbatGood = s.clock.vbatGood ∧ (afterReservation c r s).recovery = s.recovery ∧
    (afterReservation c r s).cc.fetch = s.cc.fetch ∧ (afterReservation c r s).cc.lastServed = s.cc.lastServed ∧
    (afterReservation c r s).cc.fetchPaused = s.cc.fetchPaused := by
  simp only [afterReservation]
  (repeat' split) <;> simp

@[simp] theorem takeReservation_frame (c : ChanId) (r : Executing) (s : State) :
    (takeReservation c r s).pending = s.pending ∧ (takeReservation c r s).now = s.now ∧
    (takeReservation c r s).device = s.device ∧ (takeReservation c r s).window = s.window ∧
    (takeReservation c r s).journal.head = s.journal.head ∧
    (takeReservation c r s).journal.format = s.journal.format ∧
    (takeReservation c r s).journal.formatted = s.journal.formatted ∧ (takeReservation c r s).budget.b = s.budget.b ∧
    (takeReservation c r s).budget.limit = s.budget.limit ∧
    (takeReservation c r s).budget.headroom = s.budget.headroom ∧
    (takeReservation c r s).budget.exposed = s.budget.exposed ∧ (takeReservation c r s).monitor = s.monitor ∧
    (takeReservation c r s).store.metadataDirty = s.store.metadataDirty ∧
    (takeReservation c r s).store.jobsSinceDirty = s.store.jobsSinceDirty ∧
    (takeReservation c r s).store.newest = s.store.newest ∧
    (takeReservation c r s).store.idleDelay = s.store.idleDelay ∧
    (takeReservation c r s).store.lineStore = s.store.lineStore ∧
    (takeReservation c r s).store.phase = s.store.phase ∧
    (takeReservation c r s).store.storedCount = s.store.storedCount ∧
    (takeReservation c r s).store.failedList = s.store.failedList ∧
    (takeReservation c r s).store.failedOverflow = s.store.failedOverflow ∧
    (takeReservation c r s).store.emergencyGeneration = s.store.emergencyGeneration ∧
    (takeReservation c r s).store.handedD = s.store.handedD ∧
    (takeReservation c r s).store.handedExposed = s.store.handedExposed ∧
    (takeReservation c r s).array.slotA = s.array.slotA ∧ (takeReservation c r s).array.slotB = s.array.slotB ∧
    (takeReservation c r s).array.closing = s.array.closing ∧ (takeReservation c r s).supply = s.supply ∧
    (takeReservation c r s).clock.ticks = s.clock.ticks ∧ (takeReservation c r s).clock.epoch = s.clock.epoch ∧
    (takeReservation c r s).clock.intact = s.clock.intact ∧
    (takeReservation c r s).clock.stopLatch = s.clock.stopLatch ∧
    (takeReservation c r s).clock.validMarker = s.clock.validMarker ∧
    (takeReservation c r s).clock.oscRunning = s.clock.oscRunning ∧
    (takeReservation c r s).clock.batteryGood = s.clock.batteryGood ∧
    (takeReservation c r s).clock.clockValid = s.clock.clockValid ∧
    (takeReservation c r s).clock.transfer = s.clock.transfer ∧
    (takeReservation c r s).clock.batteryHeld = s.clock.batteryHeld ∧
    (takeReservation c r s).clock.stopRecorded = s.clock.stopRecorded ∧
    (takeReservation c r s).clock.vbatGood = s.clock.vbatGood ∧ (takeReservation c r s).recovery = s.recovery ∧
    (takeReservation c r s).cc.fetch = s.cc.fetch ∧ (takeReservation c r s).cc.lastServed = s.cc.lastServed ∧
    (takeReservation c r s).cc.fetchPaused = s.cc.fetchPaused := by
  simp [takeReservation]

@[simp] theorem beginDurable_frame (c : ChanId) (r : Executing) (s : State) :
    (beginDurable c r s).pending = s.pending ∧ (beginDurable c r s).now = s.now ∧
    (beginDurable c r s).device = s.device ∧ (beginDurable c r s).window = s.window ∧
    (beginDurable c r s).journal.head = s.journal.head ∧ (beginDurable c r s).journal.format = s.journal.format ∧
    (beginDurable c r s).journal.formatted = s.journal.formatted ∧ (beginDurable c r s).budget.b = s.budget.b ∧
    (beginDurable c r s).budget.limit = s.budget.limit ∧ (beginDurable c r s).budget.headroom = s.budget.headroom ∧
    (beginDurable c r s).budget.exposed = s.budget.exposed ∧ (beginDurable c r s).monitor = s.monitor ∧
    (beginDurable c r s).store.metadataDirty = s.store.metadataDirty ∧
    (beginDurable c r s).store.jobsSinceDirty = s.store.jobsSinceDirty ∧
    (beginDurable c r s).store.newest = s.store.newest ∧ (beginDurable c r s).store.idleDelay = s.store.idleDelay ∧
    (beginDurable c r s).store.lineStore = s.store.lineStore ∧ (beginDurable c r s).store.phase = s.store.phase ∧
    (beginDurable c r s).store.storedCount = s.store.storedCount ∧
    (beginDurable c r s).store.failedList = s.store.failedList ∧
    (beginDurable c r s).store.failedOverflow = s.store.failedOverflow ∧
    (beginDurable c r s).store.emergencyGeneration = s.store.emergencyGeneration ∧
    (beginDurable c r s).store.handedD = s.store.handedD ∧
    (beginDurable c r s).store.handedExposed = s.store.handedExposed ∧
    (beginDurable c r s).array.slotA = s.array.slotA ∧ (beginDurable c r s).array.slotB = s.array.slotB ∧
    (beginDurable c r s).array.closing = s.array.closing ∧ (beginDurable c r s).supply = s.supply ∧
    (beginDurable c r s).clock.ticks = s.clock.ticks ∧ (beginDurable c r s).clock.epoch = s.clock.epoch ∧
    (beginDurable c r s).clock.intact = s.clock.intact ∧ (beginDurable c r s).clock.stopLatch = s.clock.stopLatch ∧
    (beginDurable c r s).clock.validMarker = s.clock.validMarker ∧
    (beginDurable c r s).clock.oscRunning = s.clock.oscRunning ∧
    (beginDurable c r s).clock.batteryGood = s.clock.batteryGood ∧
    (beginDurable c r s).clock.clockValid = s.clock.clockValid ∧
    (beginDurable c r s).clock.transfer = s.clock.transfer ∧
    (beginDurable c r s).clock.batteryHeld = s.clock.batteryHeld ∧
    (beginDurable c r s).clock.stopRecorded = s.clock.stopRecorded ∧
    (beginDurable c r s).clock.vbatGood = s.clock.vbatGood ∧ (beginDurable c r s).recovery = s.recovery ∧
    (beginDurable c r s).cc.fetch = s.cc.fetch ∧ (beginDurable c r s).cc.lastServed = s.cc.lastServed ∧
    (beginDurable c r s).cc.fetchPaused = s.cc.fetchPaused := by
  simp only [beginDurable]
  (repeat' split) <;> simp

@[simp] theorem stagePayload_frame (c : ChanId) (n : Nat) (bytes : List Byte) (s : State) :
    (stagePayload c n bytes s).pending = s.pending ∧ (stagePayload c n bytes s).now = s.now ∧
    (stagePayload c n bytes s).free = s.free ∧ (stagePayload c n bytes s).device = s.device ∧
    (stagePayload c n bytes s).window = s.window ∧ (stagePayload c n bytes s).journal = s.journal ∧
    (stagePayload c n bytes s).txns = s.txns ∧ (stagePayload c n bytes s).budget = s.budget ∧
    (stagePayload c n bytes s).monitor = s.monitor ∧ (stagePayload c n bytes s).store = s.store ∧
    (stagePayload c n bytes s).array = s.array ∧ (stagePayload c n bytes s).supply = s.supply ∧
    (stagePayload c n bytes s).clock = s.clock ∧ (stagePayload c n bytes s).recovery = s.recovery ∧
    (stagePayload c n bytes s).cc = s.cc ∧ (stagePayload c n bytes s).out = s.out := by
  simp [stagePayload]

@[simp] theorem abortExecute_frame (c : ChanId) (r : Executing) (s : State) :
    (abortExecute c r s).pending = s.pending ∧ (abortExecute c r s).now = s.now ∧
    (abortExecute c r s).device = s.device ∧ (abortExecute c r s).window = s.window ∧
    (abortExecute c r s).journal.segs = s.journal.segs ∧ (abortExecute c r s).journal.chain = s.journal.chain ∧
    (abortExecute c r s).journal.nextSeq = s.journal.nextSeq ∧ (abortExecute c r s).journal.head = s.journal.head ∧
    (abortExecute c r s).journal.format = s.journal.format ∧
    (abortExecute c r s).journal.formatted = s.journal.formatted ∧ (abortExecute c r s).budget.b = s.budget.b ∧
    (abortExecute c r s).budget.limit = s.budget.limit ∧ (abortExecute c r s).budget.headroom = s.budget.headroom ∧
    (abortExecute c r s).budget.exposed = s.budget.exposed ∧ (abortExecute c r s).monitor = s.monitor ∧
    (abortExecute c r s).store.storedThrough = s.store.storedThrough ∧
    (abortExecute c r s).store.waiting = s.store.waiting ∧
    (abortExecute c r s).store.metadataDirty = s.store.metadataDirty ∧
    (abortExecute c r s).store.jobsSinceDirty = s.store.jobsSinceDirty ∧
    (abortExecute c r s).store.newest = s.store.newest ∧ (abortExecute c r s).store.idleDelay = s.store.idleDelay ∧
    (abortExecute c r s).store.idleTimer = s.store.idleTimer ∧
    (abortExecute c r s).store.lineStore = s.store.lineStore ∧ (abortExecute c r s).store.phase = s.store.phase ∧
    (abortExecute c r s).store.storedCount = s.store.storedCount ∧
    (abortExecute c r s).store.failedList = s.store.failedList ∧
    (abortExecute c r s).store.failedOverflow = s.store.failedOverflow ∧
    (abortExecute c r s).store.emergencyGeneration = s.store.emergencyGeneration ∧
    (abortExecute c r s).store.handedD = s.store.handedD ∧
    (abortExecute c r s).store.handedExposed = s.store.handedExposed ∧
    (abortExecute c r s).array.slotA = s.array.slotA ∧ (abortExecute c r s).array.slotB = s.array.slotB ∧
    (abortExecute c r s).array.closing = s.array.closing ∧ (abortExecute c r s).supply = s.supply ∧
    (abortExecute c r s).clock = s.clock ∧ (abortExecute c r s).recovery = s.recovery ∧
    (abortExecute c r s).cc.fetch = s.cc.fetch ∧ (abortExecute c r s).cc.lastServed = s.cc.lastServed ∧
    (abortExecute c r s).cc.fetchPaused = s.cc.fetchPaused ∧ (abortExecute c r s).cc.alerts = s.cc.alerts ∧
    (abortExecute c r s).cc.alertWaiters = s.cc.alertWaiters := by
  simp only [abortExecute]
  (repeat' split) <;> simp

@[simp] theorem expireTxn_frame (t : TxnRecord) (s : State) :
    (expireTxn t s).pending = s.pending ∧ (expireTxn t s).now = s.now ∧ (expireTxn t s).device = s.device ∧
    (expireTxn t s).window = s.window ∧ (expireTxn t s).staging = s.staging ∧
    (expireTxn t s).journal.segs = s.journal.segs ∧ (expireTxn t s).journal.chain = s.journal.chain ∧
    (expireTxn t s).journal.nextSeq = s.journal.nextSeq ∧ (expireTxn t s).journal.head = s.journal.head ∧
    (expireTxn t s).journal.format = s.journal.format ∧ (expireTxn t s).journal.formatted = s.journal.formatted ∧
    (expireTxn t s).journal.full = s.journal.full ∧ (expireTxn t s).journal.readBuffers = s.journal.readBuffers ∧
    (expireTxn t s).journal.readWaiters = s.journal.readWaiters ∧ (expireTxn t s).budget = s.budget ∧
    (expireTxn t s).monitor = s.monitor ∧ (expireTxn t s).store.queue = s.store.queue ∧
    (expireTxn t s).store.storedThrough = s.store.storedThrough ∧ (expireTxn t s).store.waiting = s.store.waiting ∧
    (expireTxn t s).store.reservationWaiters = s.store.reservationWaiters ∧
    (expireTxn t s).store.metadataDirty = s.store.metadataDirty ∧
    (expireTxn t s).store.jobsSinceDirty = s.store.jobsSinceDirty ∧ (expireTxn t s).store.newest = s.store.newest ∧
    (expireTxn t s).store.idleDelay = s.store.idleDelay ∧ (expireTxn t s).store.idleTimer = s.store.idleTimer ∧
    (expireTxn t s).store.lineStore = s.store.lineStore ∧ (expireTxn t s).store.phase = s.store.phase ∧
    (expireTxn t s).store.storedCount = s.store.storedCount ∧ (expireTxn t s).store.failedList = s.store.failedList ∧
    (expireTxn t s).store.failedOverflow = s.store.failedOverflow ∧
    (expireTxn t s).store.emergencyGeneration = s.store.emergencyGeneration ∧
    (expireTxn t s).store.handedD = s.store.handedD ∧ (expireTxn t s).store.handedExposed = s.store.handedExposed ∧
    (expireTxn t s).array.slotA = s.array.slotA ∧ (expireTxn t s).array.slotB = s.array.slotB ∧
    (expireTxn t s).array.closing = s.array.closing ∧ (expireTxn t s).supply = s.supply ∧
    (expireTxn t s).clock = s.clock ∧ (expireTxn t s).recovery = s.recovery ∧ (expireTxn t s).cc = s.cc ∧
    (expireTxn t s).out = s.out := by
  simp [expireTxn]

@[simp] theorem expireHeld_frame (c : ChanId) (n : Nat) (s : State) :
    (expireHeld c n s).pending = s.pending ∧ (expireHeld c n s).now = s.now ∧ (expireHeld c n s).device = s.device ∧
    (expireHeld c n s).window = s.window ∧ (expireHeld c n s).journal.head = s.journal.head ∧
    (expireHeld c n s).journal.format = s.journal.format ∧
    (expireHeld c n s).journal.formatted = s.journal.formatted ∧ (expireHeld c n s).budget.b = s.budget.b ∧
    (expireHeld c n s).budget.limit = s.budget.limit ∧ (expireHeld c n s).budget.headroom = s.budget.headroom ∧
    (expireHeld c n s).budget.exposed = s.budget.exposed ∧ (expireHeld c n s).monitor = s.monitor ∧
    (expireHeld c n s).store.metadataDirty = s.store.metadataDirty ∧
    (expireHeld c n s).store.jobsSinceDirty = s.store.jobsSinceDirty ∧
    (expireHeld c n s).store.newest = s.store.newest ∧ (expireHeld c n s).store.idleDelay = s.store.idleDelay ∧
    (expireHeld c n s).store.lineStore = s.store.lineStore ∧ (expireHeld c n s).store.phase = s.store.phase ∧
    (expireHeld c n s).store.storedCount = s.store.storedCount ∧
    (expireHeld c n s).store.failedList = s.store.failedList ∧
    (expireHeld c n s).store.failedOverflow = s.store.failedOverflow ∧
    (expireHeld c n s).store.emergencyGeneration = s.store.emergencyGeneration ∧
    (expireHeld c n s).store.handedD = s.store.handedD ∧
    (expireHeld c n s).store.handedExposed = s.store.handedExposed ∧ (expireHeld c n s).array.slotA = s.array.slotA ∧
    (expireHeld c n s).array.slotB = s.array.slotB ∧ (expireHeld c n s).array.closing = s.array.closing ∧
    (expireHeld c n s).supply = s.supply ∧ (expireHeld c n s).clock.ticks = s.clock.ticks ∧
    (expireHeld c n s).clock.epoch = s.clock.epoch ∧ (expireHeld c n s).clock.intact = s.clock.intact ∧
    (expireHeld c n s).clock.stopLatch = s.clock.stopLatch ∧
    (expireHeld c n s).clock.validMarker = s.clock.validMarker ∧
    (expireHeld c n s).clock.oscRunning = s.clock.oscRunning ∧
    (expireHeld c n s).clock.batteryGood = s.clock.batteryGood ∧
    (expireHeld c n s).clock.clockValid = s.clock.clockValid ∧ (expireHeld c n s).clock.transfer = s.clock.transfer ∧
    (expireHeld c n s).clock.batteryHeld = s.clock.batteryHeld ∧
    (expireHeld c n s).clock.stopRecorded = s.clock.stopRecorded ∧
    (expireHeld c n s).clock.vbatGood = s.clock.vbatGood ∧ (expireHeld c n s).recovery = s.recovery ∧
    (expireHeld c n s).cc.fetch = s.cc.fetch ∧ (expireHeld c n s).cc.lastServed = s.cc.lastServed ∧
    (expireHeld c n s).cc.fetchPaused = s.cc.fetchPaused := by
  simp only [expireHeld]
  (repeat' split) <;> simp

@[simp] theorem refuseRead_frame (c : ChanId) (r : Executing) (status : Status) (n : Nat) (s : State) :
    (refuseRead c r status n s).pending = s.pending ∧ (refuseRead c r status n s).now = s.now ∧
    (refuseRead c r status n s).free = s.free ∧ (refuseRead c r status n s).device = s.device ∧
    (refuseRead c r status n s).window = s.window ∧ (refuseRead c r status n s).journal.segs = s.journal.segs ∧
    (refuseRead c r status n s).journal.chain = s.journal.chain ∧
    (refuseRead c r status n s).journal.sram = s.journal.sram ∧
    (refuseRead c r status n s).journal.nextSeq = s.journal.nextSeq ∧
    (refuseRead c r status n s).journal.head = s.journal.head ∧
    (refuseRead c r status n s).journal.format = s.journal.format ∧
    (refuseRead c r status n s).journal.formatted = s.journal.formatted ∧ (refuseRead c r status n s).txns = s.txns ∧
    (refuseRead c r status n s).budget.b = s.budget.b ∧ (refuseRead c r status n s).budget.limit = s.budget.limit ∧
    (refuseRead c r status n s).budget.headroom = s.budget.headroom ∧
    (refuseRead c r status n s).budget.exposed = s.budget.exposed ∧ (refuseRead c r status n s).monitor = s.monitor ∧
    (refuseRead c r status n s).store.op = s.store.op ∧
    (refuseRead c r status n s).store.storedThrough = s.store.storedThrough ∧
    (refuseRead c r status n s).store.waiting = s.store.waiting ∧
    (refuseRead c r status n s).store.metadataDirty = s.store.metadataDirty ∧
    (refuseRead c r status n s).store.jobsSinceDirty = s.store.jobsSinceDirty ∧
    (refuseRead c r status n s).store.newest = s.store.newest ∧
    (refuseRead c r status n s).store.idleDelay = s.store.idleDelay ∧
    (refuseRead c r status n s).store.idleTimer = s.store.idleTimer ∧
    (refuseRead c r status n s).store.lineStore = s.store.lineStore ∧
    (refuseRead c r status n s).store.phase = s.store.phase ∧
    (refuseRead c r status n s).store.storedCount = s.store.storedCount ∧
    (refuseRead c r status n s).store.failedList = s.store.failedList ∧
    (refuseRead c r status n s).store.failedOverflow = s.store.failedOverflow ∧
    (refuseRead c r status n s).store.emergencyGeneration = s.store.emergencyGeneration ∧
    (refuseRead c r status n s).store.handedD = s.store.handedD ∧
    (refuseRead c r status n s).store.handedExposed = s.store.handedExposed ∧
    (refuseRead c r status n s).array = s.array ∧ (refuseRead c r status n s).supply = s.supply ∧
    (refuseRead c r status n s).clock = s.clock ∧ (refuseRead c r status n s).recovery = s.recovery ∧
    (refuseRead c r status n s).cc.fetch = s.cc.fetch ∧ (refuseRead c r status n s).cc.lastServed = s.cc.lastServed ∧
    (refuseRead c r status n s).cc.fetchPaused = s.cc.fetchPaused ∧
    (refuseRead c r status n s).cc.alerts = s.cc.alerts ∧
    (refuseRead c r status n s).cc.alertWaiters = s.cc.alertWaiters := by
  simp [refuseRead]

@[simp] theorem copyEntry_frame (c : ChanId) (r : Executing) (i : SegId) (off : Nat) (h : Header) (s : State) :
    (copyEntry c r i off h s).pending = s.pending ∧ (copyEntry c r i off h s).now = s.now ∧
    (copyEntry c r i off h s).free = s.free ∧ (copyEntry c r i off h s).device = s.device ∧
    (copyEntry c r i off h s).window = s.window ∧ (copyEntry c r i off h s).staging = s.staging ∧
    (copyEntry c r i off h s).journal.segs = s.journal.segs ∧
    (copyEntry c r i off h s).journal.chain = s.journal.chain ∧
    (copyEntry c r i off h s).journal.sram = s.journal.sram ∧
    (copyEntry c r i off h s).journal.nextSeq = s.journal.nextSeq ∧
    (copyEntry c r i off h s).journal.head = s.journal.head ∧
    (copyEntry c r i off h s).journal.format = s.journal.format ∧
    (copyEntry c r i off h s).journal.formatted = s.journal.formatted ∧
    (copyEntry c r i off h s).journal.full = s.journal.full ∧
    (copyEntry c r i off h s).journal.readWaiters = s.journal.readWaiters ∧ (copyEntry c r i off h s).txns = s.txns ∧
    (copyEntry c r i off h s).budget = s.budget ∧ (copyEntry c r i off h s).monitor = s.monitor ∧
    (copyEntry c r i off h s).store = s.store ∧ (copyEntry c r i off h s).array = s.array ∧
    (copyEntry c r i off h s).supply = s.supply ∧ (copyEntry c r i off h s).clock = s.clock ∧
    (copyEntry c r i off h s).recovery = s.recovery ∧ (copyEntry c r i off h s).cc.fetch = s.cc.fetch ∧
    (copyEntry c r i off h s).cc.lastServed = s.cc.lastServed ∧
    (copyEntry c r i off h s).cc.fetchPaused = s.cc.fetchPaused ∧ (copyEntry c r i off h s).cc.alerts = s.cc.alerts ∧
    (copyEntry c r i off h s).cc.alertWaiters = s.cc.alertWaiters ∧ (copyEntry c r i off h s).cc.posts = s.cc.posts ∧
    (copyEntry c r i off h s).cc.statusWrites = s.cc.statusWrites := by
  simp [copyEntry]

@[simp] theorem readLookup_frame (c : ChanId) (r : Executing) (s : State) :
    (readLookup c r s).pending = s.pending ∧ (readLookup c r s).now = s.now ∧ (readLookup c r s).free = s.free ∧
    (readLookup c r s).device = s.device ∧ (readLookup c r s).window = s.window ∧
    (readLookup c r s).journal.segs = s.journal.segs ∧ (readLookup c r s).journal.chain = s.journal.chain ∧
    (readLookup c r s).journal.sram = s.journal.sram ∧ (readLookup c r s).journal.nextSeq = s.journal.nextSeq ∧
    (readLookup c r s).journal.head = s.journal.head ∧ (readLookup c r s).journal.format = s.journal.format ∧
    (readLookup c r s).journal.formatted = s.journal.formatted ∧ (readLookup c r s).txns = s.txns ∧
    (readLookup c r s).budget.b = s.budget.b ∧ (readLookup c r s).budget.limit = s.budget.limit ∧
    (readLookup c r s).budget.headroom = s.budget.headroom ∧ (readLookup c r s).budget.exposed = s.budget.exposed ∧
    (readLookup c r s).monitor = s.monitor ∧ (readLookup c r s).store.op = s.store.op ∧
    (readLookup c r s).store.storedThrough = s.store.storedThrough ∧
    (readLookup c r s).store.waiting = s.store.waiting ∧
    (readLookup c r s).store.metadataDirty = s.store.metadataDirty ∧
    (readLookup c r s).store.jobsSinceDirty = s.store.jobsSinceDirty ∧
    (readLookup c r s).store.newest = s.store.newest ∧ (readLookup c r s).store.idleDelay = s.store.idleDelay ∧
    (readLookup c r s).store.idleTimer = s.store.idleTimer ∧ (readLookup c r s).store.lineStore = s.store.lineStore ∧
    (readLookup c r s).store.phase = s.store.phase ∧ (readLookup c r s).store.storedCount = s.store.storedCount ∧
    (readLookup c r s).store.failedList = s.store.failedList ∧
    (readLookup c r s).store.failedOverflow = s.store.failedOverflow ∧
    (readLookup c r s).store.emergencyGeneration = s.store.emergencyGeneration ∧
    (readLookup c r s).store.handedD = s.store.handedD ∧
    (readLookup c r s).store.handedExposed = s.store.handedExposed ∧ (readLookup c r s).array = s.array ∧
    (readLookup c r s).supply = s.supply ∧ (readLookup c r s).clock = s.clock ∧
    (readLookup c r s).recovery = s.recovery ∧ (readLookup c r s).cc.fetch = s.cc.fetch ∧
    (readLookup c r s).cc.lastServed = s.cc.lastServed ∧ (readLookup c r s).cc.fetchPaused = s.cc.fetchPaused ∧
    (readLookup c r s).cc.alerts = s.cc.alerts ∧ (readLookup c r s).cc.alertWaiters = s.cc.alertWaiters := by
  simp only [readLookup]
  (repeat' split) <;> simp

@[simp] theorem takeReadBuffer_frame (c : ChanId) (r : Executing) (s : State) :
    (takeReadBuffer c r s).pending = s.pending ∧ (takeReadBuffer c r s).now = s.now ∧
    (takeReadBuffer c r s).free = s.free ∧ (takeReadBuffer c r s).device = s.device ∧
    (takeReadBuffer c r s).window = s.window ∧ (takeReadBuffer c r s).journal.segs = s.journal.segs ∧
    (takeReadBuffer c r s).journal.chain = s.journal.chain ∧ (takeReadBuffer c r s).journal.sram = s.journal.sram ∧
    (takeReadBuffer c r s).journal.nextSeq = s.journal.nextSeq ∧
    (takeReadBuffer c r s).journal.head = s.journal.head ∧ (takeReadBuffer c r s).journal.format = s.journal.format ∧
    (takeReadBuffer c r s).journal.formatted = s.journal.formatted ∧ (takeReadBuffer c r s).txns = s.txns ∧
    (takeReadBuffer c r s).budget.b = s.budget.b ∧ (takeReadBuffer c r s).budget.limit = s.budget.limit ∧
    (takeReadBuffer c r s).budget.headroom = s.budget.headroom ∧
    (takeReadBuffer c r s).budget.exposed = s.budget.exposed ∧ (takeReadBuffer c r s).monitor = s.monitor ∧
    (takeReadBuffer c r s).store.op = s.store.op ∧
    (takeReadBuffer c r s).store.storedThrough = s.store.storedThrough ∧
    (takeReadBuffer c r s).store.waiting = s.store.waiting ∧
    (takeReadBuffer c r s).store.metadataDirty = s.store.metadataDirty ∧
    (takeReadBuffer c r s).store.jobsSinceDirty = s.store.jobsSinceDirty ∧
    (takeReadBuffer c r s).store.newest = s.store.newest ∧
    (takeReadBuffer c r s).store.idleDelay = s.store.idleDelay ∧
    (takeReadBuffer c r s).store.idleTimer = s.store.idleTimer ∧
    (takeReadBuffer c r s).store.lineStore = s.store.lineStore ∧ (takeReadBuffer c r s).store.phase = s.store.phase ∧
    (takeReadBuffer c r s).store.storedCount = s.store.storedCount ∧
    (takeReadBuffer c r s).store.failedList = s.store.failedList ∧
    (takeReadBuffer c r s).store.failedOverflow = s.store.failedOverflow ∧
    (takeReadBuffer c r s).store.emergencyGeneration = s.store.emergencyGeneration ∧
    (takeReadBuffer c r s).store.handedD = s.store.handedD ∧
    (takeReadBuffer c r s).store.handedExposed = s.store.handedExposed ∧ (takeReadBuffer c r s).array = s.array ∧
    (takeReadBuffer c r s).supply = s.supply ∧ (takeReadBuffer c r s).clock = s.clock ∧
    (takeReadBuffer c r s).recovery = s.recovery ∧ (takeReadBuffer c r s).cc.fetch = s.cc.fetch ∧
    (takeReadBuffer c r s).cc.lastServed = s.cc.lastServed ∧
    (takeReadBuffer c r s).cc.fetchPaused = s.cc.fetchPaused ∧ (takeReadBuffer c r s).cc.alerts = s.cc.alerts ∧
    (takeReadBuffer c r s).cc.alertWaiters = s.cc.alertWaiters := by
  simp [takeReadBuffer]

@[simp] theorem beginRead_frame (c : ChanId) (r : Executing) (s : State) :
    (beginRead c r s).pending = s.pending ∧ (beginRead c r s).now = s.now ∧ (beginRead c r s).free = s.free ∧
    (beginRead c r s).device = s.device ∧ (beginRead c r s).window = s.window ∧
    (beginRead c r s).journal.segs = s.journal.segs ∧ (beginRead c r s).journal.chain = s.journal.chain ∧
    (beginRead c r s).journal.sram = s.journal.sram ∧ (beginRead c r s).journal.nextSeq = s.journal.nextSeq ∧
    (beginRead c r s).journal.head = s.journal.head ∧ (beginRead c r s).journal.format = s.journal.format ∧
    (beginRead c r s).journal.formatted = s.journal.formatted ∧ (beginRead c r s).txns = s.txns ∧
    (beginRead c r s).budget.b = s.budget.b ∧ (beginRead c r s).budget.limit = s.budget.limit ∧
    (beginRead c r s).budget.headroom = s.budget.headroom ∧ (beginRead c r s).budget.exposed = s.budget.exposed ∧
    (beginRead c r s).monitor = s.monitor ∧ (beginRead c r s).store.op = s.store.op ∧
    (beginRead c r s).store.storedThrough = s.store.storedThrough ∧
    (beginRead c r s).store.waiting = s.store.waiting ∧
    (beginRead c r s).store.metadataDirty = s.store.metadataDirty ∧
    (beginRead c r s).store.jobsSinceDirty = s.store.jobsSinceDirty ∧
    (beginRead c r s).store.newest = s.store.newest ∧ (beginRead c r s).store.idleDelay = s.store.idleDelay ∧
    (beginRead c r s).store.idleTimer = s.store.idleTimer ∧ (beginRead c r s).store.lineStore = s.store.lineStore ∧
    (beginRead c r s).store.phase = s.store.phase ∧ (beginRead c r s).store.storedCount = s.store.storedCount ∧
    (beginRead c r s).store.failedList = s.store.failedList ∧
    (beginRead c r s).store.failedOverflow = s.store.failedOverflow ∧
    (beginRead c r s).store.emergencyGeneration = s.store.emergencyGeneration ∧
    (beginRead c r s).store.handedD = s.store.handedD ∧
    (beginRead c r s).store.handedExposed = s.store.handedExposed ∧ (beginRead c r s).array = s.array ∧
    (beginRead c r s).supply = s.supply ∧ (beginRead c r s).clock = s.clock ∧
    (beginRead c r s).recovery = s.recovery ∧ (beginRead c r s).cc.fetch = s.cc.fetch ∧
    (beginRead c r s).cc.lastServed = s.cc.lastServed ∧ (beginRead c r s).cc.fetchPaused = s.cc.fetchPaused ∧
    (beginRead c r s).cc.alerts = s.cc.alerts ∧ (beginRead c r s).cc.alertWaiters = s.cc.alertWaiters := by
  simp only [beginRead]
  (repeat' split) <;> simp

@[simp] theorem endRead_frame (c : ChanId) (ok : Bool) (r : Executing) (s : State) :
    (endRead c ok r s).pending = s.pending ∧ (endRead c ok r s).now = s.now ∧ (endRead c ok r s).free = s.free ∧
    (endRead c ok r s).device = s.device ∧ (endRead c ok r s).window = s.window ∧
    (endRead c ok r s).journal.segs = s.journal.segs ∧ (endRead c ok r s).journal.chain = s.journal.chain ∧
    (endRead c ok r s).journal.sram = s.journal.sram ∧ (endRead c ok r s).journal.nextSeq = s.journal.nextSeq ∧
    (endRead c ok r s).journal.head = s.journal.head ∧ (endRead c ok r s).journal.format = s.journal.format ∧
    (endRead c ok r s).journal.formatted = s.journal.formatted ∧ (endRead c ok r s).txns = s.txns ∧
    (endRead c ok r s).budget.b = s.budget.b ∧ (endRead c ok r s).budget.limit = s.budget.limit ∧
    (endRead c ok r s).budget.headroom = s.budget.headroom ∧ (endRead c ok r s).budget.exposed = s.budget.exposed ∧
    (endRead c ok r s).monitor = s.monitor ∧ (endRead c ok r s).store.op = s.store.op ∧
    (endRead c ok r s).store.storedThrough = s.store.storedThrough ∧
    (endRead c ok r s).store.waiting = s.store.waiting ∧
    (endRead c ok r s).store.metadataDirty = s.store.metadataDirty ∧
    (endRead c ok r s).store.jobsSinceDirty = s.store.jobsSinceDirty ∧
    (endRead c ok r s).store.newest = s.store.newest ∧ (endRead c ok r s).store.idleDelay = s.store.idleDelay ∧
    (endRead c ok r s).store.idleTimer = s.store.idleTimer ∧ (endRead c ok r s).store.lineStore = s.store.lineStore ∧
    (endRead c ok r s).store.phase = s.store.phase ∧ (endRead c ok r s).store.storedCount = s.store.storedCount ∧
    (endRead c ok r s).store.failedList = s.store.failedList ∧
    (endRead c ok r s).store.failedOverflow = s.store.failedOverflow ∧
    (endRead c ok r s).store.emergencyGeneration = s.store.emergencyGeneration ∧
    (endRead c ok r s).store.handedD = s.store.handedD ∧
    (endRead c ok r s).store.handedExposed = s.store.handedExposed ∧ (endRead c ok r s).array = s.array ∧
    (endRead c ok r s).supply = s.supply ∧ (endRead c ok r s).clock = s.clock ∧
    (endRead c ok r s).recovery = s.recovery ∧ (endRead c ok r s).cc.fetch = s.cc.fetch ∧
    (endRead c ok r s).cc.lastServed = s.cc.lastServed ∧ (endRead c ok r s).cc.fetchPaused = s.cc.fetchPaused ∧
    (endRead c ok r s).cc.alerts = s.cc.alerts ∧ (endRead c ok r s).cc.alertWaiters = s.cc.alertWaiters := by
  simp only [endRead]
  (repeat' split) <;> simp

@[simp] theorem retireSegment_frame (i : SegId) (s : State) :
    (retireSegment i s).pending = s.pending ∧ (retireSegment i s).now = s.now ∧ (retireSegment i s).free = s.free ∧
    (retireSegment i s).device = s.device ∧ (retireSegment i s).window = s.window ∧
    (retireSegment i s).staging = s.staging ∧ (retireSegment i s).journal.sram = s.journal.sram ∧
    (retireSegment i s).journal.nextSeq = s.journal.nextSeq ∧ (retireSegment i s).journal.head = s.journal.head ∧
    (retireSegment i s).journal.format = s.journal.format ∧
    (retireSegment i s).journal.formatted = s.journal.formatted ∧ (retireSegment i s).journal.full = s.journal.full ∧
    (retireSegment i s).journal.readBuffers = s.journal.readBuffers ∧
    (retireSegment i s).journal.readWaiters = s.journal.readWaiters ∧ (retireSegment i s).txns = s.txns ∧
    (retireSegment i s).budget = s.budget ∧ (retireSegment i s).monitor = s.monitor ∧
    (retireSegment i s).store = s.store ∧ (retireSegment i s).array = s.array ∧
    (retireSegment i s).supply = s.supply ∧ (retireSegment i s).clock = s.clock ∧
    (retireSegment i s).recovery = s.recovery ∧ (retireSegment i s).cc = s.cc ∧ (retireSegment i s).out = s.out := by
  simp [retireSegment]

@[simp] theorem retiredAlert_frame (i : SegId) (g : Segment) (s : State) :
    (retiredAlert i g s).pending = s.pending ∧ (retiredAlert i g s).now = s.now ∧ (retiredAlert i g s).free = s.free ∧
    (retiredAlert i g s).device = s.device ∧ (retiredAlert i g s).window = s.window ∧
    (retiredAlert i g s).staging = s.staging ∧ (retiredAlert i g s).journal = s.journal ∧
    (retiredAlert i g s).txns = s.txns ∧ (retiredAlert i g s).budget = s.budget ∧
    (retiredAlert i g s).monitor = s.monitor ∧ (retiredAlert i g s).store.queue = s.store.queue ∧
    (retiredAlert i g s).store.op = s.store.op ∧ (retiredAlert i g s).store.storedThrough = s.store.storedThrough ∧
    (retiredAlert i g s).store.waiting = s.store.waiting ∧
    (retiredAlert i g s).store.reservationWaiters = s.store.reservationWaiters ∧
    (retiredAlert i g s).store.newest = s.store.newest ∧ (retiredAlert i g s).store.idleDelay = s.store.idleDelay ∧
    (retiredAlert i g s).store.idleTimer = s.store.idleTimer ∧
    (retiredAlert i g s).store.lineStore = s.store.lineStore ∧ (retiredAlert i g s).store.phase = s.store.phase ∧
    (retiredAlert i g s).store.storedCount = s.store.storedCount ∧
    (retiredAlert i g s).store.failedList = s.store.failedList ∧
    (retiredAlert i g s).store.failedOverflow = s.store.failedOverflow ∧
    (retiredAlert i g s).store.emergencyGeneration = s.store.emergencyGeneration ∧
    (retiredAlert i g s).store.handedD = s.store.handedD ∧
    (retiredAlert i g s).store.handedExposed = s.store.handedExposed ∧ (retiredAlert i g s).array = s.array ∧
    (retiredAlert i g s).supply = s.supply ∧ (retiredAlert i g s).clock = s.clock ∧
    (retiredAlert i g s).recovery = s.recovery ∧ (retiredAlert i g s).cc.fetch = s.cc.fetch ∧
    (retiredAlert i g s).cc.lastServed = s.cc.lastServed ∧ (retiredAlert i g s).cc.fetchPaused = s.cc.fetchPaused ∧
    (retiredAlert i g s).cc.statusWrites = s.cc.statusWrites := by
  simp [retiredAlert]

@[simp] theorem reportRetired_frame (retired : List (SegId × Segment)) (s : State) :
    (reportRetired retired s).pending = s.pending ∧ (reportRetired retired s).now = s.now ∧
    (reportRetired retired s).free = s.free ∧ (reportRetired retired s).device = s.device ∧
    (reportRetired retired s).window = s.window ∧ (reportRetired retired s).staging = s.staging ∧
    (reportRetired retired s).journal = s.journal ∧ (reportRetired retired s).txns = s.txns ∧
    (reportRetired retired s).budget = s.budget ∧ (reportRetired retired s).monitor = s.monitor ∧
    (reportRetired retired s).store.queue = s.store.queue ∧ (reportRetired retired s).store.op = s.store.op ∧
    (reportRetired retired s).store.storedThrough = s.store.storedThrough ∧
    (reportRetired retired s).store.waiting = s.store.waiting ∧
    (reportRetired retired s).store.reservationWaiters = s.store.reservationWaiters ∧
    (reportRetired retired s).store.newest = s.store.newest ∧
    (reportRetired retired s).store.idleDelay = s.store.idleDelay ∧
    (reportRetired retired s).store.idleTimer = s.store.idleTimer ∧
    (reportRetired retired s).store.lineStore = s.store.lineStore ∧
    (reportRetired retired s).store.phase = s.store.phase ∧
    (reportRetired retired s).store.storedCount = s.store.storedCount ∧
    (reportRetired retired s).store.failedList = s.store.failedList ∧
    (reportRetired retired s).store.failedOverflow = s.store.failedOverflow ∧
    (reportRetired retired s).store.emergencyGeneration = s.store.emergencyGeneration ∧
    (reportRetired retired s).store.handedD = s.store.handedD ∧
    (reportRetired retired s).store.handedExposed = s.store.handedExposed ∧
    (reportRetired retired s).array = s.array ∧ (reportRetired retired s).supply = s.supply ∧
    (reportRetired retired s).clock = s.clock ∧ (reportRetired retired s).recovery = s.recovery ∧
    (reportRetired retired s).cc.fetch = s.cc.fetch ∧ (reportRetired retired s).cc.lastServed = s.cc.lastServed ∧
    (reportRetired retired s).cc.fetchPaused = s.cc.fetchPaused ∧
    (reportRetired retired s).cc.statusWrites = s.cc.statusWrites := by
  have h := foldl_keeps (fun s : State => (s.pending, s.now, s.free, s.device, s.window, s.staging, s.journal, s.txns, s.budget, s.monitor, s.store.queue, s.store.op, s.store.storedThrough, s.store.waiting, s.store.reservationWaiters, s.store.newest, s.store.idleDelay, s.store.idleTimer, s.store.lineStore, s.store.phase, s.store.storedCount, s.store.failedList, s.store.failedOverflow, s.store.emergencyGeneration, s.store.handedD, s.store.handedExposed, s.array, s.supply, s.clock, s.recovery, s.cc.fetch, s.cc.lastServed, s.cc.fetchPaused, s.cc.statusWrites))
    (fun s x => retiredAlert x.1 x.2 s) (fun s x => by simp) retired s
  simpa only [reportRetired, Prod.mk.injEq] using h

@[simp] theorem releaseMember_frame (s : State) (i : SegId) :
    (releaseMember s i).pending = s.pending ∧ (releaseMember s i).now = s.now ∧ (releaseMember s i).free = s.free ∧
    (releaseMember s i).device = s.device ∧ (releaseMember s i).window = s.window ∧
    (releaseMember s i).staging = s.staging ∧ (releaseMember s i).journal.sram = s.journal.sram ∧
    (releaseMember s i).journal.nextSeq = s.journal.nextSeq ∧ (releaseMember s i).journal.head = s.journal.head ∧
    (releaseMember s i).journal.format = s.journal.format ∧
    (releaseMember s i).journal.formatted = s.journal.formatted ∧ (releaseMember s i).journal.full = s.journal.full ∧
    (releaseMember s i).journal.readBuffers = s.journal.readBuffers ∧
    (releaseMember s i).journal.readWaiters = s.journal.readWaiters ∧ (releaseMember s i).txns = s.txns ∧
    (releaseMember s i).budget = s.budget ∧ (releaseMember s i).monitor = s.monitor ∧
    (releaseMember s i).store.op = s.store.op ∧ (releaseMember s i).store.storedThrough = s.store.storedThrough ∧
    (releaseMember s i).store.waiting = s.store.waiting ∧
    (releaseMember s i).store.reservationWaiters = s.store.reservationWaiters ∧
    (releaseMember s i).store.metadataDirty = s.store.metadataDirty ∧
    (releaseMember s i).store.jobsSinceDirty = s.store.jobsSinceDirty ∧
    (releaseMember s i).store.newest = s.store.newest ∧ (releaseMember s i).store.idleDelay = s.store.idleDelay ∧
    (releaseMember s i).store.idleTimer = s.store.idleTimer ∧
    (releaseMember s i).store.lineStore = s.store.lineStore ∧ (releaseMember s i).store.phase = s.store.phase ∧
    (releaseMember s i).store.storedCount = s.store.storedCount ∧
    (releaseMember s i).store.failedList = s.store.failedList ∧
    (releaseMember s i).store.failedOverflow = s.store.failedOverflow ∧
    (releaseMember s i).store.emergencyGeneration = s.store.emergencyGeneration ∧
    (releaseMember s i).store.handedD = s.store.handedD ∧
    (releaseMember s i).store.handedExposed = s.store.handedExposed ∧ (releaseMember s i).array = s.array ∧
    (releaseMember s i).supply = s.supply ∧ (releaseMember s i).clock = s.clock ∧
    (releaseMember s i).recovery = s.recovery ∧ (releaseMember s i).cc = s.cc ∧ (releaseMember s i).out = s.out := by
  simp only [releaseMember]
  (repeat' split) <;> simp

@[simp] theorem reportRelief_frame (falls freed : Nat) (s : State) :
    (reportRelief falls freed s).pending = s.pending ∧ (reportRelief falls freed s).now = s.now ∧
    (reportRelief falls freed s).device = s.device ∧ (reportRelief falls freed s).window = s.window ∧
    (reportRelief falls freed s).journal.head = s.journal.head ∧
    (reportRelief falls freed s).journal.format = s.journal.format ∧
    (reportRelief falls freed s).journal.formatted = s.journal.formatted ∧
    (reportRelief falls freed s).budget.b = s.budget.b ∧ (reportRelief falls freed s).budget.limit = s.budget.limit ∧
    (reportRelief falls freed s).budget.headroom = s.budget.headroom ∧
    (reportRelief falls freed s).monitor = s.monitor ∧
    (reportRelief falls freed s).store.metadataDirty = s.store.metadataDirty ∧
    (reportRelief falls freed s).store.jobsSinceDirty = s.store.jobsSinceDirty ∧
    (reportRelief falls freed s).store.newest = s.store.newest ∧
    (reportRelief falls freed s).store.idleDelay = s.store.idleDelay ∧
    (reportRelief falls freed s).store.lineStore = s.store.lineStore ∧
    (reportRelief falls freed s).store.phase = s.store.phase ∧
    (reportRelief falls freed s).store.storedCount = s.store.storedCount ∧
    (reportRelief falls freed s).store.failedList = s.store.failedList ∧
    (reportRelief falls freed s).store.failedOverflow = s.store.failedOverflow ∧
    (reportRelief falls freed s).store.emergencyGeneration = s.store.emergencyGeneration ∧
    (reportRelief falls freed s).store.handedD = s.store.handedD ∧
    (reportRelief falls freed s).store.handedExposed = s.store.handedExposed ∧
    (reportRelief falls freed s).array.slotA = s.array.slotA ∧
    (reportRelief falls freed s).array.slotB = s.array.slotB ∧
    (reportRelief falls freed s).array.closing = s.array.closing ∧ (reportRelief falls freed s).supply = s.supply ∧
    (reportRelief falls freed s).clock.ticks = s.clock.ticks ∧
    (reportRelief falls freed s).clock.epoch = s.clock.epoch ∧
    (reportRelief falls freed s).clock.intact = s.clock.intact ∧
    (reportRelief falls freed s).clock.stopLatch = s.clock.stopLatch ∧
    (reportRelief falls freed s).clock.validMarker = s.clock.validMarker ∧
    (reportRelief falls freed s).clock.oscRunning = s.clock.oscRunning ∧
    (reportRelief falls freed s).clock.batteryGood = s.clock.batteryGood ∧
    (reportRelief falls freed s).clock.clockValid = s.clock.clockValid ∧
    (reportRelief falls freed s).clock.transfer = s.clock.transfer ∧
    (reportRelief falls freed s).clock.batteryHeld = s.clock.batteryHeld ∧
    (reportRelief falls freed s).clock.stopRecorded = s.clock.stopRecorded ∧
    (reportRelief falls freed s).clock.vbatGood = s.clock.vbatGood ∧
    (reportRelief falls freed s).recovery = s.recovery ∧ (reportRelief falls freed s).cc.fetch = s.cc.fetch ∧
    (reportRelief falls freed s).cc.lastServed = s.cc.lastServed ∧
    (reportRelief falls freed s).cc.fetchPaused = s.cc.fetchPaused := by
  have h := foldl_keeps (fun s : State => (s.pending, s.now, s.device, s.window, s.journal.head, s.journal.format, s.journal.formatted, s.budget.b, s.budget.limit, s.budget.headroom, s.monitor, s.store.metadataDirty, s.store.jobsSinceDirty, s.store.newest, s.store.idleDelay, s.store.lineStore, s.store.phase, s.store.storedCount, s.store.failedList, s.store.failedOverflow, s.store.emergencyGeneration, s.store.handedD, s.store.handedExposed, s.array.slotA, s.array.slotB, s.array.closing, s.supply, s.clock.ticks, s.clock.epoch, s.clock.intact, s.clock.stopLatch, s.clock.validMarker, s.clock.oscRunning, s.clock.batteryGood, s.clock.clockValid, s.clock.transfer, s.clock.batteryHeld, s.clock.stopRecorded, s.clock.vbatGood, s.recovery, s.cc.fetch, s.cc.lastServed, s.cc.fetchPaused))
    (fun s (_ : Nat) => onRelief s) (fun s x => by simp) (List.range falls) s
  simp only [Prod.mk.injEq] at h
  have h2 := foldl_keeps (fun s : State => (s.pending, s.now, s.device, s.window, s.journal.head, s.journal.format, s.journal.formatted, s.budget.b, s.budget.limit, s.budget.headroom, s.monitor, s.store.metadataDirty, s.store.jobsSinceDirty, s.store.newest, s.store.idleDelay, s.store.lineStore, s.store.phase, s.store.storedCount, s.store.failedList, s.store.failedOverflow, s.store.emergencyGeneration, s.store.handedD, s.store.handedExposed, s.array.slotA, s.array.slotB, s.array.closing, s.supply, s.clock.ticks, s.clock.epoch, s.clock.intact, s.clock.stopLatch, s.clock.validMarker, s.clock.oscRunning, s.clock.batteryGood, s.clock.clockValid, s.clock.transfer, s.clock.batteryHeld, s.clock.stopRecorded, s.clock.vbatGood, s.recovery, s.cc.fetch, s.cc.lastServed, s.cc.fetchPaused))
    (fun s (_ : Nat) => onFreed s) (fun s x => by simp) (List.range freed)
    ((List.range falls).foldl (fun s (_ : Nat) => onRelief s) s)
  simp only [Prod.mk.injEq] at h2
  simp [reportRelief, h, h2]

@[simp] theorem applyRelease_frame (n : Nat) (s : State) :
    (applyRelease n s).pending = s.pending ∧ (applyRelease n s).now = s.now ∧ (applyRelease n s).device = s.device ∧
    (applyRelease n s).window = s.window ∧ (applyRelease n s).journal.format = s.journal.format ∧
    (applyRelease n s).journal.formatted = s.journal.formatted ∧ (applyRelease n s).budget.b = s.budget.b ∧
    (applyRelease n s).budget.limit = s.budget.limit ∧ (applyRelease n s).budget.headroom = s.budget.headroom ∧
    (applyRelease n s).monitor = s.monitor ∧ (applyRelease n s).store.newest = s.store.newest ∧
    (applyRelease n s).store.idleDelay = s.store.idleDelay ∧ (applyRelease n s).store.lineStore = s.store.lineStore ∧
    (applyRelease n s).store.phase = s.store.phase ∧ (applyRelease n s).store.storedCount = s.store.storedCount ∧
    (applyRelease n s).store.failedList = s.store.failedList ∧
    (applyRelease n s).store.failedOverflow = s.store.failedOverflow ∧
    (applyRelease n s).store.emergencyGeneration = s.store.emergencyGeneration ∧
    (applyRelease n s).store.handedD = s.store.handedD ∧
    (applyRelease n s).store.handedExposed = s.store.handedExposed ∧ (applyRelease n s).array.slotA = s.array.slotA ∧
    (applyRelease n s).array.slotB = s.array.slotB ∧ (applyRelease n s).array.closing = s.array.closing ∧
    (applyRelease n s).supply = s.supply ∧ (applyRelease n s).clock.ticks = s.clock.ticks ∧
    (applyRelease n s).clock.epoch = s.clock.epoch ∧ (applyRelease n s).clock.intact = s.clock.intact ∧
    (applyRelease n s).clock.stopLatch = s.clock.stopLatch ∧
    (applyRelease n s).clock.validMarker = s.clock.validMarker ∧
    (applyRelease n s).clock.oscRunning = s.clock.oscRunning ∧
    (applyRelease n s).clock.batteryGood = s.clock.batteryGood ∧
    (applyRelease n s).clock.clockValid = s.clock.clockValid ∧ (applyRelease n s).clock.transfer = s.clock.transfer ∧
    (applyRelease n s).clock.batteryHeld = s.clock.batteryHeld ∧
    (applyRelease n s).clock.stopRecorded = s.clock.stopRecorded ∧
    (applyRelease n s).clock.vbatGood = s.clock.vbatGood ∧ (applyRelease n s).recovery = s.recovery ∧
    (applyRelease n s).cc.fetch = s.cc.fetch ∧ (applyRelease n s).cc.lastServed = s.cc.lastServed ∧
    (applyRelease n s).cc.fetchPaused = s.cc.fetchPaused := by
  have h := foldl_keeps (fun s : State => (s.pending, s.now, s.device, s.window, s.journal.format, s.journal.formatted, s.budget.b, s.budget.limit, s.budget.headroom, s.monitor, s.store.newest, s.store.idleDelay, s.store.lineStore, s.store.phase, s.store.storedCount, s.store.failedList, s.store.failedOverflow, s.store.emergencyGeneration, s.store.handedD, s.store.handedExposed, s.array.slotA, s.array.slotB, s.array.closing, s.supply, s.clock.ticks, s.clock.epoch, s.clock.intact, s.clock.stopLatch, s.clock.validMarker, s.clock.oscRunning, s.clock.batteryGood, s.clock.clockValid, s.clock.transfer, s.clock.batteryHeld, s.clock.stopRecorded, s.clock.vbatGood, s.recovery, s.cc.fetch, s.cc.lastServed, s.cc.fetchPaused))
    releaseMember (fun s x => by simp) (s.coveredMembers n) { s with journal.head := n }
  simp only [Prod.mk.injEq] at h
  simp [applyRelease, h]

@[simp] theorem retireFailed_frame (s : State) :
    (retireFailed s).pending = s.pending ∧ (retireFailed s).now = s.now ∧ (retireFailed s).free = s.free ∧
    (retireFailed s).device = s.device ∧ (retireFailed s).window = s.window ∧ (retireFailed s).staging = s.staging ∧
    (retireFailed s).journal.sram = s.journal.sram ∧ (retireFailed s).journal.nextSeq = s.journal.nextSeq ∧
    (retireFailed s).journal.head = s.journal.head ∧ (retireFailed s).journal.format = s.journal.format ∧
    (retireFailed s).journal.formatted = s.journal.formatted ∧ (retireFailed s).journal.full = s.journal.full ∧
    (retireFailed s).journal.readBuffers = s.journal.readBuffers ∧
    (retireFailed s).journal.readWaiters = s.journal.readWaiters ∧ (retireFailed s).txns = s.txns ∧
    (retireFailed s).budget = s.budget ∧ (retireFailed s).monitor = s.monitor ∧
    (retireFailed s).store.op = s.store.op ∧ (retireFailed s).store.storedThrough = s.store.storedThrough ∧
    (retireFailed s).store.waiting = s.store.waiting ∧
    (retireFailed s).store.reservationWaiters = s.store.reservationWaiters ∧
    (retireFailed s).store.newest = s.store.newest ∧ (retireFailed s).store.idleDelay = s.store.idleDelay ∧
    (retireFailed s).store.lineStore = s.store.lineStore ∧ (retireFailed s).store.phase = s.store.phase ∧
    (retireFailed s).store.storedCount = s.store.storedCount ∧
    (retireFailed s).store.failedList = s.store.failedList ∧
    (retireFailed s).store.failedOverflow = s.store.failedOverflow ∧
    (retireFailed s).store.emergencyGeneration = s.store.emergencyGeneration ∧
    (retireFailed s).store.handedD = s.store.handedD ∧ (retireFailed s).store.handedExposed = s.store.handedExposed ∧
    (retireFailed s).array = s.array ∧ (retireFailed s).supply = s.supply ∧ (retireFailed s).clock = s.clock ∧
    (retireFailed s).recovery = s.recovery ∧ (retireFailed s).cc.fetch = s.cc.fetch ∧
    (retireFailed s).cc.lastServed = s.cc.lastServed ∧ (retireFailed s).cc.fetchPaused = s.cc.fetchPaused ∧
    (retireFailed s).cc.statusWrites = s.cc.statusWrites := by
  have h := foldl_keeps (fun s : State => (s.pending, s.now, s.free, s.device, s.window, s.staging, s.journal.sram, s.journal.nextSeq, s.journal.head, s.journal.format, s.journal.formatted, s.journal.full, s.journal.readBuffers, s.journal.readWaiters, s.txns, s.budget, s.monitor, s.store.op, s.store.storedThrough, s.store.waiting, s.store.reservationWaiters, s.store.newest, s.store.idleDelay, s.store.lineStore, s.store.phase, s.store.storedCount, s.store.failedList, s.store.failedOverflow, s.store.emergencyGeneration, s.store.handedD, s.store.handedExposed, s.array, s.supply, s.clock, s.recovery, s.cc.fetch, s.cc.lastServed, s.cc.fetchPaused, s.cc.statusWrites))
    (fun s x => retireSegment x.1 s) (fun s x => by simp) ((s.segsIn .failed).map (fun i => (i, s.seg i)))
    { s with store.queue := [], store.idleTimer := none }
  simp only [Prod.mk.injEq] at h
  simp [retireFailed, h]

@[simp] theorem formatExecute_frame (r : Executing) (s : State) :
    (formatExecute r s).pending = s.pending ∧ (formatExecute r s).now = s.now ∧ (formatExecute r s).free = s.free ∧
    (formatExecute r s).device = s.device ∧ (formatExecute r s).window = s.window ∧
    (formatExecute r s).journal.segs = s.journal.segs ∧ (formatExecute r s).journal.chain = s.journal.chain ∧
    (formatExecute r s).journal.sram = s.journal.sram ∧ (formatExecute r s).journal.nextSeq = s.journal.nextSeq ∧
    (formatExecute r s).journal.head = s.journal.head ∧ (formatExecute r s).journal.format = s.journal.format ∧
    (formatExecute r s).journal.formatted = s.journal.formatted ∧ (formatExecute r s).txns = s.txns ∧
    (formatExecute r s).budget.b = s.budget.b ∧ (formatExecute r s).budget.limit = s.budget.limit ∧
    (formatExecute r s).budget.headroom = s.budget.headroom ∧ (formatExecute r s).budget.exposed = s.budget.exposed ∧
    (formatExecute r s).monitor = s.monitor ∧ (formatExecute r s).store.op = s.store.op ∧
    (formatExecute r s).store.storedThrough = s.store.storedThrough ∧
    (formatExecute r s).store.waiting = s.store.waiting ∧
    (formatExecute r s).store.metadataDirty = s.store.metadataDirty ∧
    (formatExecute r s).store.jobsSinceDirty = s.store.jobsSinceDirty ∧
    (formatExecute r s).store.newest = s.store.newest ∧ (formatExecute r s).store.idleDelay = s.store.idleDelay ∧
    (formatExecute r s).store.idleTimer = s.store.idleTimer ∧
    (formatExecute r s).store.lineStore = s.store.lineStore ∧ (formatExecute r s).store.phase = s.store.phase ∧
    (formatExecute r s).store.storedCount = s.store.storedCount ∧
    (formatExecute r s).store.failedList = s.store.failedList ∧
    (formatExecute r s).store.failedOverflow = s.store.failedOverflow ∧
    (formatExecute r s).store.emergencyGeneration = s.store.emergencyGeneration ∧
    (formatExecute r s).store.handedD = s.store.handedD ∧
    (formatExecute r s).store.handedExposed = s.store.handedExposed ∧ (formatExecute r s).array = s.array ∧
    (formatExecute r s).supply = s.supply ∧ (formatExecute r s).clock = s.clock ∧
    (formatExecute r s).recovery = s.recovery ∧ (formatExecute r s).cc.fetch = s.cc.fetch ∧
    (formatExecute r s).cc.lastServed = s.cc.lastServed ∧ (formatExecute r s).cc.fetchPaused = s.cc.fetchPaused ∧
    (formatExecute r s).cc.alerts = s.cc.alerts ∧ (formatExecute r s).cc.alertWaiters = s.cc.alertWaiters := by
  simp only [formatExecute]
  (repeat' split) <;> simp

@[simp] theorem clearJournal_frame (s : State) :
    (clearJournal s).pending = s.pending ∧ (clearJournal s).now = s.now ∧ (clearJournal s).free = s.free ∧
    (clearJournal s).device = s.device ∧ (clearJournal s).window = s.window ∧ (clearJournal s).staging = s.staging ∧
    (clearJournal s).budget = s.budget ∧ (clearJournal s).monitor = s.monitor ∧
    (clearJournal s).store.queue = s.store.queue ∧ (clearJournal s).store.op = s.store.op ∧
    (clearJournal s).store.waiting = s.store.waiting ∧
    (clearJournal s).store.reservationWaiters = s.store.reservationWaiters ∧
    (clearJournal s).store.metadataDirty = s.store.metadataDirty ∧
    (clearJournal s).store.jobsSinceDirty = s.store.jobsSinceDirty ∧ (clearJournal s).store.newest = s.store.newest ∧
    (clearJournal s).store.idleDelay = s.store.idleDelay ∧ (clearJournal s).store.idleTimer = s.store.idleTimer ∧
    (clearJournal s).store.lineStore = s.store.lineStore ∧ (clearJournal s).store.phase = s.store.phase ∧
    (clearJournal s).store.storedCount = s.store.storedCount ∧
    (clearJournal s).store.failedList = s.store.failedList ∧
    (clearJournal s).store.failedOverflow = s.store.failedOverflow ∧
    (clearJournal s).store.emergencyGeneration = s.store.emergencyGeneration ∧
    (clearJournal s).store.handedD = s.store.handedD ∧ (clearJournal s).store.handedExposed = s.store.handedExposed ∧
    (clearJournal s).array = s.array ∧ (clearJournal s).supply = s.supply ∧
    (clearJournal s).clock.ticks = s.clock.ticks ∧ (clearJournal s).clock.epoch = s.clock.epoch ∧
    (clearJournal s).clock.intact = s.clock.intact ∧ (clearJournal s).clock.stopLatch = s.clock.stopLatch ∧
    (clearJournal s).clock.validMarker = s.clock.validMarker ∧
    (clearJournal s).clock.oscRunning = s.clock.oscRunning ∧
    (clearJournal s).clock.batteryGood = s.clock.batteryGood ∧
    (clearJournal s).clock.clockValid = s.clock.clockValid ∧ (clearJournal s).clock.lastStamp = s.clock.lastStamp ∧
    (clearJournal s).clock.batteryHeld = s.clock.batteryHeld ∧
    (clearJournal s).clock.stopRecorded = s.clock.stopRecorded ∧ (clearJournal s).clock.vbatGood = s.clock.vbatGood ∧
    (clearJournal s).recovery = s.recovery ∧ (clearJournal s).cc = s.cc ∧ (clearJournal s).out = s.out := by
  simp [clearJournal]

@[simp] theorem openExecute_frame (r : Executing) (s : State) :
    (openExecute r s).pending = s.pending ∧ (openExecute r s).now = s.now ∧ (openExecute r s).free = s.free ∧
    (openExecute r s).device = s.device ∧ (openExecute r s).window = s.window ∧
    (openExecute r s).journal.segs = s.journal.segs ∧ (openExecute r s).journal.chain = s.journal.chain ∧
    (openExecute r s).journal.sram = s.journal.sram ∧ (openExecute r s).journal.nextSeq = s.journal.nextSeq ∧
    (openExecute r s).journal.head = s.journal.head ∧ (openExecute r s).journal.format = s.journal.format ∧
    (openExecute r s).journal.formatted = s.journal.formatted ∧ (openExecute r s).txns = s.txns ∧
    (openExecute r s).budget.b = s.budget.b ∧ (openExecute r s).budget.limit = s.budget.limit ∧
    (openExecute r s).budget.headroom = s.budget.headroom ∧ (openExecute r s).budget.exposed = s.budget.exposed ∧
    (openExecute r s).monitor = s.monitor ∧ (openExecute r s).store.op = s.store.op ∧
    (openExecute r s).store.storedThrough = s.store.storedThrough ∧
    (openExecute r s).store.waiting = s.store.waiting ∧
    (openExecute r s).store.metadataDirty = s.store.metadataDirty ∧
    (openExecute r s).store.jobsSinceDirty = s.store.jobsSinceDirty ∧
    (openExecute r s).store.newest = s.store.newest ∧ (openExecute r s).store.idleDelay = s.store.idleDelay ∧
    (openExecute r s).store.idleTimer = s.store.idleTimer ∧ (openExecute r s).store.lineStore = s.store.lineStore ∧
    (openExecute r s).store.phase = s.store.phase ∧ (openExecute r s).store.storedCount = s.store.storedCount ∧
    (openExecute r s).store.failedList = s.store.failedList ∧
    (openExecute r s).store.failedOverflow = s.store.failedOverflow ∧
    (openExecute r s).store.emergencyGeneration = s.store.emergencyGeneration ∧
    (openExecute r s).store.handedD = s.store.handedD ∧
    (openExecute r s).store.handedExposed = s.store.handedExposed ∧ (openExecute r s).array = s.array ∧
    (openExecute r s).supply = s.supply ∧ (openExecute r s).clock = s.clock ∧
    (openExecute r s).recovery = s.recovery ∧ (openExecute r s).cc.fetch = s.cc.fetch ∧
    (openExecute r s).cc.lastServed = s.cc.lastServed ∧ (openExecute r s).cc.fetchPaused = s.cc.fetchPaused ∧
    (openExecute r s).cc.alerts = s.cc.alerts ∧ (openExecute r s).cc.alertWaiters = s.cc.alertWaiters := by
  simp only [openExecute]
  (repeat' split) <;> simp

@[simp] theorem cancelHeld_frame (d : ChanId) (s : State) :
    (cancelHeld d s).pending = s.pending ∧ (cancelHeld d s).now = s.now ∧ (cancelHeld d s).free = s.free ∧
    (cancelHeld d s).device = s.device ∧ (cancelHeld d s).window = s.window ∧
    (cancelHeld d s).journal.segs = s.journal.segs ∧ (cancelHeld d s).journal.chain = s.journal.chain ∧
    (cancelHeld d s).journal.sram = s.journal.sram ∧ (cancelHeld d s).journal.nextSeq = s.journal.nextSeq ∧
    (cancelHeld d s).journal.head = s.journal.head ∧ (cancelHeld d s).journal.format = s.journal.format ∧
    (cancelHeld d s).journal.formatted = s.journal.formatted ∧ (cancelHeld d s).txns = s.txns ∧
    (cancelHeld d s).budget.b = s.budget.b ∧ (cancelHeld d s).budget.limit = s.budget.limit ∧
    (cancelHeld d s).budget.headroom = s.budget.headroom ∧ (cancelHeld d s).budget.exposed = s.budget.exposed ∧
    (cancelHeld d s).monitor = s.monitor ∧ (cancelHeld d s).store.op = s.store.op ∧
    (cancelHeld d s).store.storedThrough = s.store.storedThrough ∧ (cancelHeld d s).store.waiting = s.store.waiting ∧
    (cancelHeld d s).store.metadataDirty = s.store.metadataDirty ∧
    (cancelHeld d s).store.jobsSinceDirty = s.store.jobsSinceDirty ∧ (cancelHeld d s).store.newest = s.store.newest ∧
    (cancelHeld d s).store.idleDelay = s.store.idleDelay ∧ (cancelHeld d s).store.idleTimer = s.store.idleTimer ∧
    (cancelHeld d s).store.lineStore = s.store.lineStore ∧ (cancelHeld d s).store.phase = s.store.phase ∧
    (cancelHeld d s).store.storedCount = s.store.storedCount ∧
    (cancelHeld d s).store.failedList = s.store.failedList ∧
    (cancelHeld d s).store.failedOverflow = s.store.failedOverflow ∧
    (cancelHeld d s).store.emergencyGeneration = s.store.emergencyGeneration ∧
    (cancelHeld d s).store.handedD = s.store.handedD ∧ (cancelHeld d s).store.handedExposed = s.store.handedExposed ∧
    (cancelHeld d s).array = s.array ∧ (cancelHeld d s).supply = s.supply ∧ (cancelHeld d s).clock = s.clock ∧
    (cancelHeld d s).recovery = s.recovery ∧ (cancelHeld d s).cc.fetch = s.cc.fetch ∧
    (cancelHeld d s).cc.lastServed = s.cc.lastServed ∧ (cancelHeld d s).cc.fetchPaused = s.cc.fetchPaused ∧
    (cancelHeld d s).cc.alerts = s.cc.alerts ∧ (cancelHeld d s).cc.alertWaiters = s.cc.alertWaiters := by
  simp only [cancelHeld]
  (repeat' split) <;> simp

@[simp] theorem cancelWaiters_frame (d : ChanId) (s : State) :
    (cancelWaiters d s).pending = s.pending ∧ (cancelWaiters d s).now = s.now ∧ (cancelWaiters d s).free = s.free ∧
    (cancelWaiters d s).device = s.device ∧ (cancelWaiters d s).window = s.window ∧
    (cancelWaiters d s).staging = s.staging ∧ (cancelWaiters d s).journal = s.journal ∧
    (cancelWaiters d s).txns = s.txns ∧ (cancelWaiters d s).budget = s.budget ∧
    (cancelWaiters d s).monitor = s.monitor ∧ (cancelWaiters d s).store.queue = s.store.queue ∧
    (cancelWaiters d s).store.op = s.store.op ∧ (cancelWaiters d s).store.storedThrough = s.store.storedThrough ∧
    (cancelWaiters d s).store.reservationWaiters = s.store.reservationWaiters ∧
    (cancelWaiters d s).store.metadataDirty = s.store.metadataDirty ∧
    (cancelWaiters d s).store.jobsSinceDirty = s.store.jobsSinceDirty ∧
    (cancelWaiters d s).store.newest = s.store.newest ∧ (cancelWaiters d s).store.idleDelay = s.store.idleDelay ∧
    (cancelWaiters d s).store.idleTimer = s.store.idleTimer ∧
    (cancelWaiters d s).store.lineStore = s.store.lineStore ∧ (cancelWaiters d s).store.phase = s.store.phase ∧
    (cancelWaiters d s).store.storedCount = s.store.storedCount ∧
    (cancelWaiters d s).store.failedList = s.store.failedList ∧
    (cancelWaiters d s).store.failedOverflow = s.store.failedOverflow ∧
    (cancelWaiters d s).store.emergencyGeneration = s.store.emergencyGeneration ∧
    (cancelWaiters d s).store.handedD = s.store.handedD ∧
    (cancelWaiters d s).store.handedExposed = s.store.handedExposed ∧ (cancelWaiters d s).array = s.array ∧
    (cancelWaiters d s).supply = s.supply ∧ (cancelWaiters d s).clock = s.clock ∧
    (cancelWaiters d s).recovery = s.recovery ∧ (cancelWaiters d s).cc.fetch = s.cc.fetch ∧
    (cancelWaiters d s).cc.lastServed = s.cc.lastServed ∧ (cancelWaiters d s).cc.fetchPaused = s.cc.fetchPaused ∧
    (cancelWaiters d s).cc.alerts = s.cc.alerts ∧ (cancelWaiters d s).cc.alertWaiters = s.cc.alertWaiters := by
  simp [cancelWaiters]

@[simp] theorem markDraining_frame (d : ChanId) (tag : Tag) (n : Nat) (s : State) :
    (markDraining d tag n s).pending = s.pending ∧ (markDraining d tag n s).now = s.now ∧
    (markDraining d tag n s).free = s.free ∧ (markDraining d tag n s).device = s.device ∧
    (markDraining d tag n s).window = s.window ∧ (markDraining d tag n s).journal.segs = s.journal.segs ∧
    (markDraining d tag n s).journal.chain = s.journal.chain ∧
    (markDraining d tag n s).journal.sram = s.journal.sram ∧
    (markDraining d tag n s).journal.nextSeq = s.journal.nextSeq ∧
    (markDraining d tag n s).journal.head = s.journal.head ∧
    (markDraining d tag n s).journal.format = s.journal.format ∧
    (markDraining d tag n s).journal.formatted = s.journal.formatted ∧ (markDraining d tag n s).txns = s.txns ∧
    (markDraining d tag n s).budget.b = s.budget.b ∧ (markDraining d tag n s).budget.limit = s.budget.limit ∧
    (markDraining d tag n s).budget.headroom = s.budget.headroom ∧
    (markDraining d tag n s).budget.exposed = s.budget.exposed ∧ (markDraining d tag n s).monitor = s.monitor ∧
    (markDraining d tag n s).store.op = s.store.op ∧
    (markDraining d tag n s).store.storedThrough = s.store.storedThrough ∧
    (markDraining d tag n s).store.waiting = s.store.waiting ∧
    (markDraining d tag n s).store.metadataDirty = s.store.metadataDirty ∧
    (markDraining d tag n s).store.jobsSinceDirty = s.store.jobsSinceDirty ∧
    (markDraining d tag n s).store.newest = s.store.newest ∧
    (markDraining d tag n s).store.idleDelay = s.store.idleDelay ∧
    (markDraining d tag n s).store.idleTimer = s.store.idleTimer ∧
    (markDraining d tag n s).store.lineStore = s.store.lineStore ∧
    (markDraining d tag n s).store.phase = s.store.phase ∧
    (markDraining d tag n s).store.storedCount = s.store.storedCount ∧
    (markDraining d tag n s).store.failedList = s.store.failedList ∧
    (markDraining d tag n s).store.failedOverflow = s.store.failedOverflow ∧
    (markDraining d tag n s).store.emergencyGeneration = s.store.emergencyGeneration ∧
    (markDraining d tag n s).store.handedD = s.store.handedD ∧
    (markDraining d tag n s).store.handedExposed = s.store.handedExposed ∧ (markDraining d tag n s).array = s.array ∧
    (markDraining d tag n s).supply = s.supply ∧ (markDraining d tag n s).clock = s.clock ∧
    (markDraining d tag n s).recovery = s.recovery ∧ (markDraining d tag n s).cc.fetch = s.cc.fetch ∧
    (markDraining d tag n s).cc.lastServed = s.cc.lastServed ∧
    (markDraining d tag n s).cc.fetchPaused = s.cc.fetchPaused ∧ (markDraining d tag n s).cc.alerts = s.cc.alerts ∧
    (markDraining d tag n s).cc.alertWaiters = s.cc.alertWaiters := by
  simp [markDraining]

@[simp] theorem beginDrain_frame (d : ChanId) (tag : Tag) (force : Bool) (s : State) :
    (beginDrain d tag force s).pending = s.pending ∧ (beginDrain d tag force s).now = s.now ∧
    (beginDrain d tag force s).device = s.device ∧ (beginDrain d tag force s).window = s.window ∧
    (beginDrain d tag force s).journal.head = s.journal.head ∧
    (beginDrain d tag force s).journal.format = s.journal.format ∧
    (beginDrain d tag force s).journal.formatted = s.journal.formatted ∧
    (beginDrain d tag force s).budget.b = s.budget.b ∧ (beginDrain d tag force s).budget.limit = s.budget.limit ∧
    (beginDrain d tag force s).budget.headroom = s.budget.headroom ∧
    (beginDrain d tag force s).budget.exposed = s.budget.exposed ∧ (beginDrain d tag force s).monitor = s.monitor ∧
    (beginDrain d tag force s).store.metadataDirty = s.store.metadataDirty ∧
    (beginDrain d tag force s).store.jobsSinceDirty = s.store.jobsSinceDirty ∧
    (beginDrain d tag force s).store.newest = s.store.newest ∧
    (beginDrain d tag force s).store.idleDelay = s.store.idleDelay ∧
    (beginDrain d tag force s).store.lineStore = s.store.lineStore ∧
    (beginDrain d tag force s).store.phase = s.store.phase ∧
    (beginDrain d tag force s).store.storedCount = s.store.storedCount ∧
    (beginDrain d tag force s).store.failedList = s.store.failedList ∧
    (beginDrain d tag force s).store.failedOverflow = s.store.failedOverflow ∧
    (beginDrain d tag force s).store.emergencyGeneration = s.store.emergencyGeneration ∧
    (beginDrain d tag force s).store.handedD = s.store.handedD ∧
    (beginDrain d tag force s).store.handedExposed = s.store.handedExposed ∧
    (beginDrain d tag force s).array.slotA = s.array.slotA ∧ (beginDrain d tag force s).array.slotB = s.array.slotB ∧
    (beginDrain d tag force s).array.closing = s.array.closing ∧ (beginDrain d tag force s).supply = s.supply ∧
    (beginDrain d tag force s).clock.ticks = s.clock.ticks ∧ (beginDrain d tag force s).clock.epoch = s.clock.epoch ∧
    (beginDrain d tag force s).clock.intact = s.clock.intact ∧
    (beginDrain d tag force s).clock.stopLatch = s.clock.stopLatch ∧
    (beginDrain d tag force s).clock.validMarker = s.clock.validMarker ∧
    (beginDrain d tag force s).clock.oscRunning = s.clock.oscRunning ∧
    (beginDrain d tag force s).clock.batteryGood = s.clock.batteryGood ∧
    (beginDrain d tag force s).clock.clockValid = s.clock.clockValid ∧
    (beginDrain d tag force s).clock.transfer = s.clock.transfer ∧
    (beginDrain d tag force s).clock.batteryHeld = s.clock.batteryHeld ∧
    (beginDrain d tag force s).clock.stopRecorded = s.clock.stopRecorded ∧
    (beginDrain d tag force s).clock.vbatGood = s.clock.vbatGood ∧ (beginDrain d tag force s).recovery = s.recovery ∧
    (beginDrain d tag force s).cc.fetch = s.cc.fetch ∧ (beginDrain d tag force s).cc.lastServed = s.cc.lastServed ∧
    (beginDrain d tag force s).cc.fetchPaused = s.cc.fetchPaused := by
  simp only [beginDrain]
  (repeat' split) <;> simp

@[simp] theorem closeExecute_frame (r : Executing) (s : State) :
    (closeExecute r s).pending = s.pending ∧ (closeExecute r s).now = s.now ∧ (closeExecute r s).device = s.device ∧
    (closeExecute r s).window = s.window ∧ (closeExecute r s).journal.head = s.journal.head ∧
    (closeExecute r s).journal.format = s.journal.format ∧
    (closeExecute r s).journal.formatted = s.journal.formatted ∧ (closeExecute r s).budget.b = s.budget.b ∧
    (closeExecute r s).budget.limit = s.budget.limit ∧ (closeExecute r s).budget.headroom = s.budget.headroom ∧
    (closeExecute r s).budget.exposed = s.budget.exposed ∧ (closeExecute r s).monitor = s.monitor ∧
    (closeExecute r s).store.metadataDirty = s.store.metadataDirty ∧
    (closeExecute r s).store.jobsSinceDirty = s.store.jobsSinceDirty ∧
    (closeExecute r s).store.newest = s.store.newest ∧ (closeExecute r s).store.idleDelay = s.store.idleDelay ∧
    (closeExecute r s).store.lineStore = s.store.lineStore ∧ (closeExecute r s).store.phase = s.store.phase ∧
    (closeExecute r s).store.storedCount = s.store.storedCount ∧
    (closeExecute r s).store.failedList = s.store.failedList ∧
    (closeExecute r s).store.failedOverflow = s.store.failedOverflow ∧
    (closeExecute r s).store.emergencyGeneration = s.store.emergencyGeneration ∧
    (closeExecute r s).store.handedD = s.store.handedD ∧
    (closeExecute r s).store.handedExposed = s.store.handedExposed ∧ (closeExecute r s).array.slotA = s.array.slotA ∧
    (closeExecute r s).array.slotB = s.array.slotB ∧ (closeExecute r s).array.closing = s.array.closing ∧
    (closeExecute r s).supply = s.supply ∧ (closeExecute r s).clock.ticks = s.clock.ticks ∧
    (closeExecute r s).clock.epoch = s.clock.epoch ∧ (closeExecute r s).clock.intact = s.clock.intact ∧
    (closeExecute r s).clock.stopLatch = s.clock.stopLatch ∧
    (closeExecute r s).clock.validMarker = s.clock.validMarker ∧
    (closeExecute r s).clock.oscRunning = s.clock.oscRunning ∧
    (closeExecute r s).clock.batteryGood = s.clock.batteryGood ∧
    (closeExecute r s).clock.clockValid = s.clock.clockValid ∧ (closeExecute r s).clock.transfer = s.clock.transfer ∧
    (closeExecute r s).clock.batteryHeld = s.clock.batteryHeld ∧
    (closeExecute r s).clock.stopRecorded = s.clock.stopRecorded ∧
    (closeExecute r s).clock.vbatGood = s.clock.vbatGood ∧ (closeExecute r s).recovery = s.recovery ∧
    (closeExecute r s).cc.fetch = s.cc.fetch ∧ (closeExecute r s).cc.lastServed = s.cc.lastServed ∧
    (closeExecute r s).cc.fetchPaused = s.cc.fetchPaused := by
  simp only [closeExecute]
  (repeat' split) <;> simp

@[simp] theorem recomputeBudget_frame (s : State) :
    (recomputeBudget s).pending = s.pending ∧ (recomputeBudget s).now = s.now ∧
    (recomputeBudget s).device = s.device ∧ (recomputeBudget s).window = s.window ∧
    (recomputeBudget s).journal.head = s.journal.head ∧ (recomputeBudget s).journal.format = s.journal.format ∧
    (recomputeBudget s).journal.formatted = s.journal.formatted ∧ (recomputeBudget s).budget.limit = s.budget.limit ∧
    (recomputeBudget s).budget.headroom = s.budget.headroom ∧ (recomputeBudget s).monitor = s.monitor ∧
    (recomputeBudget s).store.metadataDirty = s.store.metadataDirty ∧
    (recomputeBudget s).store.jobsSinceDirty = s.store.jobsSinceDirty ∧
    (recomputeBudget s).store.newest = s.store.newest ∧ (recomputeBudget s).store.idleDelay = s.store.idleDelay ∧
    (recomputeBudget s).store.lineStore = s.store.lineStore ∧ (recomputeBudget s).store.phase = s.store.phase ∧
    (recomputeBudget s).store.storedCount = s.store.storedCount ∧
    (recomputeBudget s).store.failedList = s.store.failedList ∧
    (recomputeBudget s).store.failedOverflow = s.store.failedOverflow ∧
    (recomputeBudget s).store.emergencyGeneration = s.store.emergencyGeneration ∧
    (recomputeBudget s).store.handedD = s.store.handedD ∧
    (recomputeBudget s).store.handedExposed = s.store.handedExposed ∧
    (recomputeBudget s).array.slotA = s.array.slotA ∧ (recomputeBudget s).array.slotB = s.array.slotB ∧
    (recomputeBudget s).array.closing = s.array.closing ∧ (recomputeBudget s).supply = s.supply ∧
    (recomputeBudget s).clock.ticks = s.clock.ticks ∧ (recomputeBudget s).clock.epoch = s.clock.epoch ∧
    (recomputeBudget s).clock.intact = s.clock.intact ∧ (recomputeBudget s).clock.stopLatch = s.clock.stopLatch ∧
    (recomputeBudget s).clock.validMarker = s.clock.validMarker ∧
    (recomputeBudget s).clock.oscRunning = s.clock.oscRunning ∧
    (recomputeBudget s).clock.batteryGood = s.clock.batteryGood ∧
    (recomputeBudget s).clock.clockValid = s.clock.clockValid ∧
    (recomputeBudget s).clock.transfer = s.clock.transfer ∧
    (recomputeBudget s).clock.batteryHeld = s.clock.batteryHeld ∧
    (recomputeBudget s).clock.stopRecorded = s.clock.stopRecorded ∧
    (recomputeBudget s).clock.vbatGood = s.clock.vbatGood ∧ (recomputeBudget s).recovery = s.recovery ∧
    (recomputeBudget s).cc.fetch = s.cc.fetch ∧ (recomputeBudget s).cc.lastServed = s.cc.lastServed ∧
    (recomputeBudget s).cc.fetchPaused = s.cc.fetchPaused := by
  simp only [recomputeBudget]
  (repeat' split) <;> simp

@[simp] theorem configureNamed_frame (r : Request) (s : State) :
    (configureNamed r s).pending = s.pending ∧ (configureNamed r s).now = s.now ∧ (configureNamed r s).free = s.free ∧
    (configureNamed r s).device = s.device ∧ (configureNamed r s).window = s.window ∧
    (configureNamed r s).staging = s.staging ∧ (configureNamed r s).journal = s.journal ∧
    (configureNamed r s).txns = s.txns ∧ (configureNamed r s).budget = s.budget ∧
    (configureNamed r s).monitor = s.monitor ∧ (configureNamed r s).store = s.store ∧
    (configureNamed r s).array = s.array ∧ (configureNamed r s).supply = s.supply ∧
    (configureNamed r s).clock = s.clock ∧ (configureNamed r s).recovery = s.recovery ∧
    (configureNamed r s).cc.fetch = s.cc.fetch ∧ (configureNamed r s).cc.lastServed = s.cc.lastServed ∧
    (configureNamed r s).cc.fetchPaused = s.cc.fetchPaused ∧ (configureNamed r s).cc.alerts = s.cc.alerts ∧
    (configureNamed r s).cc.alertWaiters = s.cc.alertWaiters ∧ (configureNamed r s).cc.posts = s.cc.posts ∧
    (configureNamed r s).cc.statusWrites = s.cc.statusWrites ∧ (configureNamed r s).out = s.out := by
  simp only [configureNamed]
  (repeat' split) <;> simp

@[simp] theorem configureBlocks_frame (r : Request) (s : State) :
    (configureBlocks r s).pending = s.pending ∧ (configureBlocks r s).now = s.now ∧
    (configureBlocks r s).free = s.free ∧ (configureBlocks r s).device = s.device ∧
    (configureBlocks r s).window = s.window ∧ (configureBlocks r s).staging = s.staging ∧
    (configureBlocks r s).journal = s.journal ∧ (configureBlocks r s).txns = s.txns ∧
    (configureBlocks r s).budget.b = s.budget.b ∧ (configureBlocks r s).budget.held = s.budget.held ∧
    (configureBlocks r s).budget.exposed = s.budget.exposed ∧
    (configureBlocks r s).budget.pressure = s.budget.pressure ∧ (configureBlocks r s).monitor = s.monitor ∧
    (configureBlocks r s).store.queue = s.store.queue ∧ (configureBlocks r s).store.op = s.store.op ∧
    (configureBlocks r s).store.storedThrough = s.store.storedThrough ∧
    (configureBlocks r s).store.waiting = s.store.waiting ∧
    (configureBlocks r s).store.reservationWaiters = s.store.reservationWaiters ∧
    (configureBlocks r s).store.metadataDirty = s.store.metadataDirty ∧
    (configureBlocks r s).store.jobsSinceDirty = s.store.jobsSinceDirty ∧
    (configureBlocks r s).store.newest = s.store.newest ∧ (configureBlocks r s).store.idleTimer = s.store.idleTimer ∧
    (configureBlocks r s).store.lineStore = s.store.lineStore ∧ (configureBlocks r s).store.phase = s.store.phase ∧
    (configureBlocks r s).store.storedCount = s.store.storedCount ∧
    (configureBlocks r s).store.failedList = s.store.failedList ∧
    (configureBlocks r s).store.failedOverflow = s.store.failedOverflow ∧
    (configureBlocks r s).store.emergencyGeneration = s.store.emergencyGeneration ∧
    (configureBlocks r s).store.handedD = s.store.handedD ∧
    (configureBlocks r s).store.handedExposed = s.store.handedExposed ∧ (configureBlocks r s).array = s.array ∧
    (configureBlocks r s).supply = s.supply ∧ (configureBlocks r s).clock = s.clock ∧
    (configureBlocks r s).recovery = s.recovery ∧ (configureBlocks r s).cc = s.cc ∧ (configureBlocks r s).out = s.out := by
  simp [configureBlocks]

@[simp] theorem applyConfigure_frame (r : Request) (s : State) :
    (applyConfigure r s).pending = s.pending ∧ (applyConfigure r s).now = s.now ∧
    (applyConfigure r s).device = s.device ∧ (applyConfigure r s).window = s.window ∧
    (applyConfigure r s).journal.head = s.journal.head ∧ (applyConfigure r s).journal.format = s.journal.format ∧
    (applyConfigure r s).journal.formatted = s.journal.formatted ∧ (applyConfigure r s).monitor = s.monitor ∧
    (applyConfigure r s).store.metadataDirty = s.store.metadataDirty ∧
    (applyConfigure r s).store.jobsSinceDirty = s.store.jobsSinceDirty ∧
    (applyConfigure r s).store.newest = s.store.newest ∧ (applyConfigure r s).store.lineStore = s.store.lineStore ∧
    (applyConfigure r s).store.phase = s.store.phase ∧ (applyConfigure r s).store.storedCount = s.store.storedCount ∧
    (applyConfigure r s).store.failedList = s.store.failedList ∧
    (applyConfigure r s).store.failedOverflow = s.store.failedOverflow ∧
    (applyConfigure r s).store.emergencyGeneration = s.store.emergencyGeneration ∧
    (applyConfigure r s).store.handedD = s.store.handedD ∧
    (applyConfigure r s).store.handedExposed = s.store.handedExposed ∧
    (applyConfigure r s).array.slotA = s.array.slotA ∧ (applyConfigure r s).array.slotB = s.array.slotB ∧
    (applyConfigure r s).array.closing = s.array.closing ∧ (applyConfigure r s).supply = s.supply ∧
    (applyConfigure r s).clock.ticks = s.clock.ticks ∧ (applyConfigure r s).clock.epoch = s.clock.epoch ∧
    (applyConfigure r s).clock.intact = s.clock.intact ∧ (applyConfigure r s).clock.stopLatch = s.clock.stopLatch ∧
    (applyConfigure r s).clock.validMarker = s.clock.validMarker ∧
    (applyConfigure r s).clock.oscRunning = s.clock.oscRunning ∧
    (applyConfigure r s).clock.batteryGood = s.clock.batteryGood ∧
    (applyConfigure r s).clock.clockValid = s.clock.clockValid ∧
    (applyConfigure r s).clock.transfer = s.clock.transfer ∧
    (applyConfigure r s).clock.batteryHeld = s.clock.batteryHeld ∧
    (applyConfigure r s).clock.stopRecorded = s.clock.stopRecorded ∧
    (applyConfigure r s).clock.vbatGood = s.clock.vbatGood ∧ (applyConfigure r s).recovery = s.recovery ∧
    (applyConfigure r s).cc.fetch = s.cc.fetch ∧ (applyConfigure r s).cc.lastServed = s.cc.lastServed ∧
    (applyConfigure r s).cc.fetchPaused = s.cc.fetchPaused := by
  simp only [applyConfigure]
  (repeat' split) <;> simp

@[simp] theorem configureExecute_frame (r : Executing) (s : State) :
    (configureExecute r s).pending = s.pending ∧ (configureExecute r s).now = s.now ∧
    (configureExecute r s).device = s.device ∧ (configureExecute r s).window = s.window ∧
    (configureExecute r s).journal.head = s.journal.head ∧ (configureExecute r s).journal.format = s.journal.format ∧
    (configureExecute r s).journal.formatted = s.journal.formatted ∧ (configureExecute r s).monitor = s.monitor ∧
    (configureExecute r s).store.metadataDirty = s.store.metadataDirty ∧
    (configureExecute r s).store.jobsSinceDirty = s.store.jobsSinceDirty ∧
    (configureExecute r s).store.newest = s.store.newest ∧
    (configureExecute r s).store.lineStore = s.store.lineStore ∧ (configureExecute r s).store.phase = s.store.phase ∧
    (configureExecute r s).store.storedCount = s.store.storedCount ∧
    (configureExecute r s).store.failedList = s.store.failedList ∧
    (configureExecute r s).store.failedOverflow = s.store.failedOverflow ∧
    (configureExecute r s).store.emergencyGeneration = s.store.emergencyGeneration ∧
    (configureExecute r s).store.handedD = s.store.handedD ∧
    (configureExecute r s).store.handedExposed = s.store.handedExposed ∧
    (configureExecute r s).array.slotA = s.array.slotA ∧ (configureExecute r s).array.slotB = s.array.slotB ∧
    (configureExecute r s).array.closing = s.array.closing ∧ (configureExecute r s).supply = s.supply ∧
    (configureExecute r s).clock.ticks = s.clock.ticks ∧ (configureExecute r s).clock.epoch = s.clock.epoch ∧
    (configureExecute r s).clock.intact = s.clock.intact ∧
    (configureExecute r s).clock.stopLatch = s.clock.stopLatch ∧
    (configureExecute r s).clock.validMarker = s.clock.validMarker ∧
    (configureExecute r s).clock.oscRunning = s.clock.oscRunning ∧
    (configureExecute r s).clock.batteryGood = s.clock.batteryGood ∧
    (configureExecute r s).clock.clockValid = s.clock.clockValid ∧
    (configureExecute r s).clock.transfer = s.clock.transfer ∧
    (configureExecute r s).clock.batteryHeld = s.clock.batteryHeld ∧
    (configureExecute r s).clock.stopRecorded = s.clock.stopRecorded ∧
    (configureExecute r s).clock.vbatGood = s.clock.vbatGood ∧ (configureExecute r s).recovery = s.recovery ∧
    (configureExecute r s).cc.fetch = s.cc.fetch ∧ (configureExecute r s).cc.lastServed = s.cc.lastServed ∧
    (configureExecute r s).cc.fetchPaused = s.cc.fetchPaused := by
  simp only [configureExecute]
  (repeat' split) <;> simp

@[simp] theorem queryExecute_frame (r : Executing) (s : State) :
    (queryExecute r s).pending = s.pending ∧ (queryExecute r s).now = s.now ∧ (queryExecute r s).free = s.free ∧
    (queryExecute r s).device = s.device ∧ (queryExecute r s).window = s.window ∧
    (queryExecute r s).journal.segs = s.journal.segs ∧ (queryExecute r s).journal.chain = s.journal.chain ∧
    (queryExecute r s).journal.sram = s.journal.sram ∧ (queryExecute r s).journal.nextSeq = s.journal.nextSeq ∧
    (queryExecute r s).journal.head = s.journal.head ∧ (queryExecute r s).journal.format = s.journal.format ∧
    (queryExecute r s).journal.formatted = s.journal.formatted ∧ (queryExecute r s).txns = s.txns ∧
    (queryExecute r s).budget.b = s.budget.b ∧ (queryExecute r s).budget.limit = s.budget.limit ∧
    (queryExecute r s).budget.headroom = s.budget.headroom ∧ (queryExecute r s).budget.exposed = s.budget.exposed ∧
    (queryExecute r s).monitor = s.monitor ∧ (queryExecute r s).store.op = s.store.op ∧
    (queryExecute r s).store.storedThrough = s.store.storedThrough ∧
    (queryExecute r s).store.waiting = s.store.waiting ∧
    (queryExecute r s).store.metadataDirty = s.store.metadataDirty ∧
    (queryExecute r s).store.jobsSinceDirty = s.store.jobsSinceDirty ∧
    (queryExecute r s).store.newest = s.store.newest ∧ (queryExecute r s).store.idleDelay = s.store.idleDelay ∧
    (queryExecute r s).store.idleTimer = s.store.idleTimer ∧ (queryExecute r s).store.lineStore = s.store.lineStore ∧
    (queryExecute r s).store.phase = s.store.phase ∧ (queryExecute r s).store.storedCount = s.store.storedCount ∧
    (queryExecute r s).store.failedList = s.store.failedList ∧
    (queryExecute r s).store.failedOverflow = s.store.failedOverflow ∧
    (queryExecute r s).store.emergencyGeneration = s.store.emergencyGeneration ∧
    (queryExecute r s).store.handedD = s.store.handedD ∧
    (queryExecute r s).store.handedExposed = s.store.handedExposed ∧ (queryExecute r s).array = s.array ∧
    (queryExecute r s).supply = s.supply ∧ (queryExecute r s).clock = s.clock ∧
    (queryExecute r s).recovery = s.recovery ∧ (queryExecute r s).cc.fetch = s.cc.fetch ∧
    (queryExecute r s).cc.lastServed = s.cc.lastServed ∧ (queryExecute r s).cc.fetchPaused = s.cc.fetchPaused ∧
    (queryExecute r s).cc.alerts = s.cc.alerts ∧ (queryExecute r s).cc.alertWaiters = s.cc.alertWaiters := by
  simp only [queryExecute]
  (repeat' split) <;> simp

@[simp] theorem endQuery_frame (ok : Bool) (r : Executing) (s : State) :
    (endQuery ok r s).pending = s.pending ∧ (endQuery ok r s).now = s.now ∧ (endQuery ok r s).free = s.free ∧
    (endQuery ok r s).device = s.device ∧ (endQuery ok r s).window = s.window ∧
    (endQuery ok r s).journal.segs = s.journal.segs ∧ (endQuery ok r s).journal.chain = s.journal.chain ∧
    (endQuery ok r s).journal.sram = s.journal.sram ∧ (endQuery ok r s).journal.nextSeq = s.journal.nextSeq ∧
    (endQuery ok r s).journal.head = s.journal.head ∧ (endQuery ok r s).journal.format = s.journal.format ∧
    (endQuery ok r s).journal.formatted = s.journal.formatted ∧ (endQuery ok r s).txns = s.txns ∧
    (endQuery ok r s).budget.b = s.budget.b ∧ (endQuery ok r s).budget.limit = s.budget.limit ∧
    (endQuery ok r s).budget.headroom = s.budget.headroom ∧ (endQuery ok r s).budget.exposed = s.budget.exposed ∧
    (endQuery ok r s).monitor = s.monitor ∧ (endQuery ok r s).store.op = s.store.op ∧
    (endQuery ok r s).store.storedThrough = s.store.storedThrough ∧
    (endQuery ok r s).store.waiting = s.store.waiting ∧
    (endQuery ok r s).store.metadataDirty = s.store.metadataDirty ∧
    (endQuery ok r s).store.jobsSinceDirty = s.store.jobsSinceDirty ∧
    (endQuery ok r s).store.newest = s.store.newest ∧ (endQuery ok r s).store.idleDelay = s.store.idleDelay ∧
    (endQuery ok r s).store.idleTimer = s.store.idleTimer ∧ (endQuery ok r s).store.lineStore = s.store.lineStore ∧
    (endQuery ok r s).store.phase = s.store.phase ∧ (endQuery ok r s).store.storedCount = s.store.storedCount ∧
    (endQuery ok r s).store.failedList = s.store.failedList ∧
    (endQuery ok r s).store.failedOverflow = s.store.failedOverflow ∧
    (endQuery ok r s).store.emergencyGeneration = s.store.emergencyGeneration ∧
    (endQuery ok r s).store.handedD = s.store.handedD ∧
    (endQuery ok r s).store.handedExposed = s.store.handedExposed ∧ (endQuery ok r s).array = s.array ∧
    (endQuery ok r s).supply = s.supply ∧ (endQuery ok r s).clock = s.clock ∧
    (endQuery ok r s).recovery = s.recovery ∧ (endQuery ok r s).cc.fetch = s.cc.fetch ∧
    (endQuery ok r s).cc.lastServed = s.cc.lastServed ∧ (endQuery ok r s).cc.fetchPaused = s.cc.fetchPaused ∧
    (endQuery ok r s).cc.alerts = s.cc.alerts ∧ (endQuery ok r s).cc.alertWaiters = s.cc.alertWaiters := by
  simp only [endQuery]
  (repeat' split) <;> simp

@[simp] theorem reportExecute_frame (r : Executing) (s : State) :
    (reportExecute r s).pending = s.pending ∧ (reportExecute r s).now = s.now ∧ (reportExecute r s).free = s.free ∧
    (reportExecute r s).device = s.device ∧ (reportExecute r s).window = s.window ∧
    (reportExecute r s).journal.segs = s.journal.segs ∧ (reportExecute r s).journal.chain = s.journal.chain ∧
    (reportExecute r s).journal.sram = s.journal.sram ∧ (reportExecute r s).journal.nextSeq = s.journal.nextSeq ∧
    (reportExecute r s).journal.head = s.journal.head ∧ (reportExecute r s).journal.format = s.journal.format ∧
    (reportExecute r s).journal.formatted = s.journal.formatted ∧ (reportExecute r s).txns = s.txns ∧
    (reportExecute r s).budget.b = s.budget.b ∧ (reportExecute r s).budget.limit = s.budget.limit ∧
    (reportExecute r s).budget.headroom = s.budget.headroom ∧ (reportExecute r s).budget.exposed = s.budget.exposed ∧
    (reportExecute r s).monitor = s.monitor ∧ (reportExecute r s).store.op = s.store.op ∧
    (reportExecute r s).store.storedThrough = s.store.storedThrough ∧
    (reportExecute r s).store.waiting = s.store.waiting ∧
    (reportExecute r s).store.metadataDirty = s.store.metadataDirty ∧
    (reportExecute r s).store.jobsSinceDirty = s.store.jobsSinceDirty ∧
    (reportExecute r s).store.newest = s.store.newest ∧ (reportExecute r s).store.idleDelay = s.store.idleDelay ∧
    (reportExecute r s).store.idleTimer = s.store.idleTimer ∧
    (reportExecute r s).store.lineStore = s.store.lineStore ∧ (reportExecute r s).store.phase = s.store.phase ∧
    (reportExecute r s).store.storedCount = s.store.storedCount ∧
    (reportExecute r s).store.failedList = s.store.failedList ∧
    (reportExecute r s).store.failedOverflow = s.store.failedOverflow ∧
    (reportExecute r s).store.emergencyGeneration = s.store.emergencyGeneration ∧
    (reportExecute r s).store.handedD = s.store.handedD ∧
    (reportExecute r s).store.handedExposed = s.store.handedExposed ∧ (reportExecute r s).array = s.array ∧
    (reportExecute r s).supply = s.supply ∧ (reportExecute r s).clock = s.clock ∧
    (reportExecute r s).recovery = s.recovery ∧ (reportExecute r s).cc.fetch = s.cc.fetch ∧
    (reportExecute r s).cc.lastServed = s.cc.lastServed ∧ (reportExecute r s).cc.fetchPaused = s.cc.fetchPaused ∧
    (reportExecute r s).cc.alerts = s.cc.alerts ∧ (reportExecute r s).cc.alertWaiters = s.cc.alertWaiters := by
  simp only [reportExecute]
  (repeat' split) <;> simp

@[simp] theorem alertWaitExecute_frame (r : Executing) (s : State) :
    (alertWaitExecute r s).pending = s.pending ∧ (alertWaitExecute r s).now = s.now ∧
    (alertWaitExecute r s).free = s.free ∧ (alertWaitExecute r s).device = s.device ∧
    (alertWaitExecute r s).window = s.window ∧ (alertWaitExecute r s).journal.segs = s.journal.segs ∧
    (alertWaitExecute r s).journal.chain = s.journal.chain ∧ (alertWaitExecute r s).journal.sram = s.journal.sram ∧
    (alertWaitExecute r s).journal.nextSeq = s.journal.nextSeq ∧
    (alertWaitExecute r s).journal.head = s.journal.head ∧ (alertWaitExecute r s).journal.format = s.journal.format ∧
    (alertWaitExecute r s).journal.formatted = s.journal.formatted ∧ (alertWaitExecute r s).txns = s.txns ∧
    (alertWaitExecute r s).budget.b = s.budget.b ∧ (alertWaitExecute r s).budget.limit = s.budget.limit ∧
    (alertWaitExecute r s).budget.headroom = s.budget.headroom ∧
    (alertWaitExecute r s).budget.exposed = s.budget.exposed ∧ (alertWaitExecute r s).monitor = s.monitor ∧
    (alertWaitExecute r s).store.op = s.store.op ∧
    (alertWaitExecute r s).store.storedThrough = s.store.storedThrough ∧
    (alertWaitExecute r s).store.waiting = s.store.waiting ∧
    (alertWaitExecute r s).store.metadataDirty = s.store.metadataDirty ∧
    (alertWaitExecute r s).store.jobsSinceDirty = s.store.jobsSinceDirty ∧
    (alertWaitExecute r s).store.newest = s.store.newest ∧
    (alertWaitExecute r s).store.idleDelay = s.store.idleDelay ∧
    (alertWaitExecute r s).store.idleTimer = s.store.idleTimer ∧
    (alertWaitExecute r s).store.lineStore = s.store.lineStore ∧ (alertWaitExecute r s).store.phase = s.store.phase ∧
    (alertWaitExecute r s).store.storedCount = s.store.storedCount ∧
    (alertWaitExecute r s).store.failedList = s.store.failedList ∧
    (alertWaitExecute r s).store.failedOverflow = s.store.failedOverflow ∧
    (alertWaitExecute r s).store.emergencyGeneration = s.store.emergencyGeneration ∧
    (alertWaitExecute r s).store.handedD = s.store.handedD ∧
    (alertWaitExecute r s).store.handedExposed = s.store.handedExposed ∧ (alertWaitExecute r s).array = s.array ∧
    (alertWaitExecute r s).supply = s.supply ∧ (alertWaitExecute r s).clock = s.clock ∧
    (alertWaitExecute r s).recovery = s.recovery ∧ (alertWaitExecute r s).cc.fetch = s.cc.fetch ∧
    (alertWaitExecute r s).cc.lastServed = s.cc.lastServed ∧ (alertWaitExecute r s).cc.fetchPaused = s.cc.fetchPaused := by
  simp only [alertWaitExecute]
  (repeat' split) <;> simp

@[simp] theorem setClockExecute_frame (r : Executing) (s : State) :
    (setClockExecute r s).pending = s.pending ∧ (setClockExecute r s).now = s.now ∧
    (setClockExecute r s).free = s.free ∧ (setClockExecute r s).device = s.device ∧
    (setClockExecute r s).window = s.window ∧ (setClockExecute r s).journal.segs = s.journal.segs ∧
    (setClockExecute r s).journal.chain = s.journal.chain ∧ (setClockExecute r s).journal.sram = s.journal.sram ∧
    (setClockExecute r s).journal.nextSeq = s.journal.nextSeq ∧ (setClockExecute r s).journal.head = s.journal.head ∧
    (setClockExecute r s).journal.format = s.journal.format ∧
    (setClockExecute r s).journal.formatted = s.journal.formatted ∧ (setClockExecute r s).txns = s.txns ∧
    (setClockExecute r s).budget.b = s.budget.b ∧ (setClockExecute r s).budget.limit = s.budget.limit ∧
    (setClockExecute r s).budget.headroom = s.budget.headroom ∧
    (setClockExecute r s).budget.exposed = s.budget.exposed ∧ (setClockExecute r s).monitor = s.monitor ∧
    (setClockExecute r s).store.op = s.store.op ∧ (setClockExecute r s).store.storedThrough = s.store.storedThrough ∧
    (setClockExecute r s).store.waiting = s.store.waiting ∧
    (setClockExecute r s).store.metadataDirty = s.store.metadataDirty ∧
    (setClockExecute r s).store.jobsSinceDirty = s.store.jobsSinceDirty ∧
    (setClockExecute r s).store.newest = s.store.newest ∧ (setClockExecute r s).store.idleDelay = s.store.idleDelay ∧
    (setClockExecute r s).store.idleTimer = s.store.idleTimer ∧
    (setClockExecute r s).store.lineStore = s.store.lineStore ∧ (setClockExecute r s).store.phase = s.store.phase ∧
    (setClockExecute r s).store.storedCount = s.store.storedCount ∧
    (setClockExecute r s).store.failedList = s.store.failedList ∧
    (setClockExecute r s).store.failedOverflow = s.store.failedOverflow ∧
    (setClockExecute r s).store.emergencyGeneration = s.store.emergencyGeneration ∧
    (setClockExecute r s).store.handedD = s.store.handedD ∧
    (setClockExecute r s).store.handedExposed = s.store.handedExposed ∧ (setClockExecute r s).array = s.array ∧
    (setClockExecute r s).supply = s.supply ∧ (setClockExecute r s).recovery = s.recovery ∧
    (setClockExecute r s).cc.fetch = s.cc.fetch ∧ (setClockExecute r s).cc.lastServed = s.cc.lastServed ∧
    (setClockExecute r s).cc.fetchPaused = s.cc.fetchPaused ∧ (setClockExecute r s).cc.alerts = s.cc.alerts ∧
    (setClockExecute r s).cc.alertWaiters = s.cc.alertWaiters := by
  simp only [setClockExecute]
  (repeat' split) <;> simp

@[simp] theorem completeSetClock_frame (status : Status) (stamp : Stamp) (s : State) :
    (completeSetClock status stamp s).pending = s.pending ∧ (completeSetClock status stamp s).now = s.now ∧
    (completeSetClock status stamp s).free = s.free ∧ (completeSetClock status stamp s).device = s.device ∧
    (completeSetClock status stamp s).window = s.window ∧
    (completeSetClock status stamp s).journal.segs = s.journal.segs ∧
    (completeSetClock status stamp s).journal.chain = s.journal.chain ∧
    (completeSetClock status stamp s).journal.sram = s.journal.sram ∧
    (completeSetClock status stamp s).journal.nextSeq = s.journal.nextSeq ∧
    (completeSetClock status stamp s).journal.head = s.journal.head ∧
    (completeSetClock status stamp s).journal.format = s.journal.format ∧
    (completeSetClock status stamp s).journal.formatted = s.journal.formatted ∧
    (completeSetClock status stamp s).txns = s.txns ∧ (completeSetClock status stamp s).budget.b = s.budget.b ∧
    (completeSetClock status stamp s).budget.limit = s.budget.limit ∧
    (completeSetClock status stamp s).budget.headroom = s.budget.headroom ∧
    (completeSetClock status stamp s).budget.exposed = s.budget.exposed ∧
    (completeSetClock status stamp s).monitor = s.monitor ∧ (completeSetClock status stamp s).store.op = s.store.op ∧
    (completeSetClock status stamp s).store.storedThrough = s.store.storedThrough ∧
    (completeSetClock status stamp s).store.waiting = s.store.waiting ∧
    (completeSetClock status stamp s).store.metadataDirty = s.store.metadataDirty ∧
    (completeSetClock status stamp s).store.jobsSinceDirty = s.store.jobsSinceDirty ∧
    (completeSetClock status stamp s).store.newest = s.store.newest ∧
    (completeSetClock status stamp s).store.idleDelay = s.store.idleDelay ∧
    (completeSetClock status stamp s).store.idleTimer = s.store.idleTimer ∧
    (completeSetClock status stamp s).store.lineStore = s.store.lineStore ∧
    (completeSetClock status stamp s).store.phase = s.store.phase ∧
    (completeSetClock status stamp s).store.storedCount = s.store.storedCount ∧
    (completeSetClock status stamp s).store.failedList = s.store.failedList ∧
    (completeSetClock status stamp s).store.failedOverflow = s.store.failedOverflow ∧
    (completeSetClock status stamp s).store.emergencyGeneration = s.store.emergencyGeneration ∧
    (completeSetClock status stamp s).store.handedD = s.store.handedD ∧
    (completeSetClock status stamp s).store.handedExposed = s.store.handedExposed ∧
    (completeSetClock status stamp s).array = s.array ∧ (completeSetClock status stamp s).supply = s.supply ∧
    (completeSetClock status stamp s).clock = s.clock ∧ (completeSetClock status stamp s).recovery = s.recovery ∧
    (completeSetClock status stamp s).cc.fetch = s.cc.fetch ∧
    (completeSetClock status stamp s).cc.lastServed = s.cc.lastServed ∧
    (completeSetClock status stamp s).cc.fetchPaused = s.cc.fetchPaused ∧
    (completeSetClock status stamp s).cc.alerts = s.cc.alerts ∧
    (completeSetClock status stamp s).cc.alertWaiters = s.cc.alertWaiters := by
  simp only [completeSetClock, withExec]
  (repeat' split) <;> simp

@[simp] theorem loseBatteryDomain_frame (s : State) :
    (loseBatteryDomain s).pending = s.pending ∧ (loseBatteryDomain s).now = s.now ∧
    (loseBatteryDomain s).device = s.device ∧ (loseBatteryDomain s).window = s.window ∧
    (loseBatteryDomain s).staging = s.staging ∧ (loseBatteryDomain s).journal = s.journal ∧
    (loseBatteryDomain s).txns = s.txns ∧ (loseBatteryDomain s).budget = s.budget ∧
    (loseBatteryDomain s).monitor = s.monitor ∧ (loseBatteryDomain s).store = s.store ∧
    (loseBatteryDomain s).array = s.array ∧ (loseBatteryDomain s).supply = s.supply ∧
    (loseBatteryDomain s).recovery = s.recovery ∧ (loseBatteryDomain s).cc = s.cc ∧ (loseBatteryDomain s).out = s.out := by
  simp [loseBatteryDomain]

@[simp] theorem endJob_frame (i : SegId) (s : State) :
    (endJob i s).pending = s.pending ∧ (endJob i s).now = s.now ∧ (endJob i s).free = s.free ∧
    (endJob i s).device = s.device ∧ (endJob i s).window = s.window ∧ (endJob i s).staging = s.staging ∧
    (endJob i s).journal.chain = s.journal.chain ∧ (endJob i s).journal.sram = s.journal.sram ∧
    (endJob i s).journal.nextSeq = s.journal.nextSeq ∧ (endJob i s).journal.head = s.journal.head ∧
    (endJob i s).journal.format = s.journal.format ∧ (endJob i s).journal.formatted = s.journal.formatted ∧
    (endJob i s).journal.full = s.journal.full ∧ (endJob i s).journal.readBuffers = s.journal.readBuffers ∧
    (endJob i s).journal.readWaiters = s.journal.readWaiters ∧ (endJob i s).txns = s.txns ∧
    (endJob i s).budget = s.budget ∧ (endJob i s).monitor = s.monitor ∧
    (endJob i s).store.storedThrough = s.store.storedThrough ∧ (endJob i s).store.waiting = s.store.waiting ∧
    (endJob i s).store.reservationWaiters = s.store.reservationWaiters ∧
    (endJob i s).store.metadataDirty = s.store.metadataDirty ∧
    (endJob i s).store.jobsSinceDirty = s.store.jobsSinceDirty ∧ (endJob i s).store.newest = s.store.newest ∧
    (endJob i s).store.idleDelay = s.store.idleDelay ∧ (endJob i s).store.idleTimer = s.store.idleTimer ∧
    (endJob i s).store.lineStore = s.store.lineStore ∧ (endJob i s).store.phase = s.store.phase ∧
    (endJob i s).store.storedCount = s.store.storedCount ∧ (endJob i s).store.failedList = s.store.failedList ∧
    (endJob i s).store.failedOverflow = s.store.failedOverflow ∧
    (endJob i s).store.emergencyGeneration = s.store.emergencyGeneration ∧
    (endJob i s).store.handedD = s.store.handedD ∧ (endJob i s).store.handedExposed = s.store.handedExposed ∧
    (endJob i s).array = s.array ∧ (endJob i s).supply = s.supply ∧ (endJob i s).clock = s.clock ∧
    (endJob i s).recovery = s.recovery ∧ (endJob i s).cc = s.cc ∧ (endJob i s).out = s.out := by
  simp [endJob]

@[simp] theorem failSegment_frame (i : SegId) (s : State) :
    (failSegment i s).pending = s.pending ∧ (failSegment i s).now = s.now ∧ (failSegment i s).free = s.free ∧
    (failSegment i s).device = s.device ∧ (failSegment i s).window = s.window ∧
    (failSegment i s).staging = s.staging ∧ (failSegment i s).journal.chain = s.journal.chain ∧
    (failSegment i s).journal.sram = s.journal.sram ∧ (failSegment i s).journal.nextSeq = s.journal.nextSeq ∧
    (failSegment i s).journal.head = s.journal.head ∧ (failSegment i s).journal.format = s.journal.format ∧
    (failSegment i s).journal.formatted = s.journal.formatted ∧ (failSegment i s).journal.full = s.journal.full ∧
    (failSegment i s).journal.readBuffers = s.journal.readBuffers ∧
    (failSegment i s).journal.readWaiters = s.journal.readWaiters ∧ (failSegment i s).txns = s.txns ∧
    (failSegment i s).budget = s.budget ∧ (failSegment i s).monitor = s.monitor ∧
    (failSegment i s).store.queue = s.store.queue ∧ (failSegment i s).store.storedThrough = s.store.storedThrough ∧
    (failSegment i s).store.waiting = s.store.waiting ∧
    (failSegment i s).store.reservationWaiters = s.store.reservationWaiters ∧
    (failSegment i s).store.metadataDirty = s.store.metadataDirty ∧
    (failSegment i s).store.jobsSinceDirty = s.store.jobsSinceDirty ∧
    (failSegment i s).store.newest = s.store.newest ∧ (failSegment i s).store.idleDelay = s.store.idleDelay ∧
    (failSegment i s).store.lineStore = s.store.lineStore ∧ (failSegment i s).store.phase = s.store.phase ∧
    (failSegment i s).store.storedCount = s.store.storedCount ∧
    (failSegment i s).store.failedList = s.store.failedList ∧
    (failSegment i s).store.failedOverflow = s.store.failedOverflow ∧
    (failSegment i s).store.emergencyGeneration = s.store.emergencyGeneration ∧
    (failSegment i s).store.handedD = s.store.handedD ∧
    (failSegment i s).store.handedExposed = s.store.handedExposed ∧ (failSegment i s).array = s.array ∧
    (failSegment i s).supply = s.supply ∧ (failSegment i s).clock = s.clock ∧
    (failSegment i s).recovery = s.recovery ∧ (failSegment i s).cc = s.cc ∧ (failSegment i s).out = s.out := by
  simp only [failSegment]
  (repeat' split) <;> simp

@[simp] theorem retryPass_frame (i : SegId) (s : State) :
    (retryPass i s).pending = s.pending ∧ (retryPass i s).now = s.now ∧ (retryPass i s).free = s.free ∧
    (retryPass i s).device = s.device ∧ (retryPass i s).window = s.window ∧ (retryPass i s).staging = s.staging ∧
    (retryPass i s).journal.chain = s.journal.chain ∧ (retryPass i s).journal.sram = s.journal.sram ∧
    (retryPass i s).journal.nextSeq = s.journal.nextSeq ∧ (retryPass i s).journal.head = s.journal.head ∧
    (retryPass i s).journal.format = s.journal.format ∧ (retryPass i s).journal.formatted = s.journal.formatted ∧
    (retryPass i s).journal.full = s.journal.full ∧ (retryPass i s).journal.readBuffers = s.journal.readBuffers ∧
    (retryPass i s).journal.readWaiters = s.journal.readWaiters ∧ (retryPass i s).txns = s.txns ∧
    (retryPass i s).budget = s.budget ∧ (retryPass i s).monitor = s.monitor ∧
    (retryPass i s).store.queue = s.store.queue ∧ (retryPass i s).store.storedThrough = s.store.storedThrough ∧
    (retryPass i s).store.waiting = s.store.waiting ∧
    (retryPass i s).store.reservationWaiters = s.store.reservationWaiters ∧
    (retryPass i s).store.metadataDirty = s.store.metadataDirty ∧
    (retryPass i s).store.jobsSinceDirty = s.store.jobsSinceDirty ∧ (retryPass i s).store.newest = s.store.newest ∧
    (retryPass i s).store.idleDelay = s.store.idleDelay ∧ (retryPass i s).store.idleTimer = s.store.idleTimer ∧
    (retryPass i s).store.lineStore = s.store.lineStore ∧ (retryPass i s).store.phase = s.store.phase ∧
    (retryPass i s).store.storedCount = s.store.storedCount ∧ (retryPass i s).store.failedList = s.store.failedList ∧
    (retryPass i s).store.failedOverflow = s.store.failedOverflow ∧
    (retryPass i s).store.emergencyGeneration = s.store.emergencyGeneration ∧
    (retryPass i s).store.handedD = s.store.handedD ∧ (retryPass i s).store.handedExposed = s.store.handedExposed ∧
    (retryPass i s).array = s.array ∧ (retryPass i s).supply = s.supply ∧ (retryPass i s).clock = s.clock ∧
    (retryPass i s).recovery = s.recovery ∧ (retryPass i s).cc = s.cc ∧ (retryPass i s).out = s.out := by
  simp [retryPass]

@[simp] theorem countJob_frame (s : State) :
    (countJob s).pending = s.pending ∧ (countJob s).now = s.now ∧ (countJob s).free = s.free ∧
    (countJob s).device = s.device ∧ (countJob s).window = s.window ∧ (countJob s).staging = s.staging ∧
    (countJob s).journal = s.journal ∧ (countJob s).txns = s.txns ∧ (countJob s).budget = s.budget ∧
    (countJob s).monitor = s.monitor ∧ (countJob s).store.queue = s.store.queue ∧ (countJob s).store.op = s.store.op ∧
    (countJob s).store.storedThrough = s.store.storedThrough ∧ (countJob s).store.waiting = s.store.waiting ∧
    (countJob s).store.reservationWaiters = s.store.reservationWaiters ∧
    (countJob s).store.metadataDirty = s.store.metadataDirty ∧ (countJob s).store.newest = s.store.newest ∧
    (countJob s).store.idleDelay = s.store.idleDelay ∧ (countJob s).store.idleTimer = s.store.idleTimer ∧
    (countJob s).store.lineStore = s.store.lineStore ∧ (countJob s).store.phase = s.store.phase ∧
    (countJob s).store.storedCount = s.store.storedCount ∧ (countJob s).store.failedList = s.store.failedList ∧
    (countJob s).store.failedOverflow = s.store.failedOverflow ∧
    (countJob s).store.emergencyGeneration = s.store.emergencyGeneration ∧
    (countJob s).store.handedD = s.store.handedD ∧ (countJob s).store.handedExposed = s.store.handedExposed ∧
    (countJob s).array = s.array ∧ (countJob s).supply = s.supply ∧ (countJob s).clock = s.clock ∧
    (countJob s).recovery = s.recovery ∧ (countJob s).cc = s.cc ∧ (countJob s).out = s.out := by
  simp only [countJob]
  (repeat' split) <;> simp

@[simp] theorem endFreeing_frame (i : SegId) (s : State) :
    (endFreeing i s).pending = s.pending ∧ (endFreeing i s).now = s.now ∧ (endFreeing i s).free = s.free ∧
    (endFreeing i s).device = s.device ∧ (endFreeing i s).window = s.window ∧ (endFreeing i s).staging = s.staging ∧
    (endFreeing i s).journal.sram = s.journal.sram ∧ (endFreeing i s).journal.nextSeq = s.journal.nextSeq ∧
    (endFreeing i s).journal.head = s.journal.head ∧ (endFreeing i s).journal.format = s.journal.format ∧
    (endFreeing i s).journal.formatted = s.journal.formatted ∧ (endFreeing i s).journal.full = s.journal.full ∧
    (endFreeing i s).journal.readBuffers = s.journal.readBuffers ∧
    (endFreeing i s).journal.readWaiters = s.journal.readWaiters ∧ (endFreeing i s).txns = s.txns ∧
    (endFreeing i s).budget = s.budget ∧ (endFreeing i s).monitor = s.monitor ∧
    (endFreeing i s).store.storedThrough = s.store.storedThrough ∧ (endFreeing i s).store.waiting = s.store.waiting ∧
    (endFreeing i s).store.reservationWaiters = s.store.reservationWaiters ∧
    (endFreeing i s).store.metadataDirty = s.store.metadataDirty ∧
    (endFreeing i s).store.jobsSinceDirty = s.store.jobsSinceDirty ∧ (endFreeing i s).store.newest = s.store.newest ∧
    (endFreeing i s).store.idleDelay = s.store.idleDelay ∧ (endFreeing i s).store.idleTimer = s.store.idleTimer ∧
    (endFreeing i s).store.lineStore = s.store.lineStore ∧ (endFreeing i s).store.phase = s.store.phase ∧
    (endFreeing i s).store.storedCount = s.store.storedCount ∧
    (endFreeing i s).store.failedList = s.store.failedList ∧
    (endFreeing i s).store.failedOverflow = s.store.failedOverflow ∧
    (endFreeing i s).store.emergencyGeneration = s.store.emergencyGeneration ∧
    (endFreeing i s).store.handedD = s.store.handedD ∧ (endFreeing i s).store.handedExposed = s.store.handedExposed ∧
    (endFreeing i s).array = s.array ∧ (endFreeing i s).supply = s.supply ∧ (endFreeing i s).clock = s.clock ∧
    (endFreeing i s).recovery = s.recovery ∧ (endFreeing i s).cc = s.cc ∧ (endFreeing i s).out = s.out := by
  simp [endFreeing]

@[simp] theorem mediaFaultAlert_frame (i : SegId) (u : Nat) (s : State) :
    (mediaFaultAlert i u s).pending = s.pending ∧ (mediaFaultAlert i u s).now = s.now ∧
    (mediaFaultAlert i u s).free = s.free ∧ (mediaFaultAlert i u s).device = s.device ∧
    (mediaFaultAlert i u s).window = s.window ∧ (mediaFaultAlert i u s).staging = s.staging ∧
    (mediaFaultAlert i u s).journal = s.journal ∧ (mediaFaultAlert i u s).txns = s.txns ∧
    (mediaFaultAlert i u s).budget = s.budget ∧ (mediaFaultAlert i u s).monitor = s.monitor ∧
    (mediaFaultAlert i u s).store = s.store ∧ (mediaFaultAlert i u s).array = s.array ∧
    (mediaFaultAlert i u s).supply = s.supply ∧ (mediaFaultAlert i u s).clock = s.clock ∧
    (mediaFaultAlert i u s).recovery = s.recovery ∧ (mediaFaultAlert i u s).cc.fetch = s.cc.fetch ∧
    (mediaFaultAlert i u s).cc.lastServed = s.cc.lastServed ∧
    (mediaFaultAlert i u s).cc.fetchPaused = s.cc.fetchPaused ∧
    (mediaFaultAlert i u s).cc.statusWrites = s.cc.statusWrites := by
  simp [mediaFaultAlert]

@[simp] theorem failureEffects_frame (i : SegId) (u : Nat) (s : State) :
    (failureEffects i u s).pending = s.pending ∧ (failureEffects i u s).now = s.now ∧
    (failureEffects i u s).device = s.device ∧ (failureEffects i u s).window = s.window ∧
    (failureEffects i u s).journal.head = s.journal.head ∧ (failureEffects i u s).journal.format = s.journal.format ∧
    (failureEffects i u s).journal.formatted = s.journal.formatted ∧ (failureEffects i u s).budget.b = s.budget.b ∧
    (failureEffects i u s).budget.limit = s.budget.limit ∧
    (failureEffects i u s).budget.headroom = s.budget.headroom ∧ (failureEffects i u s).monitor = s.monitor ∧
    (failureEffects i u s).store.newest = s.store.newest ∧
    (failureEffects i u s).store.idleDelay = s.store.idleDelay ∧
    (failureEffects i u s).store.lineStore = s.store.lineStore ∧ (failureEffects i u s).store.phase = s.store.phase ∧
    (failureEffects i u s).store.storedCount = s.store.storedCount ∧
    (failureEffects i u s).store.failedList = s.store.failedList ∧
    (failureEffects i u s).store.failedOverflow = s.store.failedOverflow ∧
    (failureEffects i u s).store.emergencyGeneration = s.store.emergencyGeneration ∧
    (failureEffects i u s).store.handedD = s.store.handedD ∧
    (failureEffects i u s).store.handedExposed = s.store.handedExposed ∧
    (failureEffects i u s).array.slotA = s.array.slotA ∧ (failureEffects i u s).array.slotB = s.array.slotB ∧
    (failureEffects i u s).array.closing = s.array.closing ∧ (failureEffects i u s).supply = s.supply ∧
    (failureEffects i u s).clock.ticks = s.clock.ticks ∧ (failureEffects i u s).clock.epoch = s.clock.epoch ∧
    (failureEffects i u s).clock.intact = s.clock.intact ∧
    (failureEffects i u s).clock.stopLatch = s.clock.stopLatch ∧
    (failureEffects i u s).clock.validMarker = s.clock.validMarker ∧
    (failureEffects i u s).clock.oscRunning = s.clock.oscRunning ∧
    (failureEffects i u s).clock.batteryGood = s.clock.batteryGood ∧
    (failureEffects i u s).clock.clockValid = s.clock.clockValid ∧
    (failureEffects i u s).clock.transfer = s.clock.transfer ∧
    (failureEffects i u s).clock.batteryHeld = s.clock.batteryHeld ∧
    (failureEffects i u s).clock.stopRecorded = s.clock.stopRecorded ∧
    (failureEffects i u s).clock.vbatGood = s.clock.vbatGood ∧ (failureEffects i u s).recovery = s.recovery ∧
    (failureEffects i u s).cc.fetch = s.cc.fetch ∧ (failureEffects i u s).cc.lastServed = s.cc.lastServed ∧
    (failureEffects i u s).cc.fetchPaused = s.cc.fetchPaused := by
  simp [failureEffects]

@[simp] theorem passEnd_frame (i : SegId) (agree : Bool) (s : State) :
    (passEnd i agree s).pending = s.pending ∧ (passEnd i agree s).now = s.now ∧
    (passEnd i agree s).device = s.device ∧ (passEnd i agree s).window = s.window ∧
    (passEnd i agree s).journal.head = s.journal.head ∧ (passEnd i agree s).journal.format = s.journal.format ∧
    (passEnd i agree s).journal.formatted = s.journal.formatted ∧ (passEnd i agree s).budget.b = s.budget.b ∧
    (passEnd i agree s).budget.limit = s.budget.limit ∧ (passEnd i agree s).budget.headroom = s.budget.headroom ∧
    (passEnd i agree s).monitor = s.monitor ∧ (passEnd i agree s).store.newest = s.store.newest ∧
    (passEnd i agree s).store.idleDelay = s.store.idleDelay ∧
    (passEnd i agree s).store.lineStore = s.store.lineStore ∧ (passEnd i agree s).store.phase = s.store.phase ∧
    (passEnd i agree s).store.storedCount = s.store.storedCount ∧
    (passEnd i agree s).store.failedList = s.store.failedList ∧
    (passEnd i agree s).store.failedOverflow = s.store.failedOverflow ∧
    (passEnd i agree s).store.emergencyGeneration = s.store.emergencyGeneration ∧
    (passEnd i agree s).store.handedD = s.store.handedD ∧
    (passEnd i agree s).store.handedExposed = s.store.handedExposed ∧
    (passEnd i agree s).array.slotA = s.array.slotA ∧ (passEnd i agree s).array.slotB = s.array.slotB ∧
    (passEnd i agree s).array.closing = s.array.closing ∧ (passEnd i agree s).supply = s.supply ∧
    (passEnd i agree s).clock.ticks = s.clock.ticks ∧ (passEnd i agree s).clock.epoch = s.clock.epoch ∧
    (passEnd i agree s).clock.intact = s.clock.intact ∧ (passEnd i agree s).clock.stopLatch = s.clock.stopLatch ∧
    (passEnd i agree s).clock.validMarker = s.clock.validMarker ∧
    (passEnd i agree s).clock.oscRunning = s.clock.oscRunning ∧
    (passEnd i agree s).clock.batteryGood = s.clock.batteryGood ∧
    (passEnd i agree s).clock.clockValid = s.clock.clockValid ∧
    (passEnd i agree s).clock.transfer = s.clock.transfer ∧
    (passEnd i agree s).clock.batteryHeld = s.clock.batteryHeld ∧
    (passEnd i agree s).clock.stopRecorded = s.clock.stopRecorded ∧
    (passEnd i agree s).clock.vbatGood = s.clock.vbatGood ∧ (passEnd i agree s).recovery = s.recovery ∧
    (passEnd i agree s).cc.fetch = s.cc.fetch ∧ (passEnd i agree s).cc.lastServed = s.cc.lastServed ∧
    (passEnd i agree s).cc.fetchPaused = s.cc.fetchPaused := by
  simp only [passEnd]
  (repeat' split) <;> simp

@[simp] theorem listFailure_frame (i : SegId) (s : State) :
    (listFailure i s).pending = s.pending ∧ (listFailure i s).now = s.now ∧ (listFailure i s).free = s.free ∧
    (listFailure i s).device = s.device ∧ (listFailure i s).window = s.window ∧
    (listFailure i s).staging = s.staging ∧ (listFailure i s).journal = s.journal ∧ (listFailure i s).txns = s.txns ∧
    (listFailure i s).budget = s.budget ∧ (listFailure i s).monitor = s.monitor ∧
    (listFailure i s).store.queue = s.store.queue ∧ (listFailure i s).store.op = s.store.op ∧
    (listFailure i s).store.storedThrough = s.store.storedThrough ∧
    (listFailure i s).store.waiting = s.store.waiting ∧
    (listFailure i s).store.reservationWaiters = s.store.reservationWaiters ∧
    (listFailure i s).store.metadataDirty = s.store.metadataDirty ∧
    (listFailure i s).store.jobsSinceDirty = s.store.jobsSinceDirty ∧
    (listFailure i s).store.newest = s.store.newest ∧ (listFailure i s).store.idleDelay = s.store.idleDelay ∧
    (listFailure i s).store.idleTimer = s.store.idleTimer ∧ (listFailure i s).store.lineStore = s.store.lineStore ∧
    (listFailure i s).store.phase = s.store.phase ∧ (listFailure i s).store.storedCount = s.store.storedCount ∧
    (listFailure i s).store.emergencyGeneration = s.store.emergencyGeneration ∧
    (listFailure i s).store.handedD = s.store.handedD ∧
    (listFailure i s).store.handedExposed = s.store.handedExposed ∧ (listFailure i s).array = s.array ∧
    (listFailure i s).supply = s.supply ∧ (listFailure i s).clock = s.clock ∧
    (listFailure i s).recovery = s.recovery ∧ (listFailure i s).cc = s.cc ∧ (listFailure i s).out = s.out := by
  simp only [listFailure]
  (repeat' split) <;> simp

@[simp] theorem emergencyFailure_frame (i : SegId) (u : Nat) (s : State) :
    (emergencyFailure i u s).pending = s.pending ∧ (emergencyFailure i u s).now = s.now ∧
    (emergencyFailure i u s).free = s.free ∧ (emergencyFailure i u s).device = s.device ∧
    (emergencyFailure i u s).window = s.window ∧ (emergencyFailure i u s).staging = s.staging ∧
    (emergencyFailure i u s).journal = s.journal ∧ (emergencyFailure i u s).txns = s.txns ∧
    (emergencyFailure i u s).budget = s.budget ∧ (emergencyFailure i u s).monitor = s.monitor ∧
    (emergencyFailure i u s).store.queue = s.store.queue ∧ (emergencyFailure i u s).store.op = s.store.op ∧
    (emergencyFailure i u s).store.storedThrough = s.store.storedThrough ∧
    (emergencyFailure i u s).store.waiting = s.store.waiting ∧
    (emergencyFailure i u s).store.reservationWaiters = s.store.reservationWaiters ∧
    (emergencyFailure i u s).store.newest = s.store.newest ∧
    (emergencyFailure i u s).store.idleDelay = s.store.idleDelay ∧
    (emergencyFailure i u s).store.idleTimer = s.store.idleTimer ∧
    (emergencyFailure i u s).store.lineStore = s.store.lineStore ∧
    (emergencyFailure i u s).store.phase = s.store.phase ∧
    (emergencyFailure i u s).store.storedCount = s.store.storedCount ∧
    (emergencyFailure i u s).store.emergencyGeneration = s.store.emergencyGeneration ∧
    (emergencyFailure i u s).store.handedD = s.store.handedD ∧
    (emergencyFailure i u s).store.handedExposed = s.store.handedExposed ∧ (emergencyFailure i u s).array = s.array ∧
    (emergencyFailure i u s).supply = s.supply ∧ (emergencyFailure i u s).clock = s.clock ∧
    (emergencyFailure i u s).recovery = s.recovery ∧ (emergencyFailure i u s).cc.fetch = s.cc.fetch ∧
    (emergencyFailure i u s).cc.lastServed = s.cc.lastServed ∧
    (emergencyFailure i u s).cc.fetchPaused = s.cc.fetchPaused ∧
    (emergencyFailure i u s).cc.statusWrites = s.cc.statusWrites := by
  simp only [emergencyFailure]
  (repeat' split) <;> simp

@[simp] theorem countStored_frame (s : State) :
    (countStored s).pending = s.pending ∧ (countStored s).now = s.now ∧ (countStored s).free = s.free ∧
    (countStored s).device = s.device ∧ (countStored s).window = s.window ∧ (countStored s).staging = s.staging ∧
    (countStored s).journal = s.journal ∧ (countStored s).txns = s.txns ∧ (countStored s).budget = s.budget ∧
    (countStored s).monitor = s.monitor ∧ (countStored s).store.queue = s.store.queue ∧
    (countStored s).store.op = s.store.op ∧ (countStored s).store.storedThrough = s.store.storedThrough ∧
    (countStored s).store.waiting = s.store.waiting ∧
    (countStored s).store.reservationWaiters = s.store.reservationWaiters ∧
    (countStored s).store.metadataDirty = s.store.metadataDirty ∧
    (countStored s).store.jobsSinceDirty = s.store.jobsSinceDirty ∧ (countStored s).store.newest = s.store.newest ∧
    (countStored s).store.idleDelay = s.store.idleDelay ∧ (countStored s).store.idleTimer = s.store.idleTimer ∧
    (countStored s).store.lineStore = s.store.lineStore ∧ (countStored s).store.phase = s.store.phase ∧
    (countStored s).store.failedList = s.store.failedList ∧
    (countStored s).store.failedOverflow = s.store.failedOverflow ∧
    (countStored s).store.emergencyGeneration = s.store.emergencyGeneration ∧
    (countStored s).store.handedD = s.store.handedD ∧ (countStored s).store.handedExposed = s.store.handedExposed ∧
    (countStored s).array = s.array ∧ (countStored s).supply = s.supply ∧ (countStored s).clock = s.clock ∧
    (countStored s).recovery = s.recovery ∧ (countStored s).cc = s.cc ∧ (countStored s).out = s.out := by
  simp only [countStored]
  (repeat' split) <;> simp

@[simp] theorem emergencyPassEnd_frame (i : SegId) (agree : Bool) (s : State) :
    (emergencyPassEnd i agree s).pending = s.pending ∧ (emergencyPassEnd i agree s).now = s.now ∧
    (emergencyPassEnd i agree s).free = s.free ∧ (emergencyPassEnd i agree s).device = s.device ∧
    (emergencyPassEnd i agree s).window = s.window ∧ (emergencyPassEnd i agree s).staging = s.staging ∧
    (emergencyPassEnd i agree s).journal.sram = s.journal.sram ∧
    (emergencyPassEnd i agree s).journal.nextSeq = s.journal.nextSeq ∧
    (emergencyPassEnd i agree s).journal.head = s.journal.head ∧
    (emergencyPassEnd i agree s).journal.format = s.journal.format ∧
    (emergencyPassEnd i agree s).journal.formatted = s.journal.formatted ∧
    (emergencyPassEnd i agree s).journal.full = s.journal.full ∧
    (emergencyPassEnd i agree s).journal.readBuffers = s.journal.readBuffers ∧
    (emergencyPassEnd i agree s).journal.readWaiters = s.journal.readWaiters ∧
    (emergencyPassEnd i agree s).txns = s.txns ∧ (emergencyPassEnd i agree s).budget = s.budget ∧
    (emergencyPassEnd i agree s).monitor = s.monitor ∧ (emergencyPassEnd i agree s).array = s.array ∧
    (emergencyPassEnd i agree s).supply = s.supply ∧ (emergencyPassEnd i agree s).clock = s.clock ∧
    (emergencyPassEnd i agree s).recovery = s.recovery ∧ (emergencyPassEnd i agree s).cc.fetch = s.cc.fetch ∧
    (emergencyPassEnd i agree s).cc.lastServed = s.cc.lastServed ∧
    (emergencyPassEnd i agree s).cc.fetchPaused = s.cc.fetchPaused ∧
    (emergencyPassEnd i agree s).cc.statusWrites = s.cc.statusWrites := by
  simp only [emergencyPassEnd]
  (repeat' split) <;> simp

@[simp] theorem passBytes_frame (i : SegId) (w : Nat) (agree : Bool) (s : State) :
    (passBytes i w agree s).pending = s.pending ∧ (passBytes i w agree s).now = s.now ∧
    (passBytes i w agree s).device = s.device ∧ (passBytes i w agree s).window = s.window ∧
    (passBytes i w agree s).staging = s.staging ∧ (passBytes i w agree s).journal = s.journal ∧
    (passBytes i w agree s).txns = s.txns ∧ (passBytes i w agree s).budget = s.budget ∧
    (passBytes i w agree s).monitor = s.monitor ∧ (passBytes i w agree s).store = s.store ∧
    (passBytes i w agree s).array.slotA = s.array.slotA ∧ (passBytes i w agree s).array.slotB = s.array.slotB ∧
    (passBytes i w agree s).array.closing = s.array.closing ∧ (passBytes i w agree s).supply = s.supply ∧
    (passBytes i w agree s).clock = s.clock ∧ (passBytes i w agree s).recovery = s.recovery ∧
    (passBytes i w agree s).cc = s.cc ∧ (passBytes i w agree s).out = s.out := by
  simp only [passBytes]
  (repeat' split) <;> simp

@[simp] theorem checkpointStored_frame (slot : Slot) (x : Checkpoint) (s : State) :
    (checkpointStored slot x s).pending = s.pending ∧ (checkpointStored slot x s).now = s.now ∧
    (checkpointStored slot x s).free = s.free ∧ (checkpointStored slot x s).device = s.device ∧
    (checkpointStored slot x s).window = s.window ∧ (checkpointStored slot x s).staging = s.staging ∧
    (checkpointStored slot x s).journal = s.journal ∧ (checkpointStored slot x s).txns = s.txns ∧
    (checkpointStored slot x s).budget = s.budget ∧ (checkpointStored slot x s).monitor = s.monitor ∧
    (checkpointStored slot x s).store.queue = s.store.queue ∧
    (checkpointStored slot x s).store.storedThrough = s.store.storedThrough ∧
    (checkpointStored slot x s).store.waiting = s.store.waiting ∧
    (checkpointStored slot x s).store.reservationWaiters = s.store.reservationWaiters ∧
    (checkpointStored slot x s).store.metadataDirty = s.store.metadataDirty ∧
    (checkpointStored slot x s).store.jobsSinceDirty = s.store.jobsSinceDirty ∧
    (checkpointStored slot x s).store.idleDelay = s.store.idleDelay ∧
    (checkpointStored slot x s).store.idleTimer = s.store.idleTimer ∧
    (checkpointStored slot x s).store.lineStore = s.store.lineStore ∧
    (checkpointStored slot x s).store.phase = s.store.phase ∧
    (checkpointStored slot x s).store.storedCount = s.store.storedCount ∧
    (checkpointStored slot x s).store.failedList = s.store.failedList ∧
    (checkpointStored slot x s).store.failedOverflow = s.store.failedOverflow ∧
    (checkpointStored slot x s).store.emergencyGeneration = s.store.emergencyGeneration ∧
    (checkpointStored slot x s).store.handedD = s.store.handedD ∧
    (checkpointStored slot x s).store.handedExposed = s.store.handedExposed ∧
    (checkpointStored slot x s).array.shadow = s.array.shadow ∧
    (checkpointStored slot x s).array.closing = s.array.closing ∧ (checkpointStored slot x s).supply = s.supply ∧
    (checkpointStored slot x s).clock = s.clock ∧ (checkpointStored slot x s).recovery = s.recovery ∧
    (checkpointStored slot x s).cc = s.cc ∧ (checkpointStored slot x s).out = s.out := by
  simp [checkpointStored]

@[simp] theorem checkpointAlert_frame (slot : Slot) (x : Checkpoint) (s : State) :
    (checkpointAlert slot x s).pending = s.pending ∧ (checkpointAlert slot x s).now = s.now ∧
    (checkpointAlert slot x s).free = s.free ∧ (checkpointAlert slot x s).device = s.device ∧
    (checkpointAlert slot x s).window = s.window ∧ (checkpointAlert slot x s).staging = s.staging ∧
    (checkpointAlert slot x s).journal = s.journal ∧ (checkpointAlert slot x s).txns = s.txns ∧
    (checkpointAlert slot x s).budget = s.budget ∧ (checkpointAlert slot x s).monitor = s.monitor ∧
    (checkpointAlert slot x s).store.queue = s.store.queue ∧ (checkpointAlert slot x s).store.op = s.store.op ∧
    (checkpointAlert slot x s).store.storedThrough = s.store.storedThrough ∧
    (checkpointAlert slot x s).store.waiting = s.store.waiting ∧
    (checkpointAlert slot x s).store.reservationWaiters = s.store.reservationWaiters ∧
    (checkpointAlert slot x s).store.newest = s.store.newest ∧
    (checkpointAlert slot x s).store.idleDelay = s.store.idleDelay ∧
    (checkpointAlert slot x s).store.idleTimer = s.store.idleTimer ∧
    (checkpointAlert slot x s).store.lineStore = s.store.lineStore ∧
    (checkpointAlert slot x s).store.phase = s.store.phase ∧
    (checkpointAlert slot x s).store.storedCount = s.store.storedCount ∧
    (checkpointAlert slot x s).store.failedList = s.store.failedList ∧
    (checkpointAlert slot x s).store.failedOverflow = s.store.failedOverflow ∧
    (checkpointAlert slot x s).store.emergencyGeneration = s.store.emergencyGeneration ∧
    (checkpointAlert slot x s).store.handedD = s.store.handedD ∧
    (checkpointAlert slot x s).store.handedExposed = s.store.handedExposed ∧
    (checkpointAlert slot x s).array = s.array ∧ (checkpointAlert slot x s).supply = s.supply ∧
    (checkpointAlert slot x s).clock = s.clock ∧ (checkpointAlert slot x s).recovery = s.recovery ∧
    (checkpointAlert slot x s).cc.fetch = s.cc.fetch ∧ (checkpointAlert slot x s).cc.lastServed = s.cc.lastServed ∧
    (checkpointAlert slot x s).cc.fetchPaused = s.cc.fetchPaused ∧
    (checkpointAlert slot x s).cc.statusWrites = s.cc.statusWrites := by
  simp only [checkpointAlert]
  (repeat' split) <;> simp

@[simp] theorem checkpointLost_frame (slot : Slot) (x : Checkpoint) (s : State) :
    (checkpointLost slot x s).pending = s.pending ∧ (checkpointLost slot x s).now = s.now ∧
    (checkpointLost slot x s).free = s.free ∧ (checkpointLost slot x s).device = s.device ∧
    (checkpointLost slot x s).window = s.window ∧ (checkpointLost slot x s).staging = s.staging ∧
    (checkpointLost slot x s).journal = s.journal ∧ (checkpointLost slot x s).txns = s.txns ∧
    (checkpointLost slot x s).budget = s.budget ∧ (checkpointLost slot x s).monitor = s.monitor ∧
    (checkpointLost slot x s).store.queue = s.store.queue ∧
    (checkpointLost slot x s).store.storedThrough = s.store.storedThrough ∧
    (checkpointLost slot x s).store.waiting = s.store.waiting ∧
    (checkpointLost slot x s).store.reservationWaiters = s.store.reservationWaiters ∧
    (checkpointLost slot x s).store.newest = s.store.newest ∧
    (checkpointLost slot x s).store.idleDelay = s.store.idleDelay ∧
    (checkpointLost slot x s).store.idleTimer = s.store.idleTimer ∧
    (checkpointLost slot x s).store.lineStore = s.store.lineStore ∧
    (checkpointLost slot x s).store.phase = s.store.phase ∧
    (checkpointLost slot x s).store.storedCount = s.store.storedCount ∧
    (checkpointLost slot x s).store.failedList = s.store.failedList ∧
    (checkpointLost slot x s).store.failedOverflow = s.store.failedOverflow ∧
    (checkpointLost slot x s).store.emergencyGeneration = s.store.emergencyGeneration ∧
    (checkpointLost slot x s).store.handedD = s.store.handedD ∧
    (checkpointLost slot x s).store.handedExposed = s.store.handedExposed ∧
    (checkpointLost slot x s).array.shadow = s.array.shadow ∧
    (checkpointLost slot x s).array.closing = s.array.closing ∧ (checkpointLost slot x s).supply = s.supply ∧
    (checkpointLost slot x s).clock = s.clock ∧ (checkpointLost slot x s).recovery = s.recovery ∧
    (checkpointLost slot x s).cc.fetch = s.cc.fetch ∧ (checkpointLost slot x s).cc.lastServed = s.cc.lastServed ∧
    (checkpointLost slot x s).cc.fetchPaused = s.cc.fetchPaused ∧
    (checkpointLost slot x s).cc.statusWrites = s.cc.statusWrites := by
  simp [checkpointLost]

@[simp] theorem retryCheckpoint_frame (slot : Slot) (x : Checkpoint) (failures : Nat) (s : State) :
    (retryCheckpoint slot x failures s).pending = s.pending ∧ (retryCheckpoint slot x failures s).now = s.now ∧
    (retryCheckpoint slot x failures s).free = s.free ∧ (retryCheckpoint slot x failures s).device = s.device ∧
    (retryCheckpoint slot x failures s).window = s.window ∧ (retryCheckpoint slot x failures s).staging = s.staging ∧
    (retryCheckpoint slot x failures s).journal = s.journal ∧ (retryCheckpoint slot x failures s).txns = s.txns ∧
    (retryCheckpoint slot x failures s).budget = s.budget ∧ (retryCheckpoint slot x failures s).monitor = s.monitor ∧
    (retryCheckpoint slot x failures s).store.queue = s.store.queue ∧
    (retryCheckpoint slot x failures s).store.storedThrough = s.store.storedThrough ∧
    (retryCheckpoint slot x failures s).store.waiting = s.store.waiting ∧
    (retryCheckpoint slot x failures s).store.reservationWaiters = s.store.reservationWaiters ∧
    (retryCheckpoint slot x failures s).store.metadataDirty = s.store.metadataDirty ∧
    (retryCheckpoint slot x failures s).store.jobsSinceDirty = s.store.jobsSinceDirty ∧
    (retryCheckpoint slot x failures s).store.newest = s.store.newest ∧
    (retryCheckpoint slot x failures s).store.idleDelay = s.store.idleDelay ∧
    (retryCheckpoint slot x failures s).store.idleTimer = s.store.idleTimer ∧
    (retryCheckpoint slot x failures s).store.lineStore = s.store.lineStore ∧
    (retryCheckpoint slot x failures s).store.phase = s.store.phase ∧
    (retryCheckpoint slot x failures s).store.storedCount = s.store.storedCount ∧
    (retryCheckpoint slot x failures s).store.failedList = s.store.failedList ∧
    (retryCheckpoint slot x failures s).store.failedOverflow = s.store.failedOverflow ∧
    (retryCheckpoint slot x failures s).store.emergencyGeneration = s.store.emergencyGeneration ∧
    (retryCheckpoint slot x failures s).store.handedD = s.store.handedD ∧
    (retryCheckpoint slot x failures s).store.handedExposed = s.store.handedExposed ∧
    (retryCheckpoint slot x failures s).array.shadow = s.array.shadow ∧
    (retryCheckpoint slot x failures s).array.closing = s.array.closing ∧
    (retryCheckpoint slot x failures s).supply = s.supply ∧ (retryCheckpoint slot x failures s).clock = s.clock ∧
    (retryCheckpoint slot x failures s).recovery = s.recovery ∧ (retryCheckpoint slot x failures s).cc = s.cc ∧
    (retryCheckpoint slot x failures s).out = s.out := by
  simp [retryCheckpoint]

@[simp] theorem leaveRecover_frame (s : State) :
    (leaveRecover s).pending = s.pending ∧ (leaveRecover s).now = s.now ∧ (leaveRecover s).free = s.free ∧
    (leaveRecover s).staging = s.staging ∧ (leaveRecover s).journal = s.journal ∧ (leaveRecover s).txns = s.txns ∧
    (leaveRecover s).budget = s.budget ∧ (leaveRecover s).monitor = s.monitor ∧ (leaveRecover s).store = s.store ∧
    (leaveRecover s).array = s.array ∧ (leaveRecover s).supply = s.supply ∧ (leaveRecover s).clock = s.clock ∧
    (leaveRecover s).recovery = s.recovery ∧ (leaveRecover s).cc.fetch = s.cc.fetch ∧
    (leaveRecover s).cc.lastServed = s.cc.lastServed ∧ (leaveRecover s).cc.fetchPaused = s.cc.fetchPaused ∧
    (leaveRecover s).cc.alerts = s.cc.alerts ∧ (leaveRecover s).cc.alertWaiters = s.cc.alertWaiters ∧
    (leaveRecover s).cc.posts = s.cc.posts := by
  simp only [leaveRecover]
  (repeat' split) <;> simp

@[simp] theorem endRecover_frame (ok : Bool) (s : State) :
    (endRecover ok s).pending = s.pending ∧ (endRecover ok s).now = s.now ∧ (endRecover ok s).free = s.free ∧
    (endRecover ok s).staging = s.staging ∧ (endRecover ok s).journal = s.journal ∧ (endRecover ok s).txns = s.txns ∧
    (endRecover ok s).budget = s.budget ∧ (endRecover ok s).monitor = s.monitor ∧
    (endRecover ok s).store.op = s.store.op ∧ (endRecover ok s).store.storedThrough = s.store.storedThrough ∧
    (endRecover ok s).store.waiting = s.store.waiting ∧
    (endRecover ok s).store.reservationWaiters = s.store.reservationWaiters ∧
    (endRecover ok s).store.metadataDirty = s.store.metadataDirty ∧
    (endRecover ok s).store.jobsSinceDirty = s.store.jobsSinceDirty ∧
    (endRecover ok s).store.newest = s.store.newest ∧ (endRecover ok s).store.idleDelay = s.store.idleDelay ∧
    (endRecover ok s).store.idleTimer = s.store.idleTimer ∧ (endRecover ok s).store.phase = s.store.phase ∧
    (endRecover ok s).store.storedCount = s.store.storedCount ∧
    (endRecover ok s).store.failedList = s.store.failedList ∧
    (endRecover ok s).store.failedOverflow = s.store.failedOverflow ∧
    (endRecover ok s).store.emergencyGeneration = s.store.emergencyGeneration ∧
    (endRecover ok s).store.handedD = s.store.handedD ∧
    (endRecover ok s).store.handedExposed = s.store.handedExposed ∧ (endRecover ok s).array = s.array ∧
    (endRecover ok s).clock = s.clock ∧ (endRecover ok s).cc.fetch = s.cc.fetch ∧
    (endRecover ok s).cc.lastServed = s.cc.lastServed ∧ (endRecover ok s).cc.alerts = s.cc.alerts ∧
    (endRecover ok s).cc.alertWaiters = s.cc.alertWaiters ∧ (endRecover ok s).cc.posts = s.cc.posts := by
  simp only [endRecover]
  (repeat' split) <;> simp

@[simp] theorem completeFormat_frame (ok : Bool) (s : State) :
    (completeFormat ok s).pending = s.pending ∧ (completeFormat ok s).now = s.now ∧
    (completeFormat ok s).free = s.free ∧ (completeFormat ok s).device = s.device ∧
    (completeFormat ok s).window = s.window ∧ (completeFormat ok s).journal.segs = s.journal.segs ∧
    (completeFormat ok s).journal.chain = s.journal.chain ∧ (completeFormat ok s).journal.sram = s.journal.sram ∧
    (completeFormat ok s).journal.nextSeq = s.journal.nextSeq ∧ (completeFormat ok s).journal.head = s.journal.head ∧
    (completeFormat ok s).journal.format = s.journal.format ∧
    (completeFormat ok s).journal.formatted = s.journal.formatted ∧ (completeFormat ok s).txns = s.txns ∧
    (completeFormat ok s).budget.b = s.budget.b ∧ (completeFormat ok s).budget.limit = s.budget.limit ∧
    (completeFormat ok s).budget.headroom = s.budget.headroom ∧
    (completeFormat ok s).budget.exposed = s.budget.exposed ∧ (completeFormat ok s).monitor = s.monitor ∧
    (completeFormat ok s).store.op = s.store.op ∧ (completeFormat ok s).store.storedThrough = s.store.storedThrough ∧
    (completeFormat ok s).store.waiting = s.store.waiting ∧
    (completeFormat ok s).store.metadataDirty = s.store.metadataDirty ∧
    (completeFormat ok s).store.jobsSinceDirty = s.store.jobsSinceDirty ∧
    (completeFormat ok s).store.newest = s.store.newest ∧ (completeFormat ok s).store.idleDelay = s.store.idleDelay ∧
    (completeFormat ok s).store.idleTimer = s.store.idleTimer ∧
    (completeFormat ok s).store.lineStore = s.store.lineStore ∧ (completeFormat ok s).store.phase = s.store.phase ∧
    (completeFormat ok s).store.storedCount = s.store.storedCount ∧
    (completeFormat ok s).store.failedList = s.store.failedList ∧
    (completeFormat ok s).store.failedOverflow = s.store.failedOverflow ∧
    (completeFormat ok s).store.emergencyGeneration = s.store.emergencyGeneration ∧
    (completeFormat ok s).store.handedD = s.store.handedD ∧
    (completeFormat ok s).store.handedExposed = s.store.handedExposed ∧ (completeFormat ok s).array = s.array ∧
    (completeFormat ok s).supply = s.supply ∧ (completeFormat ok s).clock = s.clock ∧
    (completeFormat ok s).recovery = s.recovery ∧ (completeFormat ok s).cc.fetch = s.cc.fetch ∧
    (completeFormat ok s).cc.lastServed = s.cc.lastServed ∧ (completeFormat ok s).cc.fetchPaused = s.cc.fetchPaused ∧
    (completeFormat ok s).cc.alerts = s.cc.alerts ∧ (completeFormat ok s).cc.alertWaiters = s.cc.alertWaiters := by
  simp only [completeFormat, withExec]
  (repeat' split) <;> simp

@[simp] theorem backgroundEnd_frame (ok : Bool) (s : State) :
    (backgroundEnd ok s).pending = s.pending ∧ (backgroundEnd ok s).now = s.now ∧ (backgroundEnd ok s).free = s.free ∧
    (backgroundEnd ok s).device = s.device ∧ (backgroundEnd ok s).window = s.window ∧
    (backgroundEnd ok s).journal.segs = s.journal.segs ∧ (backgroundEnd ok s).journal.chain = s.journal.chain ∧
    (backgroundEnd ok s).journal.sram = s.journal.sram ∧ (backgroundEnd ok s).journal.nextSeq = s.journal.nextSeq ∧
    (backgroundEnd ok s).journal.head = s.journal.head ∧ (backgroundEnd ok s).journal.format = s.journal.format ∧
    (backgroundEnd ok s).journal.formatted = s.journal.formatted ∧ (backgroundEnd ok s).txns = s.txns ∧
    (backgroundEnd ok s).budget.b = s.budget.b ∧ (backgroundEnd ok s).budget.limit = s.budget.limit ∧
    (backgroundEnd ok s).budget.headroom = s.budget.headroom ∧
    (backgroundEnd ok s).budget.exposed = s.budget.exposed ∧ (backgroundEnd ok s).monitor = s.monitor ∧
    (backgroundEnd ok s).store.storedThrough = s.store.storedThrough ∧
    (backgroundEnd ok s).store.waiting = s.store.waiting ∧ (backgroundEnd ok s).store.newest = s.store.newest ∧
    (backgroundEnd ok s).store.idleDelay = s.store.idleDelay ∧
    (backgroundEnd ok s).store.idleTimer = s.store.idleTimer ∧ (backgroundEnd ok s).store.phase = s.store.phase ∧
    (backgroundEnd ok s).store.storedCount = s.store.storedCount ∧
    (backgroundEnd ok s).store.failedList = s.store.failedList ∧
    (backgroundEnd ok s).store.failedOverflow = s.store.failedOverflow ∧
    (backgroundEnd ok s).store.emergencyGeneration = s.store.emergencyGeneration ∧
    (backgroundEnd ok s).store.handedD = s.store.handedD ∧
    (backgroundEnd ok s).store.handedExposed = s.store.handedExposed ∧ (backgroundEnd ok s).array = s.array ∧
    (backgroundEnd ok s).supply.good = s.supply.good ∧ (backgroundEnd ok s).supply.latch = s.supply.latch ∧
    (backgroundEnd ok s).clock = s.clock ∧ (backgroundEnd ok s).recovery = s.recovery ∧
    (backgroundEnd ok s).cc.fetch = s.cc.fetch ∧ (backgroundEnd ok s).cc.lastServed = s.cc.lastServed ∧
    (backgroundEnd ok s).cc.alerts = s.cc.alerts ∧ (backgroundEnd ok s).cc.alertWaiters = s.cc.alertWaiters := by
  simp only [backgroundEnd]
  (repeat' split) <;> simp

@[simp] theorem cutCheckpointWrite_frame (slot : Slot) (failures : Nat) (s : State) :
    (cutCheckpointWrite slot failures s).pending = s.pending ∧ (cutCheckpointWrite slot failures s).now = s.now ∧
    (cutCheckpointWrite slot failures s).device = s.device ∧ (cutCheckpointWrite slot failures s).window = s.window ∧
    (cutCheckpointWrite slot failures s).staging = s.staging ∧
    (cutCheckpointWrite slot failures s).journal = s.journal ∧ (cutCheckpointWrite slot failures s).txns = s.txns ∧
    (cutCheckpointWrite slot failures s).budget = s.budget ∧
    (cutCheckpointWrite slot failures s).monitor = s.monitor ∧
    (cutCheckpointWrite slot failures s).store = s.store ∧
    (cutCheckpointWrite slot failures s).array.shadow = s.array.shadow ∧
    (cutCheckpointWrite slot failures s).array.closing = s.array.closing ∧
    (cutCheckpointWrite slot failures s).supply = s.supply ∧ (cutCheckpointWrite slot failures s).clock = s.clock ∧
    (cutCheckpointWrite slot failures s).recovery = s.recovery ∧ (cutCheckpointWrite slot failures s).cc = s.cc ∧
    (cutCheckpointWrite slot failures s).out = s.out := by
  simp only [cutCheckpointWrite]
  split <;> simp

@[simp] theorem cutOperation_frame (s : State) :
    (cutOperation s).pending = s.pending ∧ (cutOperation s).now = s.now ∧ (cutOperation s).device = s.device ∧
    (cutOperation s).window = s.window ∧ (cutOperation s).staging = s.staging ∧ (cutOperation s).journal = s.journal ∧
    (cutOperation s).txns = s.txns ∧ (cutOperation s).budget = s.budget ∧ (cutOperation s).monitor = s.monitor ∧
    (cutOperation s).store.queue = s.store.queue ∧ (cutOperation s).store.storedThrough = s.store.storedThrough ∧
    (cutOperation s).store.waiting = s.store.waiting ∧
    (cutOperation s).store.reservationWaiters = s.store.reservationWaiters ∧
    (cutOperation s).store.metadataDirty = s.store.metadataDirty ∧
    (cutOperation s).store.jobsSinceDirty = s.store.jobsSinceDirty ∧ (cutOperation s).store.newest = s.store.newest ∧
    (cutOperation s).store.idleDelay = s.store.idleDelay ∧ (cutOperation s).store.idleTimer = s.store.idleTimer ∧
    (cutOperation s).store.lineStore = s.store.lineStore ∧ (cutOperation s).store.phase = s.store.phase ∧
    (cutOperation s).store.storedCount = s.store.storedCount ∧
    (cutOperation s).store.failedList = s.store.failedList ∧
    (cutOperation s).store.failedOverflow = s.store.failedOverflow ∧
    (cutOperation s).store.emergencyGeneration = s.store.emergencyGeneration ∧
    (cutOperation s).store.handedD = s.store.handedD ∧ (cutOperation s).store.handedExposed = s.store.handedExposed ∧
    (cutOperation s).supply = s.supply ∧ (cutOperation s).clock = s.clock ∧ (cutOperation s).recovery = s.recovery ∧
    (cutOperation s).cc = s.cc ∧ (cutOperation s).out = s.out := by
  simp only [cutOperation]
  (repeat' split) <;> simp

@[simp] theorem enterOff_frame (s : State) :
    (enterOff s).pending = s.pending ∧ (enterOff s).now = s.now ∧ (enterOff s).window = s.window ∧
    (enterOff s).staging = s.staging ∧ (enterOff s).journal = s.journal ∧ (enterOff s).txns = s.txns ∧
    (enterOff s).budget = s.budget ∧ (enterOff s).monitor = s.monitor ∧ (enterOff s).store.queue = s.store.queue ∧
    (enterOff s).store.storedThrough = s.store.storedThrough ∧ (enterOff s).store.waiting = s.store.waiting ∧
    (enterOff s).store.reservationWaiters = s.store.reservationWaiters ∧
    (enterOff s).store.metadataDirty = s.store.metadataDirty ∧
    (enterOff s).store.jobsSinceDirty = s.store.jobsSinceDirty ∧ (enterOff s).store.newest = s.store.newest ∧
    (enterOff s).store.idleDelay = s.store.idleDelay ∧ (enterOff s).store.idleTimer = s.store.idleTimer ∧
    (enterOff s).store.lineStore = s.store.lineStore ∧ (enterOff s).store.phase = s.store.phase ∧
    (enterOff s).store.storedCount = s.store.storedCount ∧ (enterOff s).store.failedList = s.store.failedList ∧
    (enterOff s).store.failedOverflow = s.store.failedOverflow ∧
    (enterOff s).store.emergencyGeneration = s.store.emergencyGeneration ∧
    (enterOff s).store.handedD = s.store.handedD ∧ (enterOff s).store.handedExposed = s.store.handedExposed ∧
    (enterOff s).array = s.array ∧ (enterOff s).recovery = s.recovery ∧ (enterOff s).cc = s.cc ∧
    (enterOff s).out = s.out := by
  simp only [enterOff]
  (repeat' split) <;> simp

@[simp] theorem holdupFault_frame (cause value : Nat) (s : State) :
    (holdupFault cause value s).pending = s.pending ∧ (holdupFault cause value s).now = s.now ∧
    (holdupFault cause value s).free = s.free ∧ (holdupFault cause value s).device = s.device ∧
    (holdupFault cause value s).window = s.window ∧ (holdupFault cause value s).staging = s.staging ∧
    (holdupFault cause value s).journal = s.journal ∧ (holdupFault cause value s).txns = s.txns ∧
    (holdupFault cause value s).budget = s.budget ∧ (holdupFault cause value s).monitor = s.monitor ∧
    (holdupFault cause value s).store = s.store ∧ (holdupFault cause value s).array = s.array ∧
    (holdupFault cause value s).supply = s.supply ∧ (holdupFault cause value s).clock = s.clock ∧
    (holdupFault cause value s).recovery = s.recovery ∧ (holdupFault cause value s).cc.fetch = s.cc.fetch ∧
    (holdupFault cause value s).cc.lastServed = s.cc.lastServed ∧
    (holdupFault cause value s).cc.fetchPaused = s.cc.fetchPaused ∧
    (holdupFault cause value s).cc.statusWrites = s.cc.statusWrites := by
  simp [holdupFault]

@[simp] theorem sagWatch_frame (v : Nat) (s : State) :
    (sagWatch v s).pending = s.pending ∧ (sagWatch v s).now = s.now ∧ (sagWatch v s).free = s.free ∧
    (sagWatch v s).device = s.device ∧ (sagWatch v s).window = s.window ∧ (sagWatch v s).staging = s.staging ∧
    (sagWatch v s).journal = s.journal ∧ (sagWatch v s).txns = s.txns ∧ (sagWatch v s).budget = s.budget ∧
    (sagWatch v s).store = s.store ∧ (sagWatch v s).array = s.array ∧ (sagWatch v s).supply = s.supply ∧
    (sagWatch v s).clock = s.clock ∧ (sagWatch v s).recovery = s.recovery ∧ (sagWatch v s).cc.fetch = s.cc.fetch ∧
    (sagWatch v s).cc.lastServed = s.cc.lastServed ∧ (sagWatch v s).cc.fetchPaused = s.cc.fetchPaused ∧
    (sagWatch v s).cc.statusWrites = s.cc.statusWrites := by
  simp only [sagWatch]
  (repeat' split) <;> simp

@[simp] theorem recordMeasurement_frame (v : Nat) (s : State) :
    (recordMeasurement v s).pending = s.pending ∧ (recordMeasurement v s).free = s.free ∧
    (recordMeasurement v s).device = s.device ∧ (recordMeasurement v s).window = s.window ∧
    (recordMeasurement v s).staging = s.staging ∧ (recordMeasurement v s).journal = s.journal ∧
    (recordMeasurement v s).txns = s.txns ∧ (recordMeasurement v s).budget = s.budget ∧
    (recordMeasurement v s).store = s.store ∧ (recordMeasurement v s).array = s.array ∧
    (recordMeasurement v s).supply = s.supply ∧ (recordMeasurement v s).clock = s.clock ∧
    (recordMeasurement v s).recovery = s.recovery ∧ (recordMeasurement v s).cc = s.cc ∧
    (recordMeasurement v s).out = s.out := by
  simp [recordMeasurement]

@[simp] theorem powerDecision_frame (v : Nat) (s : State) :
    (powerDecision v s).pending = s.pending ∧ (powerDecision v s).now = s.now ∧
    (powerDecision v s).window = s.window ∧ (powerDecision v s).staging = s.staging ∧
    (powerDecision v s).journal = s.journal ∧ (powerDecision v s).txns = s.txns ∧
    (powerDecision v s).budget = s.budget ∧ (powerDecision v s).monitor = s.monitor ∧
    (powerDecision v s).store.queue = s.store.queue ∧
    (powerDecision v s).store.storedThrough = s.store.storedThrough ∧
    (powerDecision v s).store.waiting = s.store.waiting ∧
    (powerDecision v s).store.reservationWaiters = s.store.reservationWaiters ∧
    (powerDecision v s).store.metadataDirty = s.store.metadataDirty ∧
    (powerDecision v s).store.jobsSinceDirty = s.store.jobsSinceDirty ∧
    (powerDecision v s).store.newest = s.store.newest ∧ (powerDecision v s).store.idleDelay = s.store.idleDelay ∧
    (powerDecision v s).store.idleTimer = s.store.idleTimer ∧
    (powerDecision v s).store.lineStore = s.store.lineStore ∧ (powerDecision v s).store.phase = s.store.phase ∧
    (powerDecision v s).store.storedCount = s.store.storedCount ∧
    (powerDecision v s).store.failedList = s.store.failedList ∧
    (powerDecision v s).store.failedOverflow = s.store.failedOverflow ∧
    (powerDecision v s).store.emergencyGeneration = s.store.emergencyGeneration ∧
    (powerDecision v s).store.handedD = s.store.handedD ∧
    (powerDecision v s).store.handedExposed = s.store.handedExposed ∧ (powerDecision v s).recovery = s.recovery ∧
    (powerDecision v s).cc = s.cc ∧ (powerDecision v s).out = s.out := by
  simp only [powerDecision]
  (repeat' split) <;> simp

@[simp] theorem endLearning_frame (n : Nat) (s : State) :
    (endLearning n s).pending = s.pending ∧ (endLearning n s).now = s.now ∧ (endLearning n s).free = s.free ∧
    (endLearning n s).device = s.device ∧ (endLearning n s).window = s.window ∧
    (endLearning n s).staging = s.staging ∧ (endLearning n s).journal = s.journal ∧ (endLearning n s).txns = s.txns ∧
    (endLearning n s).budget = s.budget ∧ (endLearning n s).store = s.store ∧ (endLearning n s).array = s.array ∧
    (endLearning n s).supply = s.supply ∧ (endLearning n s).clock = s.clock ∧
    (endLearning n s).recovery = s.recovery ∧ (endLearning n s).cc.fetch = s.cc.fetch ∧
    (endLearning n s).cc.lastServed = s.cc.lastServed ∧ (endLearning n s).cc.fetchPaused = s.cc.fetchPaused ∧
    (endLearning n s).cc.statusWrites = s.cc.statusWrites := by
  simp only [endLearning]
  (repeat' split) <;> simp

@[simp] theorem beginSequence_frame (s : State) :
    (beginSequence s).pending = s.pending ∧ (beginSequence s).now = s.now ∧ (beginSequence s).free = s.free ∧
    (beginSequence s).device = s.device ∧ (beginSequence s).window = s.window ∧
    (beginSequence s).staging = s.staging ∧ (beginSequence s).journal = s.journal ∧ (beginSequence s).txns = s.txns ∧
    (beginSequence s).budget = s.budget ∧ (beginSequence s).monitor = s.monitor ∧ (beginSequence s).array = s.array ∧
    (beginSequence s).supply = s.supply ∧ (beginSequence s).clock = s.clock ∧
    (beginSequence s).recovery = s.recovery ∧ (beginSequence s).cc = s.cc ∧ (beginSequence s).out = s.out := by
  simp only [beginSequence]
  (repeat' split) <;> simp

@[simp] theorem cutRecoveryWrite_frame (s : State) :
    (cutRecoveryWrite s).pending = s.pending ∧ (cutRecoveryWrite s).now = s.now ∧
    (cutRecoveryWrite s).device = s.device ∧ (cutRecoveryWrite s).window = s.window ∧
    (cutRecoveryWrite s).staging = s.staging ∧ (cutRecoveryWrite s).journal = s.journal ∧
    (cutRecoveryWrite s).txns = s.txns ∧ (cutRecoveryWrite s).budget = s.budget ∧
    (cutRecoveryWrite s).monitor = s.monitor ∧ (cutRecoveryWrite s).store = s.store ∧
    (cutRecoveryWrite s).array.shadow = s.array.shadow ∧ (cutRecoveryWrite s).array.closing = s.array.closing ∧
    (cutRecoveryWrite s).supply = s.supply ∧ (cutRecoveryWrite s).clock = s.clock ∧
    (cutRecoveryWrite s).recovery = s.recovery ∧ (cutRecoveryWrite s).cc = s.cc ∧ (cutRecoveryWrite s).out = s.out := by
  simp only [cutRecoveryWrite]
  (repeat' split) <;> simp

end Sys2Proof.Machine
end

