-- ==== Sys2Proof/Laws/Kept.lean ====
section
/-! SUPPORT. SameLog, SameUnits and SameChannelsBut as relations, the parts of settle that keep them, the shared operations
on a channel's record, and what keeps the law of a stopped oscillator.
-/
namespace Sys2Proof.Machine

/-! ### The relations -/

theorem Segment.SameLog.refl (g : Segment) : g.SameLog g := ⟨rfl, rfl, rfl, rfl, rfl⟩

theorem Segment.SameLog.trans {g h k : Segment} (a : g.SameLog h) (b : h.SameLog k) : g.SameLog k :=
  ⟨b.1.trans a.1, b.2.1.trans a.2.1, b.2.2.1.trans a.2.2.1, b.2.2.2.1.trans a.2.2.2.1, b.2.2.2.2.trans a.2.2.2.2⟩

/-- The segment table is the same, store jobs apart. -/
abbrev SameSegments (s u : State) : Prop := ∀ i, (s.seg i).SameLog (u.seg i)

theorem SameSegments.of_segs {s u : State} (h : u.journal.segs = s.journal.segs) : SameSegments s u := by
  intro i
  have : u.seg i = s.seg i := by simp [State.seg, h]
  rw [this]
  exact Segment.SameLog.refl _

theorem SameSegments.trans {s t u : State} (a : SameSegments s t) (b : SameSegments t u) : SameSegments s u :=
  fun i => (a i).trans (b i)

theorem SameLog.trans {s t u : State} (a : SameLog s t) (b : SameLog t u) : SameLog s u :=
  ⟨b.1.trans a.1, b.2.1.trans a.2.1, b.2.2.1.trans a.2.2.1, b.2.2.2.1.trans a.2.2.2.1,
    b.2.2.2.2.1.trans a.2.2.2.2.1, b.2.2.2.2.2.1.trans a.2.2.2.2.2.1, SameSegments.trans a.2.2.2.2.2.2 b.2.2.2.2.2.2⟩

theorem SameUnits.trans {s t u : State} (a : SameUnits s t) (b : SameUnits t u) : SameUnits s u := by
  unfold SameUnits at *
  simp_all

theorem SameContents.trans {s t u : State} (a : SameContents s t) (b : SameContents t u) : SameContents s u :=
  ⟨a.1.trans b.1, a.2.trans b.2⟩

/-- No fetch has begun while the fetch in flight is the same. -/
theorem fetchBegun_same {s u : State} (d : ChanId) (h : u.cc.fetch = s.cc.fetch) : fetchBegun d s u = 0 := by
  simp only [fetchBegun, h]
  exact if_neg (fun ⟨h1, h2⟩ => by rw [h1] at h2; cases h2)

/-- What counts as a fetch begun depends on the fetch in flight alone. -/
theorem fetchBegun_congr {s t u : State} (d : ChanId) (h : t.cc.fetch = s.cc.fetch) :
    fetchBegun d t u = fetchBegun d s u := by
  simp only [fetchBegun, h]

theorem SameChannelsBut.trans {p : ChanId → Prop} {s t u : State} (a : SameChannelsBut p s t)
    (b : SameChannelsBut p t u) (h : t.cc.fetch = s.cc.fetch) : SameChannelsBut p s u := by
  intro d hd
  rw [b d hd, a d hd, fetchBegun_same d h, fetchBegun_congr d h]
  rfl

theorem SameChannelsBut.mono {p q : ChanId → Prop} {s t : State} (a : SameChannelsBut p s t)
    (h : ∀ d, p d → q d) : SameChannelsBut q s t := fun d hd => a d (fun hp => hd (h d hp))

theorem SameChannelsBut.of_chans {p : ChanId → Prop} {s t : State} (h : t.cc.chans = s.cc.chans)
    (hf : t.cc.fetch = s.cc.fetch) : SameChannelsBut p s t := by
  intro d _
  have : t.chan d = s.chan d := by simp [State.chan, h]
  rw [this, fetchBegun_same d hf]
  rfl

/-! ### Segments -/

theorem startJobOn_segments (i : SegId) (s : State) : SameSegments s (startJobOn i s) := by
  intro j
  have e : (startJobOn i s).seg j =
      (s.modSeg i (fun g => { g with inStore := true, retry := 0, snapshot := g.lastSeq })).seg j := rfl
  rw [e]
  by_cases h : j = i
  · subst h; rw [State.seg_modSeg_same]; exact ⟨rfl, rfl, rfl, rfl, rfl⟩
  · rw [State.seg_modSeg_other s _ h]; exact Segment.SameLog.refl _

theorem startJob_segments (s : State) : SameSegments s (startJob s) := by
  simp only [startJob]
  split
  · exact fun i => Segment.SameLog.refl _
  · rename_i i rest _
    exact startJobOn_segments i { s with store.queue := rest }

theorem startNext_segments (test : Bool) (s : State) : SameSegments s (startNext test s) := by
  simp only [startNext]
  split
  · split
    · exact SameSegments.of_segs (by simp)
    · exact startJob_segments s
  · exact fun i => Segment.SameLog.refl _

theorem lineStoreTest_segments (s : State) : SameSegments s (lineStoreTest s) := SameSegments.of_segs (by simp)

theorem fetchArbiter_segments (s : State) : SameSegments s (fetchArbiter s) := SameSegments.of_segs (by simp)

/-! ### Channels -/

/-- The fetch arbiter changes one channel at most: its in-flight count rises by one. -/
theorem fetchArbiter_chan (s : State) (d : ChanId) :
    (fetchArbiter s).chan d = s.chan d ∨
      (s.eligible d = true ∧ (fetchArbiter s).cc.fetch = some d ∧
        (fetchArbiter s).chan d = { s.chan d with inFlight := (s.chan d).inFlight + 1 }) := by
  simp only [fetchArbiter]
  split
  · exact Or.inl rfl
  · split
    · exact Or.inl rfl
    · rename_i c hc
      by_cases h : d = c
      · subst h
        right
        refine ⟨by simpa using List.find?_some hc, by simp, ?_⟩
        exact State.chan_setChan_same _ _ _
      · left
        exact State.chan_setChan_other _ _ h

/-- The in-flight counts after the arbiter, exactly (R157, R158). -/
theorem fetchArbiter_channels (p : ChanId → Prop) (s : State) : SameChannelsBut p s (fetchArbiter s) := by
  intro d _
  cases hf : s.cc.fetch with
  | some c =>
    have e : fetchArbiter s = s := by simp [fetchArbiter, hf]
    rw [e, fetchBegun_same d rfl]
    rfl
  | none =>
    simp only [fetchBegun, hf, fetchArbiter]
    split
    · rename_i hc
      simp [hf]
    · rename_i c hc
      by_cases h : d = c
      · subst h
        simpa [State.chan] using State.chan_setChan_same { s with cc.fetch := some d, cc.lastServed := d } d
          { s.chan d with inFlight := (s.chan d).inFlight + 1 }
      · have h' : ¬ c = d := fun e => h e.symm
        simpa [State.chan, h'] using State.chan_setChan_other { s with cc.fetch := some c, cc.lastServed := c }
          { s.chan c with inFlight := (s.chan c).inFlight + 1 } h

theorem startNext_chan (test : Bool) (s : State) (d : ChanId) : (startNext test s).chan d = s.chan d := by
  simp [State.chan]

theorem lineStoreTest_chan (s : State) (d : ChanId) : (lineStoreTest s).chan d = s.chan d := by
  simp [State.chan]

/-- What settle may do to one channel. -/
theorem settle_chan (test : Bool) (s : State) (d : ChanId) :
    (settle test s).chan d = s.chan d ∨
      ((s.chan d).exec = none ∧ (s.chan d).state = .active ∧ 0 < (s.chan d).pendingRecords ∧
        (settle test s).chan d = { s.chan d with inFlight := (s.chan d).inFlight + 1 }) := by
  simp only [settle]
  rcases fetchArbiter_chan (startNext test (lineStoreTest s)) d with h | h
  · left; rw [h, startNext_chan, lineStoreTest_chan]
  · right
    have he := h.1
    simp only [State.eligible, startNext_chan, lineStoreTest_chan, Bool.and_eq_true, decide_eq_true_eq,
      beq_iff_eq, Option.isNone_iff_eq_none] at he
    exact ⟨he.2, he.1.1.1.2, he.1.1.2, by rw [h.2.2, startNext_chan, lineStoreTest_chan]⟩

/-- settle leaves a channel that executes a request as it is. -/
theorem settle_chan_busy (test : Bool) {s : State} {d : ChanId} (h : (s.chan d).exec ≠ none) :
    (settle test s).chan d = s.chan d := by
  rcases settle_chan test s d with e | e
  · exact e
  · exact absurd e.1 h

/-- settle leaves a channel that is not ACTIVE as it is. -/
theorem settle_chan_inactive (test : Bool) {s : State} {d : ChanId} (h : (s.chan d).state ≠ .active) :
    (settle test s).chan d = s.chan d := by
  rcases settle_chan test s d with e | e
  · exact e
  · exact absurd e.2.1 h

/-! ### The law of a stopped oscillator -/

/-- An operation that leaves the oscillator status, clock-valid and the stop record keeps the law (R114). -/
theorem Clock.StopHolds.of_eq {k u : Clock} (h : k.StopHolds) (running : u.oscRunning = k.oscRunning)
    (valid : u.clockValid = k.clockValid) (recorded : u.stopRecorded = k.stopRecorded) : u.StopHolds := by
  unfold Clock.StopHolds
  rw [running, valid, recorded]
  exact h

/-- The application of a SET_CLOCK keeps the law: it sets clock-valid only while the oscillator runs (R112). -/
theorem Clock.StopHolds.load {k : Clock} (h : k.StopHolds) (t : Transfer) : (k.load t).StopHolds :=
  fun e => ⟨e, (h e).2⟩

/-- The decision at recovery keeps the law (R116, log entry 32). -/
theorem Clock.StopHolds.decided {k : Clock} (h : k.StopHolds) (m : Option Stamp) (valid : Bool) :
    (k.decided m valid).StopHolds := by
  unfold Clock.StopHolds at *
  unfold Clock.decided
  (repeat' split) <;> simp_all

/-- At entry to RECALL the oscillator counts as RUNNING (R115). -/
theorem Clock.atRecall_stopHolds (k : Clock) : k.atRecall.StopHolds := fun e => by simp [Clock.atRecall] at e

end Sys2Proof.Machine
end

