-- ==== Sys2Proof/Laws/Completions.lean ====
section
/-! SUPPORT. What it does that a completion takes a slot and that an executing request ends: one lemma per shared operation.
-/
namespace Sys2Proof.Machine

theorem map_modifyFirst {α β : Type} (p : α → Bool) (f : α → α) (g : α → β) (h : ∀ x, g (f x) = g x) (l : List α) :
    (modifyFirst p f l).map g = l.map g := by
  induction l with
  | nil => rfl
  | cons x xs ih =>
    simp only [modifyFirst]
    split <;> simp [h, ih]

/-- Beginning a record write changes no slot that is taken. -/
@[simp] theorem beginRecordWrite_taken (c : ChanId) (s : State) : (beginRecordWrite c s).taken = s.taken := by
  simp only [beginRecordWrite]
  split
  · split
    · exact map_modifyFirst _ (fun p : Post => { p with phase := .record }) _ (fun _ => rfl) _
    · rfl
  · rfl

theorem taken_of_posts {s u : State} (h : u.cc.posts = s.cc.posts) : u.taken = s.taken := by simp [State.taken, h]

@[simp] theorem beginRecordWrite_chan (c d : ChanId) (s : State) : (beginRecordWrite c s).chan d = s.chan d := by
  simp [State.chan]

/-- A completion takes the next slot of a live channel (R160). -/
theorem takeSlot_taken {c : ChanId} {s : State} (x : Completion) (h : (s.chan c).live = true) :
    (takeSlot c x s).taken = s.taken ++ [(c, (s.chan c).cplNext, x)] := by
  simp only [takeSlot, h, if_true, beginRecordWrite_taken]
  simp [State.taken, State.setChan]

theorem takeSlot_chan_same {c : ChanId} {s : State} (x : Completion) (h : (s.chan c).live = true) :
    (takeSlot c x s).chan c = { s.chan c with cplNext := ((s.chan c).cplNext + 1) % (s.chan c).cplSlots,
                                              inFlight := (s.chan c).inFlight - 1 } := by
  simp only [takeSlot, h, if_true, beginRecordWrite_chan]
  exact State.chan_setChan_same _ _ _

theorem takeSlot_chan_other {c d : ChanId} (x : Completion) (s : State) (h : d ≠ c) :
    (takeSlot c x s).chan d = s.chan d := by
  simp only [takeSlot]
  split
  · rw [beginRecordWrite_chan]; exact State.chan_setChan_other _ _ h
  · rfl

theorem takeSlot_not_live {c : ChanId} {s : State} (x : Completion) (h : (s.chan c).live = false) :
    takeSlot c x s = s := by simp [takeSlot, h]

theorem live_of_active {ch : Channel} (h : ch.state = .active) : ch.live = true := by simp [Channel.live, h]

/-- Handing a completion on an ACTIVE channel ends no drain. -/
theorem handCompletion_active {c : ChanId} {s : State} (x : Completion) (h : (s.chan c).state = .active) :
    handCompletion c x s = takeSlot c x s := by
  have : ((takeSlot c x s).chan c).state = .active := by rw [takeSlot_chan_same x (live_of_active h)]; exact h
  simp [handCompletion, drainCheck, this]

/-! ### The end of an execution -/

theorem dropHeld_none {c : ChanId} {s : State} (h : ∀ x ∈ s.budget.held, x.chan ≠ c) : dropHeld c s = s := by
  simp only [dropHeld]
  split
  · rename_i hx
    obtain ⟨x, hm, he⟩ := List.any_eq_true.mp hx
    exact absurd (by simpa using he) (h x hm)
  · rfl

theorem dropHeld_held (c : ChanId) (s : State) :
    (dropHeld c s).budget.held = s.budget.held.filter (fun h => h.chan != c) := by
  simp only [dropHeld]
  split
  · simp
  · rename_i hx
    refine (List.filter_eq_self.mpr ?_).symm
    intro x hm
    simp only [List.any_eq_true, not_exists, not_and] at hx
    simpa using hx x hm

@[simp] theorem dropHeld_chan (c d : ChanId) (s : State) : (dropHeld c s).chan d = s.chan d := by
  simp [State.chan]

theorem endExecution_chan_same (c : ChanId) (s : State) :
    (endExecution c s).chan c = { s.chan c with exec := none } := by
  simp only [endExecution, dropHeld_chan]
  exact State.chan_modChan_same s c (fun ch => { ch with exec := none })

theorem endExecution_chan_other {c d : ChanId} (s : State) (h : d ≠ c) : (endExecution c s).chan d = s.chan d := by
  simp only [endExecution, dropHeld_chan]
  exact State.chan_modChan_other s (fun ch => { ch with exec := none }) h

/-- The end of an execution returns what the request holds or waits for. -/
theorem endExecution_holdings (c : ChanId) (s : State) : HoldingsReturned c s (endExecution c s) := by
  refine ⟨by simp [endExecution], by simp [endExecution], by simp [endExecution], by simp [endExecution],
    by simp [endExecution], by simp [endExecution, dropHeld_held], ?_⟩
  intro h
  have e : endExecution c s = _ := dropHeld_none (s := { s.modChan c (fun ch => { ch with exec := none }) with
    staging.buffers := s.staging.buffers.filter (fun b => b.chan != c),
    staging.waiters := s.staging.waiters.filter (fun x => x != c),
    journal.readBuffers := s.journal.readBuffers.filter (fun b => b.chan != c),
    journal.readWaiters := s.journal.readWaiters.filter (fun x => x != c),
    store.reservationWaiters := s.store.reservationWaiters.filter (fun x => x != c) }) h
  rw [e]
  exact ⟨rfl, rfl⟩

theorem HoldingsReturned.of_eq {c : ChanId} {s t u : State} (h : HoldingsReturned c s t)
    (h1 : u.staging = t.staging) (h2 : u.journal.readBuffers = t.journal.readBuffers)
    (h3 : u.journal.readWaiters = t.journal.readWaiters)
    (h4 : u.store.reservationWaiters = t.store.reservationWaiters) (h5 : u.budget = t.budget)
    (h6 : u.journal.full = t.journal.full) : HoldingsReturned c s u := by
  unfold HoldingsReturned at *
  rw [h1, h2, h3, h4, h5, h6]
  exact h

/-- The executing request of an ACTIVE channel completes (R159, R160). -/
theorem completeExec_completed {c : ChanId} {s : State} (x : Completion) (h : (s.chan c).state = .active) :
    (completeExec c x s).taken = s.taken ++ [(c, (s.chan c).cplNext, x)] ∧
      (completeExec c x s).chan c = { s.chan c with
        exec := none, cplNext := ((s.chan c).cplNext + 1) % (s.chan c).cplSlots,
        inFlight := (s.chan c).inFlight - 1 } ∧
      (∀ d, d ≠ c → (completeExec c x s).chan d = s.chan d) ∧ HoldingsReturned c s (completeExec c x s) := by
  have hc : ((endExecution c s).chan c).state = .active := by rw [endExecution_chan_same]; exact h
  have he : completeExec c x s = takeSlot c x (endExecution c s) := handCompletion_active x hc
  refine ⟨?_, ?_, ?_, ?_⟩
  · rw [he, takeSlot_taken x (live_of_active hc), taken_of_posts (s := s) (by simp), endExecution_chan_same]
  · rw [he, takeSlot_chan_same x (live_of_active hc), endExecution_chan_same]; rfl
  · intro d hd
    rw [he, takeSlot_chan_other x _ hd, endExecution_chan_other s hd]
  · rw [he]
    exact (endExecution_holdings c s).of_eq (by simp) (by simp) (by simp) (by simp) (by simp) (by simp)

/-- A completion leaves the journal, store jobs apart, and the other units as they were. -/
theorem completeExec_contents (c : ChanId) (x : Completion) (s : State) : SameContents s (completeExec c x s) := by
  refine ⟨⟨by simp, by simp, by simp, by simp, by simp, by simp, SameSegments.of_segs (by simp)⟩, ?_⟩
  unfold SameUnits
  simp

/-! ### The end of an event -/

theorem settle_segments (test : Bool) (s : State) : SameSegments s (settle test s) :=
  (lineStoreTest_segments s).trans ((startNext_segments test _).trans (fetchArbiter_segments _))

/-- What the end of an event may start leaves the journal and the other units as they are (log entry 12). -/
theorem settle_contents (test : Bool) (s : State) : SameContents s (settle test s) := by
  refine ⟨⟨by simp, by simp, by simp, by simp, by simp, by simp, settle_segments _ _⟩, ?_⟩
  unfold SameUnits
  simp

/-- The end of an event changes the in-flight count of the channel whose fetch it begins, and no other channel's. -/
theorem settle_channels (p : ChanId → Prop) (test : Bool) (s : State) : SameChannelsBut p s (settle test s) := by
  have a : SameChannelsBut p s (startNext test (lineStoreTest s)) := SameChannelsBut.of_chans (by simp) (by simp)
  exact a.trans (fetchArbiter_channels p _) (by simp)

theorem settle_taken (test : Bool) (s : State) : (settle test s).taken = s.taken := taken_of_posts (by simp)

/-- A command that ends with the completion of a channel's request completes it. -/
theorem completed_settle {c : ChanId} {s : State} (x : Completion) (test : Bool) (h : (s.chan c).state = .active) :
    Completed c x s (settle test (completeExec c x s)) := by
  obtain ⟨h1, h2, h3, h4⟩ := completeExec_completed x h
  refine ⟨by rw [settle_taken, h1], ?_, h4.of_eq (by simp) (by simp) (by simp) (by simp) (by simp) (by simp), ?_⟩
  · rw [settle_channels (fun _ => False) test (completeExec c x s) c (by simp), h2,
      fetchBegun_congr c (show (completeExec c x s).cc.fetch = s.cc.fetch by simp)]
  · intro d hd
    rw [settle_channels (fun _ => False) test (completeExec c x s) d (by simp), h3 d hd,
      fetchBegun_congr d (show (completeExec c x s).cc.fetch = s.cc.fetch by simp)]

theorem onlyCompletes_settle {c : ChanId} {s : State} (x : Completion) (test : Bool)
    (h : (s.chan c).state = .active) : OnlyCompletes c x s (.next (settle test (completeExec c x s))) :=
  ⟨_, rfl, completed_settle x test h, (completeExec_contents c x s).trans (settle_contents _ _)⟩

end Sys2Proof.Machine
end

