-- ==== Sys2Proof/Laws/Memory.lean ====
section
/-! SUPPORT. The memory operations keep the canonical form, and what a read returns after each of them.
-/
namespace Sys2Proof.Machine.Memory

theorem wf_nil : Memory.wf [] := by simp [Memory.wf]

/-- A filter of a canonical memory is canonical. -/
theorem wf_filter {m : Memory} (h : m.wf) (p : Host.Cell → Bool) : Memory.wf (m.filter p) :=
  ⟨h.1.filter p, fun c hc => h.2 c (List.mem_filter.mp hc).1⟩

theorem mem_insert {m : Memory} {a : Nat} {v : Byte} {c : Host.Cell} (h : c ∈ Memory.insert a v m) :
    c = (a, v) ∨ c ∈ m := by
  induction m with
  | nil => simpa [Memory.insert] using h
  | cons x xs ih =>
    obtain ⟨b, w⟩ := x
    unfold Memory.insert at h
    split_ifs at h with h1 h2
    · simpa using h
    · rcases List.mem_cons.mp h with h | h
      · exact .inl h
      · exact .inr (List.mem_cons_of_mem _ h)
    · rcases List.mem_cons.mp h with h | h
      · exact .inr (h ▸ List.mem_cons_self)
      · rcases ih h with h | h
        · exact .inl h
        · exact .inr (List.mem_cons_of_mem _ h)

theorem wf_insert {m : Memory} (h : m.wf) (a : Nat) {v : Byte} (hv : v ≠ 0) : Memory.wf (Memory.insert a v m) := by
  refine ⟨?_, fun c hc => ?_⟩
  · have hs := h.1
    clear h
    induction m with
    | nil => simp [Memory.insert]
    | cons x xs ih =>
      obtain ⟨b, w⟩ := x
      rw [List.pairwise_cons] at hs
      unfold Memory.insert
      split_ifs with h1 h2
      · refine List.pairwise_cons.mpr ⟨fun c hc => ?_, List.pairwise_cons.mpr hs⟩
        rcases List.mem_cons.mp hc with h | h
        · simpa [h] using h1
        · exact lt_trans h1 (hs.1 c h)
      · subst h2
        exact List.pairwise_cons.mpr ⟨fun c hc => hs.1 c hc, hs.2⟩
      · refine List.pairwise_cons.mpr ⟨fun c hc => ?_, ih hs.2⟩
        rcases mem_insert hc with h | h
        · simp only [h]; omega
        · exact hs.1 c h
  · rcases mem_insert hc with h' | h'
    · simpa [h'] using hv
    · exact h.2 c h'

theorem wf_write {m : Memory} (h : m.wf) (a : Nat) (v : Byte) : Memory.wf (m.write a v) := by
  unfold Memory.write
  split_ifs with hv
  · exact wf_filter h _
  · exact wf_insert h a hv

theorem wf_writeBytes {m : Memory} (h : m.wf) (a : Nat) (vs : List Byte) : Memory.wf (m.writeBytes a vs) := by
  induction vs generalizing m a with
  | nil => exact h
  | cons v vs ih => exact ih (wf_write h a v) (a + 1)

theorem wf_clear {m : Memory} (h : m.wf) (lo hi : Nat) : Memory.wf (m.clear lo hi) := wf_filter h _

theorem wf_copyRange {src dst : Memory} (hs : src.wf) (hd : dst.wf) (lo hi : Nat) :
    Memory.wf (Memory.copyRange src dst lo hi) := by
  unfold Memory.copyRange
  refine ⟨?_, fun c hc => ?_⟩
  · refine List.pairwise_append.mpr ⟨hd.1.filter _, List.pairwise_append.mpr
      ⟨hs.1.filter _, hd.1.filter _, ?_⟩, ?_⟩
    · intro a ha b hb
      simp only [List.mem_filter, Bool.and_eq_true, decide_eq_true_eq] at ha hb
      omega
    · intro a ha b hb
      simp only [List.mem_append, List.mem_filter, Bool.and_eq_true, decide_eq_true_eq] at ha hb
      omega
  · simp only [List.mem_append, List.mem_filter] at hc
    rcases hc with hc | hc | hc
    · exact hd.2 c hc.1
    · exact hs.2 c hc.1
    · exact hd.2 c hc.1

/-! ### Reads -/

@[simp] theorem read_nil (a : Nat) : Memory.read [] a = 0 := rfl

theorem read_insert_same (m : Memory) (a : Nat) (v : Byte) : Memory.read (Memory.insert a v m) a = v := by
  induction m with
  | nil => simp [Memory.insert, Memory.read]
  | cons x xs ih =>
    obtain ⟨b, w⟩ := x
    unfold Memory.insert
    split_ifs with h1 h2
    · simp [Memory.read]
    · simp [Memory.read]
    · simp [Memory.read, ih, Ne.symm h2]

theorem read_insert_other (m : Memory) {a b : Nat} (v : Byte) (h : b ≠ a) :
    Memory.read (Memory.insert a v m) b = Memory.read m b := by
  induction m with
  | nil => simp [Memory.insert, Memory.read, Ne.symm h]
  | cons x xs ih =>
    obtain ⟨c, w⟩ := x
    unfold Memory.insert
    split_ifs with h1 h2
    · simp [Memory.read, Ne.symm h]
    · subst h2; simp [Memory.read, Ne.symm h]
    · simp [Memory.read, ih]

theorem read_filter_ne (m : Memory) (a b : Nat) :
    Memory.read (m.filter (fun c => c.1 != a)) b = if b = a then 0 else Memory.read m b := by
  induction m with
  | nil => simp [Memory.read]
  | cons x xs ih =>
    obtain ⟨c, w⟩ := x
    by_cases hc : c = a
    · subst hc
      by_cases hb : b = c
      · subst hb; simpa [Memory.read] using ih
      · simpa [Memory.read, hb, Ne.symm hb] using ih
    · by_cases hb : b = a
      · subst hb
        simp only [if_true] at ih
        simpa [Memory.read, hc] using ih
      · simp only [hb, if_false] at ih
        simp [Memory.read, hc, hb, ih]

theorem read_write (m : Memory) (a : Nat) (v : Byte) (b : Nat) :
    Memory.read (m.write a v) b = if b = a then v else Memory.read m b := by
  unfold Memory.write
  split_ifs with hv hb hb
  · simp [read_filter_ne, hb, hv]
  · simp [read_filter_ne, hb]
  · subst hb; exact read_insert_same m b v
  · exact read_insert_other m v hb

/-- After writing bytes, an address inside the range reads its byte and any other reads as before. -/
theorem read_writeBytes (m : Memory) (a : Nat) (vs : List Byte) (b : Nat) :
    Memory.read (m.writeBytes a vs) b =
      if a ≤ b ∧ b < a + vs.length then vs.getD (b - a) 0 else Memory.read m b := by
  induction vs generalizing m a with
  | nil => simp [Memory.writeBytes]
  | cons v vs ih =>
    rw [Memory.writeBytes, ih, read_write, List.length_cons]
    by_cases h1 : b = a
    · subst h1
      have h2 : ¬(b + 1 ≤ b ∧ b < b + 1 + vs.length) := by omega
      have h3 : b ≤ b ∧ b < b + (vs.length + 1) := by omega
      rw [if_neg h2, if_pos h3]; simp
    · by_cases h2 : a + 1 ≤ b ∧ b < a + 1 + vs.length
      · have h3 : a ≤ b ∧ b < a + (vs.length + 1) := by omega
        have h4 : b - a = (b - (a + 1)) + 1 := by omega
        rw [if_pos h2, if_pos h3, h4]; simp
      · have h3 : ¬(a ≤ b ∧ b < a + (vs.length + 1)) := by omega
        rw [if_neg h2, if_neg h3, if_neg h1]

@[simp] theorem length_readBytes (m : Memory) (a n : Nat) : (m.readBytes a n).length = n := by
  induction n generalizing a with
  | zero => rfl
  | succ n ih => simp [Memory.readBytes, ih]

/-- A filter that keeps every cell at `b` keeps the read of `b`; one that drops them reads 0. -/
theorem read_filter (m : Memory) (p : Nat → Bool) (b : Nat) :
    Memory.read (m.filter (fun c => p c.1)) b = if p b then Memory.read m b else 0 := by
  induction m with
  | nil => simp [Memory.read]
  | cons x xs ih =>
    obtain ⟨c, w⟩ := x
    by_cases hc : p c <;> by_cases hb : c = b
    · subst hb; simp [Memory.read, hc]
    · simp only [List.filter_cons, hc, if_true, Memory.read, hb, if_false]; exact ih
    · subst hb; simp only [List.filter_cons, hc, Bool.false_eq_true, if_false] at ih ⊢; exact ih
    · simp only [List.filter_cons, hc, Memory.read, hb, Bool.false_eq_true, if_false]; exact ih

theorem read_clear (m : Memory) (lo hi b : Nat) :
    Memory.read (m.clear lo hi) b = if lo ≤ b ∧ b < hi then 0 else Memory.read m b := by
  have h := read_filter m (fun a => !(decide (lo ≤ a) && decide (a < hi))) b
  unfold Memory.clear
  rw [h]
  by_cases h1 : lo ≤ b <;> by_cases h2 : b < hi <;> simp [h1, h2]

theorem read_append_left (m n : Memory) {b : Nat} (h : ∀ c ∈ n, c.1 ≠ b) :
    Memory.read (m ++ n) b = Memory.read m b := by
  induction m with
  | nil =>
    rw [List.nil_append]
    induction n with
    | nil => rfl
    | cons x xs ih =>
      obtain ⟨c, w⟩ := x
      have h1 : c ≠ b := h (c, w) List.mem_cons_self
      have h2 := ih fun d hd => h d (List.mem_cons_of_mem _ hd)
      simp only [Memory.read, h1, if_false]
      exact h2
  | cons x xs ih =>
    obtain ⟨c, w⟩ := x
    simp only [List.cons_append, Memory.read, ih]

theorem read_append_right (m n : Memory) {b : Nat} (h : ∀ c ∈ m, c.1 ≠ b) :
    Memory.read (m ++ n) b = Memory.read n b := by
  induction m with
  | nil => rfl
  | cons x xs ih =>
    obtain ⟨c, w⟩ := x
    have h1 : c ≠ b := h (c, w) List.mem_cons_self
    simp only [List.cons_append, Memory.read, h1, if_false]
    exact ih fun d hd => h d (List.mem_cons_of_mem _ hd)

/-- After a copy of `lo ≤ a < hi`, an address inside the range reads as the source, any other as before. -/
theorem read_copyRange (src dst : Memory) (lo hi b : Nat) :
    Memory.read (Memory.copyRange src dst lo hi) b = if lo ≤ b ∧ b < hi then src.read b else dst.read b := by
  have h1 := read_filter dst (fun a => decide (a < lo)) b
  have h2 := read_filter src (fun a => decide (lo ≤ a) && decide (a < hi)) b
  have h3 := read_filter dst (fun a => decide (hi ≤ a) && decide (lo ≤ a)) b
  unfold Memory.copyRange
  by_cases hlo : b < lo
  · rw [read_append_left, h1]
    · have : ¬(lo ≤ b ∧ b < hi) := by omega
      simp [hlo, this]
    · intro c hc
      simp only [List.mem_append, List.mem_filter, Bool.and_eq_true, decide_eq_true_eq] at hc
      omega
  · rw [read_append_right]
    · by_cases hhi : b < hi
      · rw [read_append_left, h2]
        · have h4 : lo ≤ b ∧ b < hi := by omega
          simp [h4.1, h4.2]
        · intro c hc
          simp only [List.mem_filter, Bool.and_eq_true, decide_eq_true_eq] at hc
          omega
      · rw [read_append_right, h3]
        · have h4 : ¬(lo ≤ b ∧ b < hi) := by omega
          have h5 : hi ≤ b ∧ lo ≤ b := by omega
          simp [h5.1, h5.2]
        · intro c hc
          simp only [List.mem_filter, Bool.and_eq_true, decide_eq_true_eq] at hc
          omega
    · intro c hc
      simp only [List.mem_filter, decide_eq_true_eq] at hc
      omega

end Sys2Proof.Machine.Memory
end

