-- ==== Sys2Proof/Laws/Records.lean ====
section
/-! SUPPORT. Little-endian fields and the records made of them: lengths, and reading a field that was written.
-/
namespace Sys2Proof.Machine

@[simp] theorem length_leBytes (n v : Nat) : (leBytes n v).length = n := by
  induction n generalizing v with
  | zero => rfl
  | succ n ih => simp [leBytes, ih]

@[simp] theorem length_fitBytes (n : Nat) (b : List Byte) : (fitBytes n b).length = n := by simp [fitBytes]

@[simp] theorem length_stampBytes (t : Stamp) : (stampBytes t).length = 8 := by simp [stampBytes]

/-- The bytes of a value are read back as its low bytes. -/
theorem leValue_leBytes_mod (n v : Nat) : leValue (leBytes n v) = v % 256 ^ n := by
  induction n generalizing v with
  | zero => simp [leBytes, leValue, Nat.mod_one]
  | succ n ih =>
    have h : (BitVec.ofNat 8 v).toNat = v % 256 := BitVec.toNat_ofNat _ _
    rw [leBytes, leValue, ih, h, pow_succ', Nat.mod_mul]

/-- The bytes of a value that fits are read back as that value. -/
theorem leValue_leBytes (n v : Nat) (h : v < 256 ^ n) : leValue (leBytes n v) = v := by
  rw [leValue_leBytes_mod, Nat.mod_eq_of_lt h]

/-- A field behind another is found that much further on. -/
theorem fieldAt_skip (m v : Nat) (r : List Byte) (off n : Nat) (h : m ≤ off) :
    fieldAt (leBytes m v ++ r) off n = fieldAt r (off - m) n := by
  simp only [fieldAt]
  rw [List.drop_append, List.drop_eq_nil_of_le (by simpa using h), List.nil_append, length_leBytes]

/-- A field that stands first reads as the low bytes of its value. -/
theorem fieldAt_first_mod (n v : Nat) (r : List Byte) : fieldAt (leBytes n v ++ r) 0 n = v % 256 ^ n := by
  simp only [fieldAt, List.drop_zero]
  rw [List.take_left' (length_leBytes n v), leValue_leBytes_mod]

/-- Zero bytes read as zero at every place. -/
theorem fieldAt_zeros (k off n : Nat) : fieldAt (List.replicate k (0 : Byte)) off n = 0 := by
  have h : ∀ m, leValue (List.replicate m (0 : Byte)) = 0 := fun m => by
    induction m with
    | zero => rfl
    | succ m ih => rw [List.replicate_succ, leValue, ih]; rfl
  rw [fieldAt, List.drop_replicate, List.take_replicate, h]

/-- A field that stands first is read as written. -/
theorem fieldAt_first (n v : Nat) (r : List Byte) (h : v < 256 ^ n) : fieldAt (leBytes n v ++ r) 0 n = v := by
  simp only [fieldAt, List.drop_zero]
  rw [List.take_left' (length_leBytes n v), leValue_leBytes n v h]

/-- An entry's header takes 32 bytes, of which the last 4 are its check value. -/
theorem length_bodyBytes (h : Header) : h.bodyBytes.length = 28 := by simp [Header.bodyBytes]

@[simp] theorem length_headerBytes (h : Header) : h.bytes.length = 32 := by simp [Header.bytes, length_bodyBytes]

/-- The parts of the query snapshot and of the recovery report. -/
theorem length_snapshotJournal (s : State) : s.snapshotJournal.length = 32 := by
  simp only [State.snapshotJournal, List.length_append, length_leBytes]

theorem length_snapshotBudget (s : State) : s.snapshotBudget.length = 18 := by
  simp only [State.snapshotBudget, List.length_append, length_leBytes]

theorem length_snapshotCounts (s : State) : s.snapshotCounts.length = 14 := by
  simp only [State.snapshotCounts, List.length_append, length_leBytes]

theorem length_lossBytes (r : Report) : r.lossBytes.length = 16 := by
  simp only [Report.lossBytes, List.length_append, length_leBytes]

theorem length_countBytes (r : Report) : r.countBytes.length = 56 := by
  simp only [Report.countBytes, List.length_append, length_leBytes]

end Sys2Proof.Machine
end

