-- ==== Sys2Proof/Laws/Effects.lean ====
section
/-! SUPPORT. What single shared operations do: bytes written into a segment, VOID marks, an entry placed, the wait list's
endings, S, exposure, relief, faults, abandoned transfers, the alert list.
-/
namespace Sys2Proof.Machine

/-! ### Bytes -/

theorem readBytes_congr {m k : Memory} (a n : Nat) (h : ∀ x, a ≤ x → x < a + n → m.read x = k.read x) :
    m.readBytes a n = k.readBytes a n := by
  induction n generalizing a with
  | zero => rfl
  | succ n ih =>
    simp only [Memory.readBytes]
    rw [h a (Nat.le_refl a) (by omega), ih (a + 1) (fun x h1 h2 => h x (by omega) (by omega))]

/-- Bytes just written read back. -/
theorem readBytes_writeBytes (m : Memory) (a : Nat) (vs : List Byte) :
    (m.writeBytes a vs).readBytes a vs.length = vs := by
  induction vs generalizing m a with
  | nil => rfl
  | cons v vs ih =>
    rw [Memory.writeBytes, List.length_cons, Memory.readBytes, ih, Memory.read_writeBytes, Memory.read_write]
    have : ¬(a + 1 ≤ a ∧ a < a + 1 + vs.length) := by omega
    rw [if_neg this, if_pos rfl]

/-- Bytes outside a write read as before. -/
theorem readBytes_writeBytes_apart (m : Memory) {a b n : Nat} (vs : List Byte)
    (h : b + n ≤ a ∨ a + vs.length ≤ b) : (m.writeBytes a vs).readBytes b n = m.readBytes b n := by
  refine readBytes_congr b n (fun x h1 h2 => ?_)
  have : ¬(a ≤ x ∧ x < a + vs.length) := by omega
  rw [Memory.read_writeBytes, if_neg this]

/-! ### Writes into a segment -/

@[simp] theorem writeSegment_sram (i : SegId) (off : Nat) (bytes : List Byte) (s : State) :
    (writeSegment i off bytes s).journal.sram = s.journal.sram.writeBytes (segBase i + off) bytes := by
  simp [writeSegment]

theorem markVoid_read (s : State) (e : SegId × Nat) (a : Nat) :
    (markVoid s e).journal.sram.read a = if a = segBase e.1 + (e.2 + 2) then 2 else s.journal.sram.read a := by
  simp only [markVoid, writeSegment_sram, Memory.writeBytes, Memory.read_write]
  rfl

/-- After VOID marks, a marked byte reads 2 and any other byte of SRAM reads as before (R19, R20). -/
theorem markVoids_read (l : List (SegId × Nat)) (s : State) (a : Nat) :
    ((∃ e ∈ l, a = segBase e.1 + (e.2 + 2)) → (l.foldl markVoid s).journal.sram.read a = 2) ∧
      ((∀ e ∈ l, a ≠ segBase e.1 + (e.2 + 2)) → (l.foldl markVoid s).journal.sram.read a = s.journal.sram.read a) := by
  induction l generalizing s with
  | nil => simp
  | cons x xs ih =>
    have h := ih (markVoid s x)
    by_cases hx : ∃ e ∈ xs, a = segBase e.1 + (e.2 + 2)
    · refine ⟨fun _ => h.1 hx, fun hall => ?_⟩
      obtain ⟨e, he, hea⟩ := hx
      exact absurd hea (hall e (List.mem_cons_of_mem _ he))
    · have h2 : ∀ e ∈ xs, a ≠ segBase e.1 + (e.2 + 2) := fun e he hea => hx ⟨e, he, hea⟩
      have h3 := h.2 h2
      rw [markVoid_read] at h3
      refine ⟨fun ⟨e, he, hea⟩ => ?_, fun hall => ?_⟩
      · rcases List.mem_cons.mp he with rfl | he
        · rw [if_pos hea] at h3; exact h3
        · exact absurd hea (h2 e he)
      · rw [if_neg (hall x List.mem_cons_self)] at h3; exact h3

/-- An entry's bytes stand where they were placed, and no other byte of SRAM changed (R33, R34). -/
theorem placeEntry_sram (i : SegId) (h : Header) (payload : List Byte) (s : State) :
    (placeEntry i h payload s).journal.sram.readBytes (segBase i + (s.seg i).fill) 32 = h.bytes ∧
      (placeEntry i h payload s).journal.sram.readBytes (segBase i + (s.seg i).fill + 32) payload.length = payload ∧
      SramSameOutside (segBase i + (s.seg i).fill) (32 + payload.length) s (placeEntry i h payload s) := by
  have e : (placeEntry i h payload s).journal.sram =
      (s.journal.sram.writeBytes (segBase i + ((s.seg i).fill + 32)) payload).writeBytes
        (segBase i + (s.seg i).fill) h.bytes := by
    simp [placeEntry]
  have hl : h.bytes.length = 32 := length_headerBytes h
  rw [e]
  refine ⟨?_, ?_, ?_⟩
  · rw [← hl]; exact readBytes_writeBytes _ _ _
  · rw [readBytes_writeBytes_apart _ _ (Or.inr (by omega)), Nat.add_assoc]
    exact readBytes_writeBytes _ _ _
  · intro x hx
    have h1 : ¬(segBase i + (s.seg i).fill ≤ x ∧ x < segBase i + (s.seg i).fill + h.bytes.length) := by omega
    have h2 : ¬(segBase i + ((s.seg i).fill + 32) ≤ x ∧
        x < segBase i + ((s.seg i).fill + 32) + payload.length) := by omega
    rw [e, Memory.read_writeBytes, if_neg h1, Memory.read_writeBytes, if_neg h2]

/-- The record of the segment an entry is placed in, and the others' (R11, R34). -/
theorem placeEntry_seg (i : SegId) (h : Header) (payload : List Byte) (s : State) :
    (placeEntry i h payload s).seg i = { s.seg i with
        fill := (s.seg i).fill + footprint h.length, lastSeq := some h.seq,
        firstSeq := some ((s.seg i).firstSeq.getD h.seq), unstoredFrom := some ((s.seg i).unstoredFrom.getD h.seq),
        state := if (s.seg i).fill + footprint h.length = 4096 then .full else (s.seg i).state } ∧
      ∀ j, j ≠ i → (placeEntry i h payload s).seg j = s.seg j := by
  have hs : ∀ j, (writeSegment i (s.seg i).fill h.bytes
      (writeSegment i ((s.seg i).fill + 32) payload s)).seg j = s.seg j := by
    intro j; simp [State.seg]
  refine ⟨?_, fun j hj => ?_⟩
  · simp only [placeEntry]
    rw [State.seg_modSeg_same, hs]
  · simp only [placeEntry]
    rw [State.seg_modSeg_other _ _ hj, hs]

/-- What a commit records: the entry stands in its segment, and nothing else of the journal has changed (R33). -/
theorem recordEntry_placed (i : SegId) (c : ChanId) (r : Request) (h : Header) (payload : List Byte) (s : State) :
    Placed i h payload s (recordEntry i c r h payload s) := by
  have hb : ∀ j, (takeSeq s).seg j = s.seg j := fun j => by simp [State.seg]
  have h1 := placeEntry_sram i h payload (takeSeq s)
  have h2 := placeEntry_seg i h payload (takeSeq s)
  rw [hb] at h1 h2
  have e1 : (recordEntry i c r h payload s).journal.sram = (placeEntry i h payload (takeSeq s)).journal.sram := by
    simp [recordEntry]
  have e2 : ∀ j, (recordEntry i c r h payload s).seg j = (placeEntry i h payload (takeSeq s)).seg j := fun j => by
    simp [recordEntry, State.seg]
  refine ⟨by rw [e1]; exact h1.1, by rw [e1]; exact h1.2.1, fun x hx => ?_, ?_, fun j hj => ?_, by simp, by simp,
    by simp, by simp, ?_⟩
  · rw [e1, h1.2.2 x hx]; simp
  · rw [e2, h2.1]; exact Segment.SameLog.refl _
  · rw [e2, h2.2 j hj, hb]; exact Segment.SameLog.refl _
  · simp [recordEntry, takeSeq]

theorem Placed.trans {i : SegId} {h : Header} {payload : List Byte} {s t u : State} (a : Placed i h payload s t)
    (b : SameLog t u) : Placed i h payload s u := by
  obtain ⟨a1, a2, a3, a4, a5, a6, a7, a8, a9, a10⟩ := a
  obtain ⟨b1, b2, b3, b4, b5, b6, b7⟩ := b
  refine ⟨by rw [b1]; exact a1, by rw [b1]; exact a2, fun x hx => by rw [b1]; exact a3 x hx, a4.trans (b7 i),
    fun j hj => (a5 j hj).trans (b7 j), b2.trans a6, b4.trans a7, b5.trans a8, b6.trans a9, b3.trans a10⟩

/-! ### The wait list and S -/

/-- Completing a record takes slots at the end of what has been taken, and no more. -/
theorem takeSlot_taken_append (c : ChanId) (x : Completion) (s : State) :
    ∃ more, (takeSlot c x s).taken = s.taken ++ more := by
  by_cases h : (s.chan c).live = true
  · exact ⟨_, takeSlot_taken x h⟩
  · exact ⟨[], by rw [takeSlot_not_live x (by simpa using h), List.append_nil]⟩

theorem coalesceDetached_taken (c : ChanId) (s : State) : (coalesceDetached c s).taken = s.taken :=
  taken_of_posts (by simp)

/-- The interrupt of a completion whose channel had become CLOSED before it was posted (R162). -/
theorem coalesceDetached_out {c : ChanId} {s : State} {p : Post} {d : Detached} (h : s.firstPost c = some p)
    (hd : p.detached = some d) : coalesceDetached c s = s.emit (.interrupt d.vector) := by
  simp [coalesceDetached, h, hd]

theorem detachPosts_taken (c : ChanId) (s : State) : (detachPosts c s).taken = s.taken := by
  simp only [State.taken, detachPosts, List.map_map]
  refine List.map_congr_left (fun p _ => ?_)
  simp only [Function.comp]
  split <;> rfl

theorem closeDrained_taken_append (c : ChanId) (s : State) :
    ∃ more, (closeDrained c s).taken = s.taken ++ more := by
  have key : ∀ t : State, t.cc.posts = s.cc.posts →
      ((detachPosts c t).setChan c Channel.closed).taken = s.taken := fun t ht => by
    rw [show ((detachPosts c t).setChan c Channel.closed).taken = (detachPosts c t).taken from rfl,
      detachPosts_taken]
    exact taken_of_posts ht
  simp only [closeDrained]
  split
  · obtain ⟨more, h⟩ := takeSlot_taken_append 0 _ _
    exact ⟨more, by rw [h, key _ (by split <;> simp)]⟩
  · exact ⟨[], by rw [List.append_nil]; exact key _ (by split <;> simp)⟩

theorem drainCheck_taken_append (c : ChanId) (s : State) : ∃ more, (drainCheck c s).taken = s.taken ++ more := by
  simp only [drainCheck]
  split
  · exact closeDrained_taken_append c s
  · exact ⟨[], (List.append_nil _).symm⟩

theorem handCompletion_taken_append (c : ChanId) (x : Completion) (s : State) :
    ∃ more, (handCompletion c x s).taken = s.taken ++ more := by
  obtain ⟨m1, h1⟩ := takeSlot_taken_append c x s
  obtain ⟨m2, h2⟩ := drainCheck_taken_append c (takeSlot c x s)
  exact ⟨m1 ++ m2, by rw [handCompletion, h2, h1, List.append_assoc]⟩

/-- A fold of steps that only add at the end of what has been taken only adds there. -/
theorem foldl_taken_append {β : Type} (f : State → β → State) (h : ∀ s x, ∃ more, (f s x).taken = s.taken ++ more)
    (l : List β) (s : State) : ∃ more, (l.foldl f s).taken = s.taken ++ more := by
  induction l generalizing s with
  | nil => exact ⟨[], (List.append_nil _).symm⟩
  | cons x xs ih =>
    obtain ⟨m1, h1⟩ := h s x
    obtain ⟨m2, h2⟩ := ih (f s x)
    exact ⟨m1 ++ m2, by rw [List.foldl_cons, h2, h1, List.append_assoc]⟩

theorem finishWaiters_taken_append (p : Waiter → Bool) (status : Status) (s : State) :
    ∃ more, (finishWaiters p status s).taken = s.taken ++ more :=
  foldl_taken_append (completeWaiter status) (fun s w => handCompletion_taken_append w.chan _ s) _
    { s with store.waiting := s.store.waiting.filter (fun w => !p w) }

/-- The records that end leave the wait list; the others keep their order (R83, R85). -/
theorem finishWaiters_waiting (p : Waiter → Bool) (status : Status) (s : State) :
    (finishWaiters p status s).store.waiting = s.store.waiting.filter (fun w => !p w) :=
  foldl_keeps (fun s => s.store.waiting) (completeWaiter status) (fun s w => by simp [completeWaiter]) _ _

theorem storedThroughNow_congr {s t : State} (h1 : t.journal.segs = s.journal.segs)
    (h2 : t.journal.nextSeq = s.journal.nextSeq) : t.storedThroughNow = s.storedThroughNow := by
  simp [State.storedThroughNow, State.lowestUnstored, h1, h2]

/-- S takes the value R82 gives it. -/
theorem recomputeS_storedThrough (s : State) : (recomputeS s).store.storedThrough = s.storedThroughNow := by
  simp only [recomputeS]
  split <;> simp

/-- A rise of S ends exactly the records whose targets it covers (R83). -/
theorem recomputeS_waiting (s : State) :
    (recomputeS s).store.waiting =
      if s.store.storedThrough < s.storedThroughNow then
        s.store.waiting.filter (fun w => !decide (w.target ≤ s.storedThroughNow))
      else s.store.waiting := by
  simp only [recomputeS]
  split
  · rw [finishWaiters_waiting]
  · rfl

/-! ### Release -/

theorem freeSegment_seg (i j : SegId) (s : State) :
    (freeSegment i s).seg j = if j = i then Segment.freeForm else s.seg j := by
  by_cases h : j = i
  · subst h; rw [if_pos rfl]; exact State.seg_setSeg_same s j _
  · rw [if_neg h]; exact State.seg_setSeg_other s _ h

theorem retireSegment_seg (i j : SegId) (s : State) :
    (retireSegment i s).seg j = if j = i then { Segment.freeForm with state := .retired } else s.seg j := by
  by_cases h : j = i
  · subst h; rw [if_pos rfl]; exact State.seg_setSeg_same s j _
  · rw [if_neg h]; exact State.seg_setSeg_other s _ h

theorem releaseMember_seg (s : State) (i j : SegId) :
    (releaseMember s i).seg j = if j = i then (s.seg i).released else s.seg j := by
  have hset : ∀ (t : State) (x : Segment), t.journal.segs = s.journal.segs →
      (t.setSeg i x).seg j = if j = i then x else s.seg j := fun t x ht => by
    by_cases h : j = i
    · subst h; rw [if_pos rfl]; exact State.seg_setSeg_same t j x
    · rw [if_neg h, State.seg_setSeg_other t x h]; simp [State.seg, ht]
  have hkeep : s.seg j = if j = i then s.seg i else s.seg j := by split <;> simp_all
  cases hst : (s.seg i).state <;> simp only [releaseMember, Segment.released, hst]
  · exact hkeep
  · split
    · exact hkeep
    · exact hset _ _ rfl
  · split
    · exact hset _ _ rfl
    · exact freeSegment_seg i j s
  · exact hkeep
  · exact retireSegment_seg i j s
  · exact hkeep

theorem releaseMember_chain (s : State) (i : SegId) :
    (releaseMember s i).journal.chain = s.journal.chain.filter (fun j => !(j == i && (s.seg i).leavesChain)) := by
  cases hst : (s.seg i).state <;> cases hin : (s.seg i).inStore <;>
    simp [releaseMember, Segment.leavesChain, hst, hin, freeSegment, retireSegment, bne]

/-- A record that has been released once stays as it is at a second release. -/
theorem released_released (g : Segment) : g.released.released = g.released := by
  cases hst : g.state <;> cases hin : g.inStore <;> simp [Segment.released, hst, hin, Segment.freeForm]

/-- The records after the covered members have been released (R97). -/
theorem releaseMembers_seg (l : List SegId) (s : State) (j : SegId) :
    (l.foldl releaseMember s).seg j = if j ∈ l then (s.seg j).released else s.seg j := by
  induction l generalizing s with
  | nil => simp
  | cons x xs ih =>
    rw [List.foldl_cons, ih, releaseMember_seg]
    by_cases hx : j = x
    · subst hx; simp [released_released]
    · simp [hx]

/-- The chain after the covered members have been released (R97, R102). -/
theorem releaseMembers_chain (l : List SegId) (s : State) :
    (l.foldl releaseMember s).journal.chain =
      s.journal.chain.filter (fun j => !(l.contains j && (s.seg j).leavesChain)) := by
  induction l generalizing s with
  | nil => simp
  | cons x xs ih =>
    rw [List.foldl_cons, ih, releaseMember_chain, List.filter_filter]
    refine List.filter_congr (fun j _ => ?_)
    rw [releaseMember_seg]
    by_cases hx : j = x
    · subst hx
      have hleft : (s.seg j).leavesChain = false → (s.seg j).released.leavesChain = false := by
        cases hst : (s.seg j).state <;> cases hin : (s.seg j).inStore <;>
          simp [Segment.released, Segment.leavesChain, hst, hin]
      cases hl : (s.seg j).leavesChain
      · simp [hleft hl]
      · simp
    · simp [hx]

/-! ### Exposure -/

/-- After its evaluation the exposure state says whether D is above B (R66, R67). -/
theorem evalExposureBut_exposed (lost : Waiter → Bool) {s : State} (h : s.budgetLive = true) :
    (evalExposureBut lost s).budget.exposed = decide (s.budget.b < s.dirtyCount) := by
  simp only [evalExposureBut, h, if_true]
  by_cases he : s.budget.exposed = true <;> by_cases hd : s.dirtyCount ≤ s.budget.b
  · simp [he, hd, Nat.not_lt.mpr hd]
  · simp [he, hd, Nat.lt_of_not_le hd]
  · simp [he, Nat.not_lt.mpr hd]
  · simp [he, Nat.lt_of_not_le hd]

/-- The end of exposure ends exactly the APPEND_EXPOSED records whose entries are not lost (R39, R67). -/
theorem evalExposureBut_waiting (lost : Waiter → Bool) {s : State} (h : s.budgetLive = true) :
    (evalExposureBut lost s).store.waiting =
      if s.budget.exposed = true ∧ s.dirtyCount ≤ s.budget.b then
        s.store.waiting.filter (fun w => !(w.kind == .appendExposed && !lost w))
      else s.store.waiting := by
  simp only [evalExposureBut, h, if_true]
  by_cases he : s.budget.exposed = true <;> by_cases hd : s.dirtyCount ≤ s.budget.b
  · simp only [he, hd, and_self, if_true, finishWaiters_waiting]
    simp
  · simp [he, hd]
  all_goals
    simp only [he, false_and, if_false, Bool.false_eq_true]
    split <;> simp

/-! ### The close of the OPEN segment by a commit (R15, R98) -/

theorem closeOpen_none {s : State} (h : s.openSegment = none) : closeOpen s = s := by simp [closeOpen, h]

/-- A segment that no release covers becomes FULL and is queued. -/
theorem closeOpen_full {s : State} {i : SegId} (h : s.openSegment = some i)
    (hc : (s.seg i).coveredBy s.journal.head = false) :
    closeOpen s =
      queueSeg i (State.modSeg { s with store.idleTimer := none } i (fun g => { g with state := .full })) := by
  simp [closeOpen, h, hc]

/-- A covered segment in store becomes FREEING. -/
theorem closeOpen_freeing {s : State} {i : SegId} (h : s.openSegment = some i)
    (hc : (s.seg i).coveredBy s.journal.head = true) (hs : (s.seg i).inStore = true) :
    closeOpen s = State.modSeg { s with store.idleTimer := none } i (fun g => { g with state := .freeing }) := by
  simp [closeOpen, h, hc, hs]

/-- A covered dirty segment with no store in flight becomes FREE, and S is recomputed (R82). -/
theorem closeOpen_freeDirty {s : State} {i : SegId} (h : s.openSegment = some i)
    (hc : (s.seg i).coveredBy s.journal.head = true) (hs : (s.seg i).inStore = false)
    (hd : (s.seg i).dirty = true) :
    closeOpen s = recomputeS (freeSegment i { s with store.idleTimer := none }) := by
  simp [closeOpen, h, hc, hs, hd]

/-- A covered clean segment becomes FREE, and S stays as it is (R82). -/
theorem closeOpen_freeClean {s : State} {i : SegId} (h : s.openSegment = some i)
    (hc : (s.seg i).coveredBy s.journal.head = true) (hs : (s.seg i).inStore = false)
    (hd : (s.seg i).dirty = false) : closeOpen s = freeSegment i { s with store.idleTimer := none } := by
  simp [closeOpen, h, hc, hs, hd]

/-! ### Relief and retirement with no request held -/

theorem grantRun_none_held {s : State} (h : s.budget.held = []) : grantRun s = s := by
  simp [grantRun, h, grantLoop]

theorem onFreed_none_held {s : State} (h : s.budget.held = []) : onFreed s = s := by
  simp [onFreed, grantRun_none_held h]

/-- A report that D has fallen, with no request held: exposure, then pressure. -/
theorem onReliefBut_none_held (lost : Waiter → Bool) {s : State} (h : s.budget.held = [])
    (hb : s.budgetLive = true) : onReliefBut lost s = recomputePressure (evalExposureBut lost s) := by
  simp only [onReliefBut, hb, if_true]
  exact grantRun_none_held (by simpa using h)

theorem onReliefBut_not_live (lost : Waiter → Bool) {s : State} (hb : s.budgetLive = false) :
    onReliefBut lost s = s := by
  simp [onReliefBut, hb]

/-- A report that D has fallen starts no hold: the held set of a state that holds no request stays empty. -/
theorem onReliefBut_held_nil (lost : Waiter → Bool) {s : State} (h : s.budget.held = []) :
    (onReliefBut lost s).budget.held = [] := by
  cases hb : s.budgetLive
  · rw [onReliefBut_not_live lost hb]; exact h
  · rw [onReliefBut_none_held lost h hb]; simpa using h

/-- The reports of a release, with no request held: the reports of the falls of D alone. -/
theorem reportRelief_none_held (falls freed : Nat) {s : State} (h : s.budget.held = []) :
    reportRelief falls freed s = (List.range falls).foldl (fun s (_ : Nat) => onRelief s) s := by
  have hf : ∀ (l : List Nat) (t : State), t.budget.held = [] →
      (l.foldl (fun s (_ : Nat) => onRelief s) t).budget.held = [] := by
    intro l
    induction l with
    | nil => exact fun t ht => ht
    | cons k l ih => exact fun t ht => ih _ (onReliefBut_held_nil _ ht)
  have hg : ∀ (l : List Nat) (t : State), t.budget.held = [] → l.foldl (fun s _ => onFreed s) t = t := by
    intro l
    induction l with
    | nil => exact fun t _ => rfl
    | cons k l ih => intro t ht; rw [List.foldl_cons, onFreed_none_held ht]; exact ih t ht
  exact hg _ _ (hf _ _ h)

/-- The reports of retired segments change neither the journal nor S. -/
theorem reportRetired_keeps (l : List (SegId × Segment)) (s : State) :
    (reportRetired l s).journal = s.journal ∧ (reportRetired l s).store.storedThrough = s.store.storedThrough ∧
      (reportRetired l s).txns = s.txns ∧ (reportRetired l s).store.op = s.store.op :=
  ⟨foldl_keeps (fun s => s.journal) _ (fun s x => by simp [retiredAlert]) l s,
    foldl_keeps (fun s => s.store.storedThrough) _ (fun s x => by simp [retiredAlert]) l s,
    foldl_keeps (fun s => s.txns) _ (fun s x => by simp [retiredAlert]) l s,
    foldl_keeps (fun s => s.store.op) _ (fun s x => by simp [retiredAlert]) l s⟩

/-! ### Channel faults -/

theorem dropWork_chan_same (c : ChanId) (s : State) : (dropWork c s).chan c = { s.chan c with exec := none } := by
  have : (dropWork c s).chan c = (endExecution c s).chan c := by simp [dropWork, State.chan]
  rw [this, endExecution_chan_same]

/-- The record of a channel as its fault begins, with no close pending (R164). -/
theorem beginFault_chan_same (c : ChanId) (reason : FaultReason) (s : State)
    (hp : (s.chan c).pendingClose = none) :
    (beginFault c reason s).chan c = { s.chan c with
      state := .faulted, faultReason := some reason, exec := none, inFlight := 0,
      cplNext := (s.chan c).published } := by
  have h0 : (dropWrites c reason s).chan c = s.chan c := by simp [State.chan]
  have h1 := State.chan_modChan_same (dropWrites c reason s) c
    (fun ch => { ch with state := .faulted, faultReason := some reason })
  have h2 := dropWork_chan_same c
    ((dropWrites c reason s).modChan c (fun ch => { ch with state := .faulted, faultReason := some reason }))
  have h3 := State.chan_modChan_same
    (dropWork c ((dropWrites c reason s).modChan c
      (fun ch => { ch with state := .faulted, faultReason := some reason }))) c
    (fun ch => { ch with inFlight := 0, cplNext := ch.published })
  rw [h2, h1, h0] at h3
  simp only [beginFault]
  split
  · simp only [controlFault, State.chan, State.getElem_buildChans]
    simp only [State.chan] at h3 hp ⊢
    rw [h3, hp]
  · rw [h3]

/-! ### Abandoned transfers -/

/-- Host writes that stop keep their addresses. -/
theorem cutWrites_addresses (free : Nat) (l : List (HostAddr × Nat)) :
    (cutWrites free l).map Prod.fst = l.map Prod.fst := by
  refine List.ext_getElem (by simp [cutWrites]) (fun n h1 h2 => ?_)
  simp [cutWrites]

/-- A host write stops at or below the bytes it may have sent. -/
theorem cutWrites_le (free : Nat) (l : List (HostAddr × Nat)) : ∀ x ∈ (cutWrites free l).zip l, x.1.2 ≤ x.2.2 := by
  intro x hx
  obtain ⟨n, hn, rfl⟩ := List.getElem_of_mem hx
  simp [cutWrites]

/-- Every host write in progress is cut at its own address. -/
theorem writeCuts_addresses (s : State) : s.writeCuts.map Prod.fst = s.hostWrites.map Prod.fst :=
  cutWrites_addresses _ _

/-- A host write stops at or below the bytes it may have sent (R119). -/
theorem writeCuts_le (s : State) : ∀ x ∈ s.writeCuts.zip s.hostWrites, x.1.2 ≤ x.2.2 := cutWrites_le _ _

/-- What a fault does with the host writes it drops: nothing when there is none, else one record of where they stop. -/
theorem dropWrites_out (c : ChanId) (reason : FaultReason) (s : State) :
    (s.faultWrites c reason = [] → dropWrites c reason s = s) ∧
      (s.faultWrites c reason ≠ [] →
        (dropWrites c reason s).out = .abandoned (cutWrites s.free (s.faultWrites c reason)) true :: s.out ∧
          (dropWrites c reason s).free = s.free + 1) := by
  unfold dropWrites
  refine ⟨fun h => by rw [h], fun h => ?_⟩
  obtain ⟨w, ws, hw⟩ := List.exists_cons_of_ne_nil h
  rw [hw]
  exact ⟨rfl, rfl⟩

/-- The abandonment is recorded, and one free value is used up. -/
theorem abandonTransfers_out (s : State) :
    (abandonTransfers s).out = .abandoned s.writeCuts (Config.freeInterruptSent s.free) :: s.out := rfl

/-! ### Alerts -/

/-- The occurrence stands in the alert list after it is folded in (R171). -/
theorem foldAlert_mem (kind : AlertKind) (n d : Nat) (stamp : Stamp) (alerts : List AlertRecord) :
    ∃ a ∈ foldAlert kind n d stamp alerts, a.kind = kind ∧ a.seqValue = n ∧ a.detail = d ∧ a.stamp = stamp := by
  simp only [foldAlert]
  split
  · rename_i h
    obtain ⟨a, ha, hk⟩ := List.any_eq_true.mp h
    refine ⟨_, List.mem_map.mpr ⟨a, ha, rfl⟩, ?_⟩
    rw [if_pos hk]
    exact ⟨by simpa using hk, rfl, rfl, rfl⟩
  · exact ⟨_, List.mem_append_right _ (List.mem_singleton.mpr rfl), rfl, rfl, rfl, rfl⟩

/-! ### The fetch arbiter -/

/-- Every channel has its turn (R157). -/
theorem mem_servingOrder (last c : ChanId) : c ∈ servingOrder last := by
  revert last c; decide

/-- The arbiter leaves no eligible channel without a fetch (R157). -/
theorem fetchArbiter_atRest (s : State) : (fetchArbiter s).ArbiterAtRest := by
  intro h d
  cases hf : s.cc.fetch with
  | some c => simp [fetchArbiter, hf] at h
  | none =>
    cases ho : (servingOrder s.cc.lastServed).find? s.eligible with
    | some c => simp [fetchArbiter, hf, ho] at h
    | none =>
      have e : fetchArbiter s = s := by simp [fetchArbiter, hf, ho]
      rw [e]
      simpa using List.find?_eq_none.mp ho d (mem_servingOrder _ d)

/-- An event that ends in `settle` leaves the arbiter at rest. -/
theorem settle_atRest (test : Bool) (s : State) : (settle test s).ArbiterAtRest := fetchArbiter_atRest _

end Sys2Proof.Machine
end

