-- ==== Sys2Proof/Laws/Attempts.lean ====
section
/-! SUPPORT. The tests of a commit attempt, against the words of R31 and R45.
-/
namespace Sys2Proof.Machine

/-- The transaction check refuses exactly as R45 says. -/
theorem txnCheck_refuse_iff (c : ChanId) (r : Executing) (s : State) (status : Status) :
    txnCheck c r s = .refuse status ↔ TxnRefused c r s status := by
  have inj : ∀ x : Status, TxnVerdict.refuse x = .refuse status ↔ status = x := fun x => by
    rw [TxnVerdict.refuse.injEq, eq_comm]
  unfold txnCheck TxnRefused
  cases s.findTxn c r.req.hostId with
  | none =>
    by_cases h1 : r.req.kind = .sealTxn
    · simp [h1, inj]
    · by_cases h2 : r.req.sealFlag = true
      · simp [h1, h2]
      · by_cases h3 : r.txnReserved = true
        · simp [h1, h2, h3]
        · by_cases h4 : s.txns.table.length + s.txnReservations < 64
          · simp [h1, h2, h3, h4]
          · simp [h1, h2, h3, h4, inj, Nat.le_of_not_lt h4]
  | some t =>
    cases h1 : t.expired
    · by_cases h2 : t.count ≤ 1022
      · simp [h1, h2, Nat.not_lt.mpr h2]
      · cases r.req.final <;> simp [h1, h2, inj, Nat.lt_of_not_le h2]
    · simp [h1, inj]

/-- The refusals of a commit attempt are those of R31. -/
theorem refusalAt_iff (c : ChanId) (r : Executing) (s : State) (status : Status) :
    refusalAt c r s = some status ↔ Refused c r s status := by
  have inj : ∀ x : Status, some x = some status ↔ status = x := fun x => by rw [Option.some.injEq, eq_comm]
  unfold refusalAt Refused
  by_cases h1 : (s.chan c).state = .draining ∧ r.req.hostId ≠ 0
  · rw [if_pos h1, inj]
    exact ⟨fun h => Or.inl ⟨h1.1, h1.2, h⟩, fun h => h.elim (fun h => h.2.2) (fun h => absurd h1 h.1)⟩
  · rw [if_neg h1]
    have h1' : ∀ p : Prop, (((s.chan c).state = .draining ∧ r.req.hostId ≠ 0 ∧ status = .cancelled) ∨
        (¬((s.chan c).state = .draining ∧ r.req.hostId ≠ 0) ∧ p)) ↔ p := fun p =>
      ⟨fun h => h.elim (fun h => absurd ⟨h.1, h.2.1⟩ h1) And.right, fun h => Or.inr ⟨h1, h⟩⟩
    rw [h1']
    generalize 2 ^ 48 - 1 = last
    by_cases h2 : s.journal.nextSeq = last
    · simp [h2, inj]
    · cases h3 : s.mediaFault
      · by_cases h4 : r.req.hostId = 0
        · simp [h2, h4]
        · rw [← txnCheck_refuse_iff c r s status]
          cases hv : txnCheck c r s <;> simp [h2, h4]
      · simp [h2, inj]

/-- An attempt that no test of R31 refuses. -/
theorem refusalAt_none_iff (c : ChanId) (r : Executing) (s : State) :
    refusalAt c r s = none ↔ ∀ status, ¬ Refused c r s status := by
  simp only [← refusalAt_iff, Option.eq_none_iff_forall_ne_some, ne_eq]

end Sys2Proof.Machine
end

