-- ==== Sys2Proof/Laws/MemoriesKept.lean ====
section
/-! SUPPORT. Every shared operation that writes into journal SRAM or the shadow keeps both in the canonical form.
-/
namespace Sys2Proof.Machine

/-- A step that leaves both memories alone keeps their form. -/
theorem MemoriesWf_of_eq {s t : State} (h : s.MemoriesWf) (h1 : t.journal.sram = s.journal.sram)
    (h2 : t.array.shadow = s.array.shadow) : t.MemoriesWf := by
  unfold State.MemoriesWf; rw [h1, h2]; exact h

/-- A fold of steps that keep a property keeps it. -/
theorem foldl_invariant {α : Type} {P : State → Prop} (f : State → α → State) (hf : ∀ s x, P s → P (f s x))
    (l : List α) {s : State} (h : P s) : P (l.foldl f s) := by
  induction l generalizing s with
  | nil => exact h
  | cons x xs ih => exact ih (hf s x h)

theorem advanceCopy_memories {s : State} (h : s.MemoriesWf) (i : SegId) : (advanceCopy i s).MemoriesWf := by
  simp only [advanceCopy]
  (repeat' split) <;> first | exact h | exact ⟨h.1, Memory.wf_copyRange h.1 h.2 _ _⟩

theorem writeSegment_memories {s : State} (h : s.MemoriesWf) (i : SegId) (off : Nat) (bytes : List Byte) :
    (writeSegment i off bytes s).MemoriesWf :=
  have h' := advanceCopy_memories h i
  ⟨Memory.wf_writeBytes h'.1 _ _, h'.2⟩

theorem finishCopy_memories {s : State} (h : s.MemoriesWf) (i : SegId) (w : Nat) : (finishCopy i w s).MemoriesWf :=
  ⟨h.1, Memory.wf_copyRange h.1 h.2 _ _⟩

theorem spoilShadow_memories {s : State} (h : s.MemoriesWf) (i : SegId) : (spoilShadow i s).MemoriesWf := by
  simp only [spoilShadow]
  generalize (List.range 4096).map (Config.freeByte s.free) = bytes
  exact ⟨h.1, Memory.wf_writeBytes h.2 _ _⟩

theorem markVoid_memories {s : State} (h : s.MemoriesWf) (e : SegId × Nat) : (markVoid s e).MemoriesWf :=
  writeSegment_memories h e.1 (e.2 + 2) [voidByte]

theorem voidTxn_memories {s : State} (h : s.MemoriesWf) (t : TxnRecord) : (voidTxn t s).MemoriesWf :=
  foldl_invariant (P := State.MemoriesWf) markVoid (fun _ e hs => markVoid_memories hs e) _ h

theorem endTxns_memories {s : State} (h : s.MemoriesWf) (p : ChanId → Bool) : (endTxns p s).MemoriesWf := by
  have h' : ((s.txns.table.filter (fun t => p t.chan && !t.expired)).foldl (fun s t => voidTxn t s) s).MemoriesWf :=
    foldl_invariant (P := State.MemoriesWf) _ (fun _ t hs => voidTxn_memories hs t) _ h
  simp only [endTxns]
  exact ⟨h'.1, h'.2⟩

theorem openNew_memories {s : State} (h : s.MemoriesWf) (tail : Option SegId) : (openNew tail s).MemoriesWf := by
  simp only [openNew]
  split
  · exact h
  · exact ⟨Memory.wf_clear (by simpa using h.1) _ _, by simpa using h.2⟩

theorem prepareSegment_memories {s : State} (h : s.MemoriesWf) (fp : Nat) : (prepareSegment fp s).MemoriesWf := by
  simp only [prepareSegment]
  split
  · exact openNew_memories (MemoriesWf_of_eq h (by simp) (by simp)) _
  · exact h

theorem placeEntry_memories {s : State} (h : s.MemoriesWf) (i : SegId) (x : Header) (payload : List Byte) :
    (placeEntry i x payload s).MemoriesWf := by
  have h' := writeSegment_memories (writeSegment_memories h i ((s.seg i).fill + 32) payload) i (s.seg i).fill x.bytes
  simp only [placeEntry]
  generalize writeSegment i (s.seg i).fill x.bytes (writeSegment i ((s.seg i).fill + 32) payload s) = t at h' ⊢
  exact MemoriesWf_of_eq h' (by simp) (by simp)

theorem commit_memories {s : State} (h : s.MemoriesWf) (c : ChanId) (r : Request) : (commit c r s).MemoriesWf := by
  have h' := prepareSegment_memories h (footprint r.length)
  simp only [commit]
  generalize prepareSegment (footprint r.length) s = t at h' ⊢
  split
  · exact h'
  · rename_i i _
    generalize (if r.kind = .append then t.payloadOf c else []) = payload
    generalize t.entryHeader c r payload = x
    have h1 : (takeSeq t).MemoriesWf := MemoriesWf_of_eq h' (by simp) (by simp)
    have h2 := placeEntry_memories h1 i x payload
    have h3 : (recordEntry i c r x payload t).MemoriesWf :=
      MemoriesWf_of_eq h2 (by simp [recordEntry]) (by simp [recordEntry])
    exact MemoriesWf_of_eq h3 (by simp) (by simp)

theorem commitAttempt_memories {s : State} (h : s.MemoriesWf) (grant : Bool) (c : ChanId) (r : Executing) :
    (commitAttempt grant c r s).MemoriesWf := by
  have h' : (takeTxnReservation c r s).MemoriesWf := MemoriesWf_of_eq h (by simp) (by simp)
  simp only [commitAttempt]
  (repeat' split) <;> first
    | exact commit_memories h' c r.req
    | exact MemoriesWf_of_eq h (by simp) (by simp)

theorem grantLoop_memories (n : Nat) {s : State} (h : s.MemoriesWf) : (grantLoop n s).MemoriesWf := by
  induction n generalizing s with
  | zero => exact h
  | succ n ih =>
    simp only [grantLoop]
    (repeat' split) <;> first
      | exact h
      | exact commitAttempt_memories h _ _ _
      | exact ih (commitAttempt_memories h _ _ _)

theorem grantRun_memories {s : State} (h : s.MemoriesWf) : (grantRun s).MemoriesWf := grantLoop_memories _ h

theorem onReliefBut_memories (lost : Waiter → Bool) {s : State} (h : s.MemoriesWf) :
    (onReliefBut lost s).MemoriesWf := by
  simp only [onReliefBut]
  split
  · exact grantRun_memories (MemoriesWf_of_eq h (by simp) (by simp))
  · exact h

theorem onFreed_memories {s : State} (h : s.MemoriesWf) : (onFreed s).MemoriesWf := by
  simp only [onFreed]
  split
  · exact grantRun_memories h
  · exact h

/-! ### The operations that a command's meaning calls -/

theorem grantAfter_memories {s : State} (h : s.MemoriesWf) (b : Bool) : (grantAfter b s).MemoriesWf := by
  simp only [grantAfter]
  split
  · exact grantRun_memories h
  · exact h

theorem faultChannel_memories {s : State} (h : s.MemoriesWf) (c : ChanId) (reason : FaultReason) :
    (faultChannel c reason s).MemoriesWf := by
  simp only [faultChannel]
  split
  · have h' := endTxns_memories (s := beginFault c reason s) (MemoriesWf_of_eq h (by simp) (by simp)) (fun d => d == c)
    exact grantAfter_memories (MemoriesWf_of_eq h' (by simp) (by simp)) _
  · exact h

theorem hostReset_memories {s : State} (h : s.MemoriesWf) : (hostReset s).MemoriesWf := by
  have h' := endTxns_memories (s := abandonTransfers s) (MemoriesWf_of_eq h (by simp) (by simp)) (fun _ => true)
  simp only [hostReset]
  split
  · exact h
  · exact MemoriesWf_of_eq h' (by simp) (by simp)

theorem settle_memories {s : State} (h : s.MemoriesWf) (test : Bool) : (settle test s).MemoriesWf :=
  MemoriesWf_of_eq h (by simp) (by simp)

theorem notifyWrite_memories {s : State} (h : s.MemoriesWf) (c : ChanId) (p : Nat) : (notifyWrite c p s).MemoriesWf := by
  simp only [notifyWrite]
  (repeat' split) <;> first
    | with_reducible exact h
    | with_reducible exact settle_memories (faultChannel_memories h _ _) _
    | with_reducible exact settle_memories (MemoriesWf_of_eq h (by simp) (by simp)) _

theorem retireWrite_memories {s : State} (h : s.MemoriesWf) (c : ChanId) (r : Nat) : (retireWrite c r s).MemoriesWf := by
  simp only [retireWrite]
  (repeat' split) <;> first
    | with_reducible exact h
    | with_reducible exact settle_memories (faultChannel_memories h _ _) _
    | with_reducible exact settle_memories (MemoriesWf_of_eq h (by simp) (by simp)) _

theorem windowWrite_memories {s : State} (h : s.MemoriesWf) (off : BitVec 12) (v : BitVec 32) :
    (windowWrite off v s).MemoriesWf := by
  simp only [windowWrite]
  (repeat' split) <;> first
    | with_reducible exact hostReset_memories h
    | with_reducible exact notifyWrite_memories h _ _
    | with_reducible exact retireWrite_memories h _ _
    | exact MemoriesWf_of_eq h (by simp) (by simp)

theorem endStatusWrite_memories {s : State} (h : s.MemoriesWf) (c : ChanId) (w : StatusPurpose) (ok : Bool) :
    (endStatusWrite c w ok s).MemoriesWf := by
  simp only [endStatusWrite]
  (repeat' split) <;> first
    | with_reducible exact h
    | with_reducible exact settle_memories (faultChannel_memories h _ _) _
    | exact MemoriesWf_of_eq h (by simp) (by simp)

theorem withExec_memories {s : State} (h : s.MemoriesWf) (c : ChanId) (k : Kind) (p : Stage → Bool)
    (f : Executing → State → State) (hf : ∀ r, (f r s).MemoriesWf) : (withExec c k p f s).MemoriesWf := by
  simp only [withExec]
  (repeat' split) <;> first
    | with_reducible exact h
    | with_reducible exact hf _

theorem afterReservation_memories {s : State} (h : s.MemoriesWf) (c : ChanId) (r : Executing) :
    (afterReservation c r s).MemoriesWf := by
  simp only [afterReservation]
  split <;> first
    | with_reducible exact h
    | with_reducible exact commitAttempt_memories h _ _ _
    | exact MemoriesWf_of_eq h (by simp) (by simp)

theorem takeReservation_memories {s : State} (h : s.MemoriesWf) (c : ChanId) (r : Executing) :
    (takeReservation c r s).MemoriesWf :=
  afterReservation_memories (MemoriesWf_of_eq h (by simp) (by simp)) _ _

theorem beginDurable_memories {s : State} (h : s.MemoriesWf) (c : ChanId) (r : Executing) :
    (beginDurable c r s).MemoriesWf := by
  simp only [beginDurable]
  (repeat' split) <;> first
    | with_reducible exact takeReservation_memories h _ _
    | exact MemoriesWf_of_eq h (by simp) (by simp)

theorem abortExecute_memories {s : State} (h : s.MemoriesWf) (c : ChanId) (r : Executing) :
    (abortExecute c r s).MemoriesWf := by
  simp only [abortExecute]
  split
  · exact MemoriesWf_of_eq h (by simp) (by simp)
  · split
    · exact MemoriesWf_of_eq h (by simp) (by simp)
    · rename_i t _ _
      exact MemoriesWf_of_eq (voidTxn_memories h t) (by simp) (by simp)

theorem expireTxn_memories {s : State} (h : s.MemoriesWf) (t : TxnRecord) : (expireTxn t s).MemoriesWf := by
  unfold expireTxn
  exact voidTxn_memories (by exact h) t

theorem expireHeld_memories {s : State} (h : s.MemoriesWf) (c : ChanId) (n : Nat) : (expireHeld c n s).MemoriesWf := by
  simp only [expireHeld]
  (repeat' split) <;> first
    | with_reducible exact h
    | with_reducible exact grantAfter_memories (MemoriesWf_of_eq h (by simp) (by simp)) _

theorem reportRelief_memories {s : State} (h : s.MemoriesWf) (falls freed : Nat) :
    (reportRelief falls freed s).MemoriesWf :=
  foldl_invariant (P := State.MemoriesWf) _ (fun _ _ hs => onFreed_memories hs) _
    (foldl_invariant (P := State.MemoriesWf) _ (fun _ _ hs => onReliefBut_memories (fun _ => false) hs) _ h)

theorem applyRelease_memories {s : State} (h : s.MemoriesWf) (n : Nat) : (applyRelease n s).MemoriesWf := by
  have h' : ((s.coveredMembers n).foldl releaseMember { s with journal.head := n }).MemoriesWf :=
    foldl_invariant (P := State.MemoriesWf) _ (fun _ _ hs => MemoriesWf_of_eq hs (by simp) (by simp)) _
      (MemoriesWf_of_eq h rfl rfl)
  simp only [applyRelease]
  generalize (s.coveredMembers n).foldl releaseMember { s with journal.head := n } = t at h' ⊢
  exact MemoriesWf_of_eq (reportRelief_memories h' (s.dirtyCount - t.dirtyCount)
    ((s.coveredMembers n).countP s.relieves)) (by simp) (by simp)

theorem clearJournal_memories {s : State} (h : s.MemoriesWf) : (clearJournal s).MemoriesWf := by
  simp only [State.MemoriesWf, clearJournal]
  exact h

theorem resetJournal_memories {s : State} (h : s.MemoriesWf) : (resetJournal s).MemoriesWf := by
  have h1 : (retireFailed s).MemoriesWf := MemoriesWf_of_eq h (by simp) (by simp)
  have h2 : (setMetadataDirty (clearJournal (retireFailed s))).MemoriesWf :=
    MemoriesWf_of_eq (clearJournal_memories h1) (by simp) (by simp)
  simp only [resetJournal]
  exact MemoriesWf_of_eq (onReliefBut_memories (fun _ => false) h2) (by simp) (by simp)

theorem beginDrain_memories {s : State} (h : s.MemoriesWf) (d : ChanId) (tag : Tag) (force : Bool) :
    (beginDrain d tag force s).MemoriesWf := by
  simp only [beginDrain]
  generalize (if force = true then s.waitersOf d else 0) = n
  have h' := endTxns_memories (s := markDraining d tag n s) (MemoriesWf_of_eq h (by simp) (by simp)) (fun x => x == d)
  split <;> exact grantAfter_memories (MemoriesWf_of_eq h' (by simp) (by simp)) _

theorem passBytes_memories {s : State} (h : s.MemoriesWf) (i : SegId) (w : Nat) (agree : Bool) :
    (passBytes i w agree s).MemoriesWf := by
  simp only [passBytes]
  split
  · exact finishCopy_memories h _ _
  · exact spoilShadow_memories (finishCopy_memories h _ _) _

theorem failureEffects_memories {s : State} (h : s.MemoriesWf) (i : SegId) (u : Nat) :
    (failureEffects i u s).MemoriesWf :=
  MemoriesWf_of_eq (onReliefBut_memories (s.lostWith i u) h) (by simp [failureEffects]) (by simp [failureEffects])

theorem passEnd_memories {s : State} (h : s.MemoriesWf) (i : SegId) (agree : Bool) : (passEnd i agree s).MemoriesWf := by
  have h1 : (endFreeing i s).MemoriesWf := MemoriesWf_of_eq h (by simp) (by simp)
  have h2 : (endJob i s).MemoriesWf := MemoriesWf_of_eq h (by simp) (by simp)
  simp only [passEnd]
  split
  · exact MemoriesWf_of_eq (onReliefBut_memories (fun _ => false) h1) (by simp) (by simp)
  · split
    · split
      · exact MemoriesWf_of_eq h (by simp) (by simp)
      · exact MemoriesWf_of_eq (onReliefBut_memories (fun _ => false) h2) (by simp) (by simp)
    · split
      · exact MemoriesWf_of_eq h (by simp) (by simp)
      · exact failureEffects_memories (s := failSegment i s) (MemoriesWf_of_eq h (by simp) (by simp)) _ _

theorem emergencyPassEnd_memories {s : State} (h : s.MemoriesWf) (i : SegId) (agree : Bool) :
    (emergencyPassEnd i agree s).MemoriesWf := MemoriesWf_of_eq h (by simp) (by simp)

theorem cutOperation_memories {s : State} (h : s.MemoriesWf) : (cutOperation s).MemoriesWf := by
  simp only [cutOperation]
  (repeat' split) <;> first
    | with_reducible exact advanceCopy_memories h _
    | exact MemoriesWf_of_eq h (by simp) (by simp)

theorem recomputeBudget_memories {s : State} (h : s.MemoriesWf) : (recomputeBudget s).MemoriesWf := by
  simp only [recomputeBudget]
  split
  · exact grantAfter_memories (MemoriesWf_of_eq h (by simp) (by simp)) _
  · exact h

theorem applyConfigure_memories {s : State} (h : s.MemoriesWf) (r : Request) : (applyConfigure r s).MemoriesWf := by
  have h' : (configureBlocks r (configureNamed r s)).MemoriesWf := MemoriesWf_of_eq h (by simp) (by simp)
  simp only [applyConfigure]
  split
  · exact recomputeBudget_memories h'
  · split
    · exact MemoriesWf_of_eq h' (by simp) (by simp)
    · exact h'

theorem enterRecall_memories {s : State} (h : s.MemoriesWf) (v : Nat) : (enterRecall v s).MemoriesWf := by
  simp only [enterRecall]
  split
  · exact MemoriesWf_of_eq h (by simp [powerOn]) (by simp [powerOn])
  · exact h

theorem markDiscarded_memories {s : State} (h : s.MemoriesWf) (head : Nat) (all : List Found) :
    (markDiscarded head all s).MemoriesWf := by
  unfold markDiscarded
  exact foldl_invariant (P := State.MemoriesWf) _ (fun _ _ hs => markVoid_memories hs _) _ h

end Sys2Proof.Machine
end

