-- ==== Sys2Proof/Laws/Scan.lean ====
section
/-! SUPPORT. The tests of the scan's headers, against the words of R137.
-/
namespace Sys2Proof.Machine

/-- A header is broken when it is not formed as R1 and R2 say. -/
theorem broken_iff (h : Header) : h.broken = false ↔ h.Formed := by
  unfold Header.broken Header.Formed liveByte voidByte
  cases h.sealFlag <;> simp <;> grind

/-- The tests of R137. -/
theorem acceptHeader_iff (mem : Memory) (base off prev : Nat) (format : BitVec 16) (h : Header) :
    acceptHeader mem base format off prev (mem.readBytes (base + off) 32) h = true ↔
      Accepts mem base format off prev h := by
  simp only [acceptHeader, Accepts, Bool.and_eq_true, Bool.not_eq_true', List.all_eq_false, beq_iff_eq,
    decide_eq_true_eq, broken_iff]
  constructor
  · rintro ⟨⟨⟨⟨⟨⟨a, b⟩, c⟩, d⟩, e⟩, f⟩, g⟩
    exact ⟨a, b, c, d, e.symm, f, g⟩
  · rintro ⟨a, b, c, d, e, f, g⟩
    exact ⟨⟨⟨⟨⟨⟨a, b⟩, c⟩, d⟩, e.symm⟩, f⟩, g⟩

end Sys2Proof.Machine
end

