-- ==== Sys2Proof/WellFormed.lean ====
section
/-! DEFINITION. Which commands are well formed: the operand ranges the manual gives.
-/
namespace Sys2Proof

/-- Fields of fixed width hold values of that width: a request record has 64 bytes (R174), a payload 1 to 4064 (R25),
a register access 1, 2, 4 or 8 bytes (R150), a reading of V fits the snapshot's 16-bit field in mV (R170), and a
host transaction id 16 bits (R43). -/
def Instr.wellFormed : Instr → Bool
  | .fetchEnd (.data bytes) => bytes.length == 64
  | .payloadReadEnd _ (.data bytes) => 1 ≤ bytes.length && bytes.length ≤ 4064
  | .registerWrite _ width _ => width == 1 || width == 2 || width == 4 || width == 8
  | .txnExpiry c h => c.val != 0 && 1 ≤ h && h ≤ 65535
  | .payloadReadEnd c .error => c.val != 0
  | .measurement v => v < 65536
  | .supplyReturn v => v < 65536
  | .closingMarkWriteEnd _ v => v < 65536
  | .hostReset _ | .enable | .notify _ _ | .retire _ _ | .fetchEnd .error => true
  | .append c | .sealTxn c | .abort c | .read c | .flush c | .readDataWriteEnd c _ => c.val != 0
  | .release _ => true
  | .format | .setClock | .recoveryReport | .openChannel | .closeChannel | .configure | .query | .alertWait => true
  | .waitListReservation | .stagingBufferClaim | .readBufferClaim | .formatReset | .storePassEnd _ => true
  | .idleTimerExpiry | .checkpointWriteEnd _ | .charged | .notCharged | .learnStart _ | .learnEnd _ => true
  | .learnTimeout | .supplyFail | .recallCompletion | .endOfScan | .pstoreRequest _ | .clockTick => true
  | .clockTransferApplication | .oscillatorStop | .oscillatorRestart | .batteryCrossing _ => true
  | .batteryDomainLoss | .completionRecordWriteEnd _ _ | .statusBlockWriteEnd _ _ | .holdoffExpiry _ => true
  | .reportWriteEnd _ | .snapshotWriteEnd _ => true

end Sys2Proof
end

