-- ==== Sys2Proof/Tests/Slice0.lean ====
section
/-! SUPPORT. Small tests: ill-formed commands are refused, a witness of the hypotheses of every statement that has some, with
the boundary values of its clauses, and single steps on small states.
-/
namespace Sys2Proof.Tests
open Sys2Proof Sys2Proof.Machine

/-! ### Ill-formed commands -/

theorem test_illFormed_record : (Instr.fetchEnd (.data [])).wellFormed = false := by decide
theorem test_illFormed_payloadEmpty : (Instr.payloadReadEnd 1 (.data [])).wellFormed = false := by decide
theorem test_illFormed_payloadLong : (Instr.payloadReadEnd 1 (.data (List.replicate 4065 0))).wellFormed = false := by
  decide +kernel
theorem test_illFormed_payloadChannel : (Instr.payloadReadEnd 0 .error).wellFormed = false := by decide
theorem test_illFormed_width : (Instr.registerWrite 0 3 0).wellFormed = false := by decide
theorem test_illFormed_expiryChannel : (Instr.txnExpiry 0 1).wellFormed = false := by decide
theorem test_illFormed_expiryKeyZero : (Instr.txnExpiry 1 0).wellFormed = false := by decide
theorem test_illFormed_expiryKeyWide : (Instr.txnExpiry 1 65536).wellFormed = false := by decide
theorem test_illFormed_voltage : (Instr.measurement 65536).wellFormed = false := by decide
theorem test_illFormed_returnVoltage : (Instr.supplyReturn 65536).wellFormed = false := by decide
theorem test_illFormed_closingVoltage : (Instr.closingMarkWriteEnd true 65536).wellFormed = false := by decide
theorem test_illFormed_dataRequests :
    (Instr.append 0).wellFormed = false ∧ (Instr.sealTxn 0).wellFormed = false ∧ (Instr.abort 0).wellFormed = false ∧
      (Instr.read 0).wellFormed = false ∧ (Instr.flush 0).wellFormed = false ∧
      (Instr.readDataWriteEnd 0 true).wellFormed = false := by decide
theorem test_wellFormed_record : (Instr.fetchEnd (.data (List.replicate 64 0))).wellFormed = true := by decide

/-- The check value of the nine ASCII digits 1 to 9 under the CRC-32 of R3. -/
theorem test_crc32 : crc32 [0x31, 0x32, 0x33, 0x34, 0x35, 0x36, 0x37, 0x38, 0x39] = 0xCBF43926#32 := by
  decide +kernel

/-! ### Small states -/

def ring : RingSetup :=
  { reqAddr := 0x10000, reqSlots := 32, cplAddr := 0x20000, cplSlots := 32, statusAddr := 0x30000 }

def rq (k : Kind) : Request :=
  { kind := k, sealFlag := false, storedFlag := false, forceFlag := false, newEpochFlag := false, tag := 7,
    hostId := 0, seq := 0, addr := 0x40000, length := 0, bufLength := 0, params := List.replicate 32 0 }

def opened : Channel := { Channel.closed with state := .active, setup := some ring }

def ex (r : Request) (st : Stage) : Executing := { req := r, stage := st, waitReserved := false, txnReserved := false }

def busy (r : Request) (st : Stage) : Channel := { opened with inFlight := 1, exec := some (ex r st) }

/-- A segment with entries 4 and 5 that fill 64 bytes, not yet stored. -/
def openSeg : Segment :=
  { Segment.freeForm with
    state := .openS, firstSeq := some 4, lastSeq := some 5, fill := 64, unstoredFrom := some 4 }

/-- RUNNING and FORMATTED, segment 3 OPEN and dirty, next seq 6, B 10; no channel is open but channel 0. -/
def base : State :=
  State.setSeg
    (State.setChan
      { State.reset with
        device := .running, window.enable := true, journal.formatted := true, journal.nextSeq := 6,
        journal.chain := [3], store.storedThrough := 3, budget.b := 10, budget.pressure := false,
        clock.ticks := 100 } 0 opened) 3 openSeg

/-- `base` with a request executing on a channel. -/
def doing (c : ChanId) (r : Request) (st : Stage) (s : State) : State := s.setChan c (busy r st)

theorem doing_executes (c : ChanId) (r : Request) (st : Stage) (s : State) :
    Executes c r.kind st (ex r st) (doing c r st s) := by
  have h : (doing c r st s).chan c = busy r st := State.chan_setChan_same s c _
  unfold Executes
  rw [h]
  exact ⟨rfl, rfl, rfl, rfl⟩

/-- What one command leaves, for a test of it. -/
def after (i : Instr) (s : State) (p : State → Bool) : Bool :=
  match exec i s with
  | .next u => p u
  | .fault _ => false
  | .refused _ => false

/-! ### Witnesses: the step and the invariants -/

theorem test_witness_frontCommand : { State.reset with pending := [.clockTick] }.pending = [.clockTick] := by
  decide +kernel

theorem test_witness_idle : State.reset.pending = [] := by decide +kernel

theorem test_witness_memoriesWf :
    { base with pending := [.clockTick] }.MemoriesWf ∧ ∃ t, step { base with pending := [.clockTick] } = .next t :=
  ⟨⟨by decide +kernel, by decide +kernel⟩, _, rfl⟩

theorem test_witness_limits :
    { base with pending := [.clockTick] }.WithinLimits ∧
      ∃ t, step { base with pending := [.clockTick] } = .next t := by
  refine ⟨?_, _, rfl⟩
  unfold State.WithinLimits
  decide +kernel

theorem test_witness_offQuiet :
    { base with device := .off }.OffIsQuiet ∧ ∃ t, step { base with device := .off } = .next t :=
  ⟨fun _ => by decide +kernel, _, rfl⟩

theorem base_seg (i : SegId) : base.seg i = openSeg ∨ base.seg i = Segment.freeForm := by
  by_cases hi : i = 3
  · subst hi; exact Or.inl (State.seg_setSeg_same _ _ _)
  · right
    rw [base, State.seg_setSeg_other _ _ hi]
    exact Vector.getElem_replicate _

theorem test_witness_sequenceLaw : base.SequenceLaw ∧ ∃ t, step base = .next t := by
  refine ⟨⟨by decide +kernel, by decide +kernel, fun i => ?_⟩, _, rfl⟩
  rcases base_seg i with h | h <;> rw [h]
  · exact ⟨by decide +kernel, by decide +kernel, by decide +kernel⟩
  · exact ⟨by decide +kernel, by decide +kernel, by decide +kernel⟩

/-! ### Witnesses: records and channels -/

theorem test_witness_headerAtItsWidths :
    ∃ h : Header, h.channel = 15 ∧ h.length = 2 ^ 16 - 1 ∧ h.seq = 2 ^ 48 - 1 ∧ h.hostId = 2 ^ 16 - 1 ∧
      h.serial = 2 ^ 32 - 1 ∧ h.index = 2 ^ 16 - 1 ∧ h.stamp.epoch = 2 ^ 16 - 1 ∧ h.stamp.ticks = 2 ^ 48 - 1 :=
  ⟨{ format := 0xFFFF, stateByte := 2, sealFlag := true, clockValid := true, channel := 15, length := 2 ^ 16 - 1,
     seq := 2 ^ 48 - 1, hostId := 2 ^ 16 - 1, serial := 2 ^ 32 - 1, index := 2 ^ 16 - 1,
     stamp := { epoch := 2 ^ 16 - 1, ticks := 2 ^ 48 - 1 }, crc := 0xFFFFFFFF }, by decide⟩

/-- A record of 64 bytes with a kind byte, a flag byte, and zeros. -/
def record (kind flags : Nat) : List Byte := fitBytes 64 (leBytes 1 kind ++ leBytes 1 flags)

/-- Kind 0 and kind 6 name no request, FLUSH (5) is not allowed on channel 0, its flags fail at offset 1, and a FLUSH of
zeros passes (section 11.1). -/
theorem test_witness_recordValidation :
    Kind.ofCode (fieldAt (record 0 0) 0 1) = none ∧ Kind.ofCode (fieldAt (record 5 0) 0 1) = some .flush ∧
      Kind.flush.allowedOn 0 = false ∧ Kind.flush.allowedOn 1 = true ∧ Kind.flush.allowedOn 15 = true ∧
      failingOffset .flush (record 5 2) = some 1 ∧ failingOffset .flush (record 5 0) = none ∧
      fieldAt (record 5 2) 1 1 &&& (255 - Kind.flush.allowedFlags) ≠ 0 := by decide +kernel

/-- A fetch in flight on an ACTIVE channel 1. -/
def fetching : State := State.setChan { base with cc.fetch := some 1 } 1 { opened with inFlight := 1, hostProducer := 1 }

theorem test_witness_fetchEnd :
    fetching.cc.fetch = some 1 ∧ (fetching.chan 1).state = .active ∧ (fetching.chan 1).exec = none ∧
      (record 5 2).length = 64 ∧ (record 5 0).length = 64 ∧
      validateRecord 1 (record 5 2) = .refused .invalid 1 ∧
      validateRecord 1 (record 5 0) = .passed (parseRequest .flush (record 5 0)) := by decide +kernel

/-- A fetch that ends on a DRAINING channel with another request in flight. -/
theorem test_witness_fetchEndDraining :
    let d := fetching.setChan 1 { opened with state := .draining, inFlight := 2 }
    d.cc.fetch = some 1 ∧ (d.chan 1).state = .draining ∧ 1 < (d.chan 1).inFlight ∧ (d.chan 1).exec = none := by
  decide +kernel

/-- The fields of an APPEND at the edges of their ranges: lengths 1, 4064, 0 and 4065, and a reserved byte set. -/
theorem test_fieldsAllowed_append :
    let r := fun (length : Nat) (byte : Nat) =>
      fitBytes 64 (leBytes 24 1 ++ leBytes 4 length ++ leBytes 11 0 ++ leBytes 1 byte)
    (failingOffset .append (r 1 0) = none ∧ failingOffset .append (r 4064 0) = none) ∧
      failingOffset .append (r 0 0) = some 24 ∧ failingOffset .append (r 4065 0) = some 24 ∧
      failingOffset .append (r 1 1) = some 32 := by decide +kernel

theorem test_witness_enable :
    { base with device := .ready, window.ctrlBaseLo := 0x1000 }.window.baseValid = true ∧
      { base with device := .ready, window.ctrlBaseLo := 0x1800 }.window.baseValid = false ∧
      { base with device := .ready }.window.ctrlFault = none ∧
      { base with device := .ready, window.ctrlFault := some .ringRead }.window.ctrlFault ≠ none ∧
      base.device ≠ .ready ∧ base.device ≠ .off := by decide +kernel

/-- The ring indices at the edges of their ranges: 31 and 32 of 32 slots; a RETIRE up to the published index and one
past it. -/
theorem test_witness_ringIndices :
    let s := base.setChan 1 { opened with cplNext := 2, published := 2 }
    s.working = true ∧ (s.chan 1).live = true ∧ (s.chan 2).live = false ∧ 31 < (s.chan 1).reqSlots ∧
      (s.chan 1).reqSlots ≤ 32 ∧ (s.chan 1).cplSlots ≤ 32 ∧
      ringDiff 2 (s.chan 1).hostConsumer (s.chan 1).cplSlots ≤
        ringDiff (s.chan 1).published (s.chan 1).hostConsumer (s.chan 1).cplSlots ∧
      ringDiff (s.chan 1).published (s.chan 1).hostConsumer (s.chan 1).cplSlots <
        ringDiff 3 (s.chan 1).hostConsumer (s.chan 1).cplSlots ∧
      { s with device := .emergency }.working = false := by decide +kernel

theorem test_witness_fault :
    (fetching.chan 1).live = true ∧ (fetching.chan 1).pendingClose = none ∧ (fetching.chan 2).live = false ∧
      fetching.cc.alertWaiters = [] ∧ (fetching.chan 0).live = true ∧ (fetching.chan 0).pendingClose = none := by
  decide +kernel

/-- A fault of a DRAINING channel with a close pending, its READ writing and a completion record in its write. -/
def faulting : State :=
  { (base.setChan 1 { busy (rq .read) (.readWrite 4 Stamp.zero 32) with
      state := .draining, pendingClose := some { tag := 9, cancelled := 2 } }) with
    cc.posts := [{ chan := 1, slot := 31, addr := 0x20000, completion := (rq .flush).completion .ok 5 Stamp.zero 5,
                   phase := .record, detached := none }] }

theorem test_witness_faultClosing :
    (faulting.chan 1).live = true ∧ (faulting.chan 1).pendingClose = some { tag := 9, cancelled := 2 } ∧
      (1 : ChanId) ≠ 0 ∧ faulting.cc.alertWaiters = [] ∧ (faulting.chan 0).live = true ∧
      (faulting.chan 1).exec = some (ex (rq .read) (.readWrite 4 Stamp.zero 32)) ∧
      faulting.cc.posts.map (fun p => (p.chan, p.phase, p.detached)) = [(1, .record, none)] ∧
      faulting.faultWrites 1 .badIndex = [(0x40000, 32), (0x20000, 32)] ∧
      faulting.faultWrites 1 .completionWrite = [(0x40000, 32)] := by decide +kernel

theorem test_witness_arbiter :
    let s := (base.setChan 1 { opened with hostProducer := 1 }).setChan 9 { opened with hostProducer := 1 }
    s.cc.fetch = none ∧ s.eligible 1 = true ∧ s.eligible 9 = true ∧
      (∀ d, s.eligible d = true → s.turn 1 ≤ s.turn d) ∧ (∀ d, base.eligible d = false) ∧
      fetching.cc.fetch ≠ none := by decide +kernel

def aCompletion : Completion := (rq .flush).completion .ok 5 Stamp.zero 5

def aPost (phase : PostPhase) : Post :=
  { chan := 1, slot := 31, addr := 0x20000, completion := aCompletion, phase := phase, detached := none }

/-- A completion in the last slot, in its record write and in its status block write; a threshold reached and one not; one
more that waits; a slot taken with none before it and behind one in progress. -/
theorem test_witness_posting :
    let s := { (base.setChan 1 { opened with cplNext := 0, threshold := 1 }) with cc.posts := [aPost .record] }
    let t := { (base.setChan 1 { opened with threshold := 2, holdoff := 10 }) with
               cc.posts := [aPost .status, aPost .queued],
               cc.statusWrites := [{ chan := 1, addr := 0x30000, purpose := .post }] }
    s.firstPost 1 = some (aPost .record) ∧ (aPost .record).phase = .record ∧ (aPost .record).detached = none ∧
      t.cc.statusWrites.find? (fun w : StatusWrite => w.chan == 1) =
        some { chan := 1, addr := 0x30000, purpose := .post } ∧
      (t.cc.posts.eraseP (fun p => p.chan == 1)).find? (fun p => p.chan == 1) = some (aPost .queued) ∧
      (s.chan 1).threshold ≤ (s.chan 1).pendingInt + 1 ∧ (t.chan 1).pendingInt + 1 < (t.chan 1).threshold ∧
      (t.chan 1).holdoff ≠ 0 ∧ (base.chan 1).live = false ∧ (s.chan 1).live = true ∧ (s.chan 0).live = true ∧
      s.firstPost 0 = none ∧ (aPost .record).phase ≠ .queued ∧
      ((base.setChan 1 { opened with holdoffTimer := some 10, pendingInt := 1 }).chan 1).holdoffTimer = some 10 := by
  decide +kernel

/-- What the posts of channel 1 keep when it becomes CLOSED with vector 5. -/
def kept : Detached := { statusAddr := 0x30000, reqConsumer := 2, cplSlots := 32, vector := 5 }

/-- A completion of a channel that has become CLOSED, in its record write and in its status block write, another behind
it. -/
theorem test_witness_postingDetached :
    let p := fun (phase : PostPhase) => { aPost phase with detached := some kept }
    let s := { base with cc.posts := [p .record, p .queued] }
    let t := { base with cc.posts := [p .status, p .queued],
                         cc.statusWrites := [{ chan := 1, addr := 0x30000, purpose := .postDetached }] }
    (s.firstPost 1 = some (p .record) ∧ (p .record).detached = some kept ∧ (p .record).phase = .record) ∧
      t.firstPost 1 = some (p .status) ∧
      t.cc.statusWrites.find? (fun w : StatusWrite => w.chan == 1) =
        some { chan := 1, addr := 0x30000, purpose := .postDetached } ∧
      (t.cc.posts.eraseP (fun p => p.chan == 1)).find? (fun p => p.chan == 1) = some (p .queued) ∧
      after (.statusBlockWriteEnd 1 true) t (fun u =>
        u.cc.posts.map Post.phase == [.record] && u.out.contains (.interrupt 5)) = true := by decide +kernel

theorem test_witness_drain :
    let s := { (base.setChan 1 { opened with state := .draining, pendingClose := some { tag := 9, cancelled := 0 } }) with
      cc.posts := [aPost .record] }
    (s.chan 1).state = .draining ∧ (s.chan 1).inFlight = 0 ∧ (s.chan 0).live = true ∧
      (s.chan 1).pendingClose = some { tag := 9, cancelled := 0 } ∧ aPost .record ∈ s.cc.posts ∧
      (aPost .record).detached = none := by decide +kernel

/-! ### Witnesses: data requests -/

/-- A request of each kind taken while the journal is UNFORMATTED. -/
theorem test_witness_notFormatted :
    let u := { base with journal.formatted := false }
    u.journal.formatted = false ∧
      Executes 1 .append .handed (ex (rq .append) .handed) (doing 1 (rq .append) .handed u) ∧
      Executes 1 .sealTxn .handed (ex (rq .sealTxn) .handed) (doing 1 (rq .sealTxn) .handed u) ∧
      Executes 1 .flush .handed (ex (rq .flush) .handed) (doing 1 (rq .flush) .handed u) ∧
      Executes 1 .read .handed (ex (rq .read) .handed) (doing 1 (rq .read) .handed u) ∧
      Executes 1 .release .handed (ex (rq .release) .handed) (doing 1 (rq .release) .handed u) :=
  ⟨by decide +kernel, doing_executes _ _ _ _, doing_executes _ _ _ _, doing_executes _ _ _ _,
    doing_executes _ _ _ _, doing_executes _ _ _ _⟩

/-- The states of the other statements about data requests are `doing` of a request; what else they ask holds of these. -/
theorem test_witness_reservation :
    let s := doing 1 (rq .append) .handed base
    let w := { (doing 1 (rq .append) .waitReservation base) with store.reservationWaiters := [1] }
    Executes 1 .append .handed (ex (rq .append) .handed) s ∧
      Executes 1 .append .waitReservation (ex (rq .append) .waitReservation) w ∧ s.journal.formatted = true ∧
      s.waitRecordFree = true ∧ s.store.reservationWaiters = [] ∧ s.staging.buffers.length < 4 ∧
      s.staging.waiters = [] ∧ w.store.reservationWaiters = 1 :: [] ∧
      w.waitRecordFree = true ∧
      { s with staging.buffers := List.replicate 4 { chan := 2, data := [] } }.staging.buffers.length = 4 := by
  decide +kernel

/-- The 128 records of the wait list are all reserved or filled. -/
theorem test_witness_waitListFull :
    let w : Waiter := { chan := 2, tag := 0, kind := .flush, target := 5, seq := 5, stamp := Stamp.zero,
                        reqKind := .flush, serial := 0, index := 0 }
    { base with store.waiting := List.replicate 128 w }.waitRecordFree = false ∧
      { base with store.waiting := List.replicate 127 w }.waitRecordFree = true := by decide +kernel

theorem test_witness_stagingClaim :
    let r : Executing := { ex (rq .append) .waitStaging with waitReserved := true }
    let s := { (base.setChan 1 { busy (rq .append) .waitStaging with exec := some r }) with staging.waiters := [1] }
    s.staging.waiters = 1 :: [] ∧ s.staging.buffers.length < 4 ∧ r.waitReserved = true ∧
      Executes 1 .append .waitStaging r s := by decide +kernel

/-- An entry of 4032 bytes of footprint fills the segment to its end, one of 4064 does not fit. -/
theorem test_witness_commit :
    let s := { (doing 1 (rq .append) .staging base) with staging.buffers := [{ chan := 1, data := [] }] }
    Executes 1 .append .staging (ex (rq .append) .staging) s ∧ (rq .append).hostId = 0 ∧
      (rq .append).storedFlag = false ∧ (∃ b ∈ s.staging.buffers, b.chan = 1) ∧
      s.budget.exposed = false ∧ s.mediaFault = false ∧
      s.journal.nextSeq ≠ 2 ^ 48 - 1 ∧ s.openSegment = some 3 ∧ (s.seg 3).dirty = true ∧
      (s.seg 3).fill + footprint 4000 = 4096 ∧ 4096 < (s.seg 3).fill + footprint 4001 := by decide +kernel

def aTxn (expired : Bool) : TxnRecord :=
  { serial := 1, chan := 1, hostId := 5, expired := expired, count := 2, firstSeq := 4, lastSeq := 5,
    deadline := some 200 }

theorem test_witness_transaction :
    let s := doing 1 { rq .sealTxn with hostId := 5 } .handed { base with txns.table := [aTxn false] }
    let e := { s with txns.table := [aTxn true] }
    Executes 1 .sealTxn .handed (ex { rq .sealTxn with hostId := 5 } .handed) s ∧
      s.findTxn 1 5 = some (aTxn false) ∧ (aTxn false).expired = false ∧ e.findTxn 1 5 = some (aTxn true) ∧
      s.findTxn 1 6 = none ∧ (aTxn false).deadline = some 200 ∧ s.working = true ∧ s.waitRecordFree = true ∧
      s.store.reservationWaiters = [] ∧ s.openSegment = some 3 ∧ (s.seg 3).fill + 32 ≤ 4096 ∧
      s.mediaFault = false ∧ s.budget.exposed = false ∧ s.journal.nextSeq ≠ 2 ^ 48 - 1 := by decide +kernel

/-- The three commands that make a commit attempt: the end of a payload read, a SEAL at once, a SEAL after a wait. -/
theorem test_witness_attempts :
    let a := { (doing 1 (rq .append) .staging base) with staging.buffers := [{ chan := 1, data := [] }] }
    let r := { rq .sealTxn with hostId := 5 }
    let s := doing 1 r .handed { base with txns.table := [aTxn false] }
    let w := { (doing 1 r .waitReservation base) with store.reservationWaiters := [1, 2] }
    Attempts 1 (ex (rq .append) .staging) (fitBytes 0 [0]) (.payloadReadEnd 1 (.data [0])) a ∧
      Attempts 1 (ex r .handed) [] (.sealTxn 1) s ∧
      Attempts 1 (ex r .waitReservation) [] .waitListReservation w ∧ (a.chan 1).state = .active :=
  ⟨⟨by decide +kernel, Or.inl ⟨[0], rfl, rfl, rfl, by decide +kernel, rfl⟩⟩,
    ⟨by decide +kernel, Or.inr ⟨rfl, rfl, by decide +kernel, Or.inl ⟨rfl, rfl, by decide +kernel, by decide +kernel⟩⟩⟩,
    ⟨by decide +kernel, Or.inr ⟨rfl, rfl, by decide +kernel, Or.inr ⟨rfl, rfl, by decide +kernel⟩⟩⟩, by decide +kernel⟩

/-- The refusals of R31 and R45, each at its edge: 1022 and 1023 entries, 63 and 64 open transactions. -/
theorem test_witness_refusals :
    let k := { rq .append with hostId := 5 }
    let one := fun (t : TxnRecord) => { base with txns.table := [t] }
    let many := fun (n : Nat) => { base with txns.table := List.replicate n { aTxn false with hostId := 6 } }
    let draining := base.setChan 1 { opened with state := .draining, inFlight := 2 }
    ((∀ status, ¬ Refused 1 (ex (rq .append) .staging) base status) ∧
      (∀ status, ¬ Refused 1 (ex (rq .append) .staging) draining status)) ∧
      Refused 1 (ex k .staging) draining .cancelled ∧
      Refused 1 (ex (rq .append) .staging) { base with journal.nextSeq := 2 ^ 48 - 1 } .seqExhausted ∧
      Refused 1 (ex (rq .append) .staging) (base.setSeg 3 { openSeg with state := .failed }) .nvFault ∧
      Refused 1 (ex { rq .sealTxn with hostId := 5 } .handed) base .txnUnknown ∧
      Refused 1 (ex k .staging) (many 64) .txnLimit ∧ (∀ status, ¬ Refused 1 (ex k .staging) (many 63) status) ∧
      Refused 1 (ex k .staging) (one (aTxn true)) .txnExpired ∧
      Refused 1 (ex k .staging) (one { aTxn false with count := 1023 }) .txnTooLong ∧
      ∀ status, ¬ Refused 1 (ex k .staging) (one { aTxn false with count := 1022 }) status := by
  simp only [← refusalAt_none_iff]
  simp only [← refusalAt_iff]
  decide +kernel

/-- An attempt that needs no clean segment, one that opens a segment, and one that dirties the clean OPEN segment. -/
theorem test_witness_admitted :
    let c := base.setSeg 3 { openSeg with unstoredFrom := none }
    base.needsClean 4032 = false ∧
      (base.needsClean 4064 = true ∧ base.needsNew 4064 = true ∧ base.freeExists = true ∧ base.budget.held = [] ∧
        base.dirtyCount + 1 ≤ base.budget.b) ∧
      (c.needsClean 32 = true ∧ c.needsNew 32 = false ∧ c.budget.held = [] ∧ c.dirtyCount + 1 ≤ c.budget.b) ∧
      (rq .append).storedFlag = false ∧ { rq .append with storedFlag := true }.storedFlag = true ∧
      { base with budget.exposed := true }.budget.exposed = true ∧ base.budgetLive = true := by decide +kernel

/-- Channel 1 holds its APPEND with a reason, behind an OPEN segment that is clean. -/
def holding (reason : HoldReason) : State :=
  { (doing 1 (rq .append) .held (base.setSeg 3 { openSeg with unstoredFrom := none })) with
    budget.held := [{ chan := 1, tag := 7, reason := reason, footprint := 32, key := none }] }

/-- An oldest record that is grantable for its BUDGET, for a FREE segment and for room in the dirty OPEN segment, one that
is not, and one that its own attempt holds again. -/
theorem test_witness_grants :
    let b := holding .budget
    let n := { b with budget.b := 0 }
    let room := { (n.setSeg 3 openSeg) with budget.b := 1 }
    let again := { (holding .space) with budget.b := 0 }
    (b.budget.held.map HeldRecord.chan = [1] ∧ (b.chan 1).exec = some (ex (rq .append) .held) ∧
        (b.chan 1).state = .active) ∧
      b.dirtyCount + 1 ≤ b.budget.b ∧ (holding .space).freeExists = true ∧
      (room.openSegment = some 3 ∧ (room.seg 3).dirty = true ∧ (room.seg 3).fill + 32 ≤ 4096 ∧
        ¬ room.dirtyCount + 1 ≤ room.budget.b) ∧
      (¬ n.dirtyCount + 1 ≤ n.budget.b ∧ n.openSegment = some 3 ∧ (n.seg 3).dirty = false) ∧
      (again.freeExists = true ∧ again.needsClean 32 = true ∧ again.needsNew 32 = false ∧
        again.budget.b < again.dirtyCount + 1 ∧ refusalAt 1 (ex (rq .append) .held) again = none) ∧
      refusalAt 1 (ex (rq .append) .held) { b with journal.nextSeq := 2 ^ 48 - 1 } = some .seqExhausted ∧
      (b.needsClean 32 = true ∧ b.needsNew 32 = false) ∧ b.budgetLive = true := by decide +kernel

/-- The end of a job that leaves its segment clean, with a request held. -/
theorem test_witness_grantAtJobEnd :
    let g := { openSeg with inStore := true, snapshot := some 5 }
    let s := { ((holding .budget).setSeg 3 g) with store.op := some (.job 3 0) }
    s.store.op = some (.job 3 0) ∧ s.working = true ∧ (s.seg 3).state = .openS ∧ (s.seg 3).grewInStore = false ∧
      s.budget.held ≠ [] := by decide +kernel

/-- ABORT of an OPEN, an EXPIRED and an unknown key; a deadline with no request held and with one held on its key. -/
theorem test_witness_abortAndExpiry :
    let s := doing 1 { rq .abort with hostId := 5 } .handed { base with txns.table := [aTxn false] }
    let h := doing 1 { rq .append with hostId := 5 } .held { base with txns.table := [aTxn false] }
    Executes 1 .abort .handed (ex { rq .abort with hostId := 5 } .handed) s ∧ s.findTxn 1 5 = some (aTxn false) ∧
      { s with txns.table := [aTxn true] }.findTxn 1 5 = some (aTxn true) ∧
      { s with txns.table := [] }.findTxn 1 5 = none ∧ s.working = true ∧
      Executes 1 .append .held (ex { rq .append with hostId := 5 } .held) h ∧ h.findTxn 1 5 = some (aTxn false) ∧
      (aTxn false).deadline = some 200 ∧ (aTxn false).expired = false ∧ h.working = true ∧ h.oldestIs 1 = false ∧
      { h with budget.held := [{ chan := 1, tag := 7, reason := .budget, footprint := 32, key := some 5 }] }.oldestIs 1 =
        true ∧
      (h.findTxn 1 5 = some (aTxn false) ∧ { h with txns.table := [aTxn false, aTxn true] }.findTxn 1 5 =
        some (aTxn false)) ∧
      ({ base with txns.table := [aTxn false] }.chan 1).exec = none := by decide +kernel

/-- Held for SPACE, for BUDGET, and behind an older record. -/
theorem test_witness_held :
    let s := doing 1 (rq .append) .staging { (base.setSeg 3 { openSeg with fill := 4096, state := .full }) with
                                             journal.segs := Vector.replicate 512 { openSeg with state := .full } }
    let b := doing 1 (rq .append) .staging { (base.setSeg 3 { openSeg with unstoredFrom := none }) with budget.b := 0 }
    let o := { b with budget.b := 10, budget.held := [{ chan := 2, tag := 1, reason := .space, footprint := 32,
                                                        key := none }] }
    (Executes 1 .append .staging (ex (rq .append) .staging) s ∧
        Executes 1 .append .staging (ex (rq .append) .staging) b ∧
        Executes 1 .append .staging (ex (rq .append) .staging) o ∧ s.journal.nextSeq ≠ 2 ^ 48 - 1) ∧
      (s.needsClean 32 = true ∧ s.needsNew 32 = true ∧ s.freeExists = false ∧ s.mediaFault = false) ∧
      b.mediaFault = false ∧ o.mediaFault = false ∧
      (b.needsClean 32 = true ∧ b.needsNew 32 = false ∧ b.budget.b < b.dirtyCount + 1) ∧
      (o.needsClean 32 = true ∧ o.dirtyCount + 1 ≤ o.budget.b ∧ o.budget.held ≠ []) := by decide +kernel

/-- Segment 3 holds the entries 4 (LIVE) and 5 (VOID); 6 is not yet committed, 3 lies at head. -/
def stored : State :=
  let h : Header := { format := 0, stateByte := 1, sealFlag := false, clockValid := false, channel := 1, length := 0,
                      seq := 4, hostId := 5, serial := 1, index := 0, stamp := Stamp.zero, crc := 0 }
  { base with
    journal.head := 3,
    journal.sram := (Memory.writeBytes [] (segBase 3) h.bytes).writeBytes (segBase 3 + 32)
      { h with stateByte := 2, seq := 5, serial := 0, hostId := 0 }.bytes }

theorem test_witness_readWaits :
    let r := { rq .read with seq := 4, bufLength := 32 }
    let full := List.replicate 2 { chan := 3, data := [] : ReadBuffer }
    let w := { (doing 1 r .waitReadBuffer stored) with journal.readWaiters := [1, 2] }
    let f := { (doing 1 r .handed stored) with journal.readBuffers := full }
    let b := { (doing 1 r .handed stored) with journal.readWaiters := [2] }
    Executes 1 .read .waitReadBuffer (ex r .waitReadBuffer) w ∧ w.journal.readWaiters = 1 :: [2] ∧
      w.journal.readBuffers.length < 2 ∧ w.journal.head < 4 ∧ 4 < w.journal.nextSeq ∧ (w.lookup 4).isSome = true ∧
      Executes 1 .read .handed (ex r .handed) f ∧ 2 ≤ f.journal.readBuffers.length ∧
      Executes 1 .read .handed (ex r .handed) b ∧ b.journal.readBuffers.length < 2 ∧ b.journal.readWaiters ≠ [] := by
  decide +kernel

theorem test_witness_read :
    Executes 1 .read .handed (ex { rq .read with seq := 4 } .handed) (doing 1 { rq .read with seq := 4 } .handed stored) ∧
      (stored.lookup 4).map (fun x => (x.1, x.2.1, x.2.2.stateByte, x.2.2.serial)) = some (3, 0, 1, 1) ∧
      (stored.lookup 5).map (fun x => (x.1, x.2.1, x.2.2.stateByte, x.2.2.serial)) = some (3, 32, 2, 0) ∧
      { stored with journal.chain := [] }.lookup 4 = none ∧ stored.journal.head = 3 ∧
      stored.journal.nextSeq = 6 ∧ stored.journal.readBuffers.length < 2 ∧ stored.journal.readWaiters = [] ∧
      (∀ t ∈ stored.txns.table, t.serial ≠ 1) ∧
      (∃ t ∈ { stored with txns.table := [aTxn false] }.txns.table, t.serial = 1) := by decide +kernel

theorem test_witness_transfers :
    Executes 1 .append .staging (ex (rq .append) .staging) (doing 1 (rq .append) .staging base) ∧
      Executes 1 .read (.readWrite 4 Stamp.zero 32) (ex (rq .read) (.readWrite 4 Stamp.zero 32))
        (doing 1 (rq .read) (.readWrite 4 Stamp.zero 32) base) ∧
      Executes 1 .read .waitReadBuffer (ex (rq .read) .waitReadBuffer) (doing 1 (rq .read) .waitReadBuffer base) :=
  ⟨doing_executes _ _ _ _, doing_executes _ _ _ _, doing_executes _ _ _ _⟩

theorem test_witness_flush :
    let s := doing 1 (rq .flush) .handed base
    let m := s.setSeg 3 { openSeg with state := .failed }
    Executes 1 .flush .handed (ex (rq .flush) .handed) s ∧ s.journal.formatted = true ∧
      s.waitRecordFree = true ∧ s.store.reservationWaiters = [] ∧ s.mediaFault = false ∧ m.mediaFault = true ∧
      s.store.storedThrough < s.journal.nextSeq - 1 ∧
      { s with store.storedThrough := 5 }.journal.nextSeq - 1 ≤ 5 := by decide +kernel

/-- RELEASE at head (3), above it (5), at next seq (6), and into an open transaction. -/
theorem test_witness_release :
    let s := doing 1 { rq .release with seq := 5 } .handed stored
    let o := { s with txns.table := [aTxn false] }
    Executes 1 .release .handed (ex { rq .release with seq := 5 } .handed) s ∧ s.journal.formatted = true ∧
      s.journal.head < 5 ∧ 5 < s.journal.nextSeq ∧ s.journal.nextSeq ≤ 6 ∧
      s.budget.held = [] ∧ (∀ t ∈ s.txns.table, t.expired = false → 5 < t.firstSeq) ∧
      (∃ t ∈ o.txns.table, t.expired = false ∧ t.firstSeq ≤ 5 ∧
        ∀ x ∈ o.txns.table, x.expired = false → t.firstSeq ≤ x.firstSeq) := by decide +kernel

/-- A RELEASE over one FAILED segment, with an ALERT_WAIT that waits and with none. -/
theorem test_witness_releaseRetires :
    let s := doing 1 { rq .release with seq := 5 } .handed (stored.setSeg 3 { openSeg with state := .failed, unstoredFrom := none })
    let w := { s with cc.alertWaiters := [7] }
    (s.coveredMembers 5).filter (fun i => (s.seg i).state == .failed) = [3] ∧ s.cc.alertWaiters = [] ∧
      (w.coveredMembers 5).filter (fun i => (w.seg i).state == .failed) = [3] ∧ (w.chan 0).state = .active ∧
      w.budget.exposed = false ∧ w.dirtyCount ≤ w.budget.b ∧ s.cc.alerts.length = 0 := by decide +kernel

/-- The alert of the segment retired is in the list, and in the completion of a waiter. -/
theorem test_release_posts_alert :
    let s := doing 1 { rq .release with seq := 5 } .handed (stored.setSeg 3 { openSeg with state := .failed, unstoredFrom := none })
    after (.release 1) s (fun u => u.cc.alerts.map (fun a => (a.kind, a.seqValue, a.detail)) ==
        [(.segmentRetired, 5, 3 + 4 * 2 ^ 16)]) = true ∧
      after (.release 1) { s with cc.alertWaiters := [7] } (fun u =>
        u.cc.posts.map (fun p => (p.chan, p.completion.alertCode)) == [(0, 4), (1, 0)]) = true := by decide +kernel

/-- The commit's close of the OPEN segment: not covered, covered and free of a job, covered with a job. -/
theorem test_witness_closeOpen :
    let c := { base with journal.head := 5 }
    base.openSegment = some 3 ∧ (base.seg 3).coveredBy base.journal.head = false ∧ (base.seg 3).dirty = true ∧
      c.openSegment = some 3 ∧ (c.seg 3).coveredBy c.journal.head = true ∧ (c.seg 3).inStore = false ∧
      ((c.setSeg 3 { openSeg with inStore := true }).seg 3).inStore = true ∧
      ((c.setSeg 3 { openSeg with inStore := true }).seg 3).coveredBy c.journal.head = true := by decide +kernel

/-- The commit that frees a covered segment still dirty: S rises over it, and a waiting record completes first. -/
theorem test_commit_frees_covered_dirty :
    let s := { (doing 1 { rq .append with length := 4064 } .staging base) with
      journal.head := 5, staging.buffers := [{ chan := 1, data := [] }],
      store.waiting := [{ chan := 2, tag := 8, kind := .flush, target := 5, seq := 5, stamp := Stamp.zero,
                          reqKind := .flush, serial := 0, index := 0 }] }
    let t := s.setChan 2 { opened with inFlight := 1 }
    (t.openSegment = some 3 ∧ (t.seg 3).coveredBy t.journal.head = true ∧ (t.seg 3).inStore = false ∧
        ((prepareSegment 4096 t).chan 1).state = .active ∧ t.needsNew 32 = false) ∧
      t.CanAnswer (t.coverAnswers false 5) ∧
      after (.payloadReadEnd 1 (.data [0])) t (fun u =>
        u.store.storedThrough == 5 && u.store.waiting == [] && u.dirtyCount == 1 && u.journal.nextSeq == 7 &&
          u.cc.posts.map (fun p => (p.chan, p.completion.status, p.completion.seq)) == [(2, .ok, 5), (1, .ok, 6)]) =
        true := by
  unfold State.CanAnswer
  decide +kernel

/-- The search above the tail, its wrap past 511, an empty chain, and a commit that needs a new segment. -/
theorem test_witness_allocation :
    base.allocate none = some 0 ∧ base.allocate (some 3) = some 4 ∧ base.allocate (some 511) = some 0 ∧
      base.needsNew 4064 = true := by decide +kernel

/-- The search ends at the tail itself: the order of the numbers it goes through. -/
theorem test_allocation_ends_at_tail :
    (allocationOrder (some 7)).head? = some 8 ∧ (allocationOrder (some 7)).getLast? = some 7 ∧
      (allocationOrder none).head? = some 0 := by decide +kernel

theorem test_witness_format :
    let s := doing 0 (rq .format) .handed base
    let o := s.setChan 15 opened
    let w := doing 0 (rq .format) .formatWait base
    Executes 0 .format .handed (ex (rq .format) .handed) s ∧
      Executes 0 .format .formatWait (ex (rq .format) .formatWait) w ∧ (∀ c, c ≠ 0 → (s.chan c).state = .closed) ∧
      (∃ c, c ≠ 0 ∧ (o.chan c).state ≠ .closed) ∧
      w.working = true ∧ w.store.op = none ∧ w.budget.held = [] ∧ w.cc.alertWaiters = [] ∧
      { w with budget.exposed := true }.budget.exposed = true := by decide +kernel

theorem test_witness_formatClean :
    ∀ i, ((doing 0 (rq .format) .formatWait base).seg i).state = .retired →
      ((doing 0 (rq .format) .formatWait base).seg i).dirty = false := by
  intro i h
  change (base.seg i).state = .retired at h
  rcases base_seg i with hg | hg <;> rw [hg] at h <;> exact absurd h (by decide)

/-! ### Witnesses: control requests -/

/-- A control request with one byte set in its parameter area. -/
def ctl (k : Kind) (offset value : Nat) : Request :=
  { rq k with params := (List.range 32).map (fun i => if i + 32 = offset then BitVec.ofNat 8 value else 0) }

theorem test_witness_open :
    let r := ctl .openChannel 56 15
    let s := doing 0 r .handed base
    Executes 0 .openChannel .handed (ex r .handed) s ∧ r.openTarget = 15 ∧ (s.chan 15).state = .closed ∧
      ((s.setChan 15 opened).chan 15).state ≠ .closed := by decide +kernel

/-- A record of OPEN_CHANNEL for channel 15 that passes validation. -/
theorem test_witness_openRecord :
    let b := fitBytes 64 (leBytes 1 0x13 ++ (List.replicate 31 0 ++ (leBytes 8 0x10000 ++ leBytes 8 0x20000 ++
      leBytes 8 0x30000 ++ [0x3F, 0x20, 0x4C] ++ leBytes 2 4095 ++ leBytes 3 600000)))
    validateRecord 0 b = .passed (parseRequest .openChannel b) ∧ (parseRequest .openChannel b).kind = .openChannel ∧
      (parseRequest .openChannel b).openTarget = 15 ∧ (parseRequest .openChannel b).openedChannel.reqSlots = 4096 := by
  decide +kernel

/-- A waiting record of channel 1 with a kind and a target. -/
def waiter (kind : WaitKind) (target : Nat) : Waiter :=
  { chan := 1, tag := 7, kind := kind, target := target, seq := target, stamp := Stamp.zero, reqKind := .append,
    serial := 0, index := 0 }

/-- CLOSE_CHANNEL of channel 1 in each of its states, with FORCE and without; with the waiters of a DRAINING channel fewer
than its requests in flight and as many; of an ACTIVE channel with a request held, with waiters, and with nothing in
flight. -/
theorem test_witness_close :
    let r := ctl .closeChannel 32 1
    let q := { r with forceFlag := true }
    let s := doing 0 r .handed base
    let drained := { opened with state := .draining, inFlight := 1, pendingClose := some { tag := 9, cancelled := 0 } }
    let f := doing 0 q .handed { (base.setChan 1 drained) with store.waiting := [waiter .appendStored 5] }
    let a := s.setChan 1 { opened with inFlight := 1 }
    let h := doing 0 q .handed
      { (holding .budget) with store.waiting := [waiter .appendStored 5] }
    (Executes 0 .closeChannel .handed (ex r .handed) s ∧ r.closeTarget = 1 ∧ (s.chan 1).state = .closed) ∧
      (Executes 0 .closeChannel .handed (ex q .handed) f ∧ (f.chan 1).state = .draining ∧ q.forceFlag = true ∧
        (f.waitersOn 1).length = (f.chan 1).inFlight ∧ 0 < (f.chan 1).inFlight ∧
        (f.chan 1).pendingClose = some { tag := 9, cancelled := 0 } ∧
        ({ f with store.waiting := [] }.waitersOn 1).length < (f.chan 1).inFlight) ∧
      ((doing 0 r .handed f).chan 1).state = .draining ∧
      ((s.setChan 1 { opened with state := .faulted }).chan 1).state = .faulted ∧
      ((a.chan 1).state = .active ∧ (a.heldAnswer 1).length + ([] : List Waiter).length < (a.chan 1).inFlight ∧
        a.oldestIs 1 = false) ∧
      (((s.setChan 1 opened).chan 1).state = .active ∧
        ((s.setChan 1 opened).heldAnswer 1).length + ([] : List Waiter).length = ((s.setChan 1 opened).chan 1).inFlight) ∧
      (Executes 0 .closeChannel .handed (ex q .handed) h ∧ (h.chan 1).state = .active ∧ h.oldestIs 1 = true ∧
        (h.heldAnswer 1).length = 1 ∧ (h.waitersOn 1).length = 1) ∧
      (((h.setChan 1 { busy (rq .append) .held with inFlight := 2 }).heldAnswer 1).length + (h.waitersOn 1).length =
        ((h.setChan 1 { busy (rq .append) .held with inFlight := 2 }).chan 1).inFlight) := by
  decide +kernel

/-- Waiting records that an end of exposure and a rise of S satisfy, on an ACTIVE channel and on a DRAINING one. -/
theorem test_witness_answers :
    let s := { (base.setChan 1 opened) with
      budget.exposed := true, store.waiting := [waiter .appendExposed 5, waiter .appendStored 4] }
    let d := s.setChan 1 { opened with state := .draining, inFlight := 3 }
    s.exposureAnswers true = [waiter .appendExposed 5] ∧ s.exposureAnswers false = [] ∧
      s.coverAnswers true 4 = [waiter .appendStored 4] ∧ s.coverAnswers true 3 = [] ∧
      s.CanAnswer (s.exposureAnswers true ++ s.coverAnswers true 4) ∧
      d.CanAnswer (d.exposureAnswers true ++ d.coverAnswers true 4) ∧ s.cc.alertWaiters = [] := by
  unfold State.CanAnswer
  decide +kernel

/-- CONFIGURE with no channel setting, and of channel 0 where nothing but a CLOSED channel stands behind the number. -/
theorem test_witness_configure :
    let b := ctl .configure 32 1
    let v := { rq .configure with params := [8, 1] ++ List.replicate 30 0 }
    let s := doing 0 b .handed base
    let n := doing 0 v .handed base
    let a := n.setChan 1 opened
    Executes 0 .configure .handed (ex b .handed) s ∧ b.namesChannel = false ∧ b.selects 0 = true ∧
      s.budget.held = [] ∧ s.budgetLive = true ∧ Executes 0 .configure .handed (ex v .handed) n ∧
      v.namesChannel = true ∧ v.configureTarget = 1 ∧ (n.chan 1).state ≠ .active ∧ (a.chan 1).state = .active := by
  decide +kernel

/-- Host buffer lengths at the edge: 127 and 128 for QUERY, 255 and 256 for RECOVERY_REPORT. -/
theorem test_witness_reports :
    let q := { rq .query with bufLength := 128 }
    let p := { rq .recoveryReport with bufLength := 256 }
    Executes 0 .query .handed (ex q .handed) (doing 0 q .handed base) ∧ 128 ≤ q.bufLength ∧
      { q with bufLength := 127 }.bufLength < 128 ∧
      Executes 0 .recoveryReport .handed (ex p .handed) (doing 0 p .handed base) ∧ 256 ≤ p.bufLength ∧
      { p with bufLength := 255 }.bufLength < 256 ∧
      Executes 0 .query (.snapshotWrite 3 Stamp.zero) (ex q (.snapshotWrite 3 Stamp.zero))
        (doing 0 q (.snapshotWrite 3 Stamp.zero) base) ∧
      Executes 0 .recoveryReport .reportWrite (ex p .reportWrite) (doing 0 p .reportWrite base) := by decide +kernel

def anAlert : AlertRecord := { kind := .exposed, count := 255, seqValue := 0, detail := 1, stamp := Stamp.zero }

theorem test_witness_alerts :
    let s := doing 0 (rq .alertWait) .handed base
    let a := { s with cc.alerts := [anAlert] }
    let w := { s with cc.alertWaiters := [1, 2, 3, 4] }
    Executes 0 .alertWait .handed (ex (rq .alertWait) .handed) s ∧ a.cc.alerts = anAlert :: [] ∧ s.cc.alerts = [] ∧
      s.cc.alertWaiters.length < 4 ∧ w.cc.alerts = [] ∧ 4 ≤ w.cc.alertWaiters.length ∧
      w.cc.alertWaiters = 1 :: [2, 3, 4] ∧ (w.chan 0).live = true ∧ a.cc.alertWaiters = [] ∧
      (∃ x ∈ a.cc.alerts, x.kind = .exposed) ∧ (∀ x ∈ a.cc.alerts, x.kind ≠ .journalFull) := by decide +kernel

/-! ### Witnesses: the clock -/

/-- Ticks below, at and above last stamp; epoch 65535; a transfer that passes and one that regresses. -/
theorem test_witness_setClock :
    let r := ctl .setClock 32 100
    let s := { (doing 0 r .handed base) with clock.lastStamp := some { epoch := 0, ticks := 100 } }
    let t : Transfer := { ticks := 99, newEpoch := false, tag := 7 }
    let p := { (doing 0 r .clockTransfer base) with
               clock.transfer := some t, clock.lastStamp := some { epoch := 0, ticks := 100 } }
    Executes 0 .setClock .handed (ex r .handed) s ∧ s.clock.transfer = none ∧ r.newEpochFlag = false ∧
      s.clock.lastStamp = some { epoch := 0, ticks := 100 } ∧ r.param 32 6 = 100 ∧
      Stamp.le { epoch := 0, ticks := 100 } { epoch := s.clock.epoch, ticks := 100 } = true ∧
      Stamp.le { epoch := 0, ticks := 100 } { epoch := s.clock.epoch, ticks := 99 } = false ∧
      { s with clock.epoch := 65535 }.clock.epoch = 65535 ∧ s.clock.epoch ≠ 65535 ∧
      Executes 0 .setClock .clockTransfer (ex r .clockTransfer) p ∧ p.clock.transfer = some t ∧ t.newEpoch = false ∧
      p.clock.lastStamp = some { epoch := 0, ticks := 100 } := by decide +kernel

theorem test_witness_clockEvents :
    base.clock.oscRunning = true ∧ base.device ≠ .off ∧ { base with device := .off }.device = .off ∧
      { base with clock.oscRunning := false }.clock.oscRunning = false := by decide +kernel

/-- A stopped oscillator with clock-valid clear and the stop recorded, with a command that takes a step. -/
theorem test_witness_stopHolds :
    let s := { base with clock.oscRunning := false, clock.stopRecorded := true, pending := [.clockTick] }
    s.clock.oscRunning = false ∧ s.clock.StopHolds ∧ ∃ t, step s = .next t :=
  ⟨rfl, fun _ => ⟨rfl, rfl⟩, _, rfl⟩

/-- R110 and R114: an oscillator declared stopped in RECOVER, and one that has restarted since, leave clock-valid clear at a
decision CONTINUED; without a stop it is set (R116). -/
theorem test_stop_before_decision_leaves_clock_invalid :
    let s := { base with device := .recover, clock.batteryHeld := true, clock.validMarker := true }
    let restarted := after .oscillatorStop s (fun u => after .oscillatorRestart u (fun v =>
      v.clock.oscRunning && !(v.clock.decided none true).clockValid))
    after .oscillatorStop s (fun u => !u.clock.oscRunning && !(u.clock.decided none true).clockValid) = true ∧
      restarted = true ∧ (s.clock.decided none true).clockValid = true := by decide +kernel

/-! ### Witnesses: the store engine, the monitor, power and recovery -/

/-- A pass on segment 3 as an OPEN, a FULL and a FREEING segment, with retry counts 0, 1 and 2. -/
theorem test_witness_passes :
    let s := { (base.setSeg 3 { openSeg with inStore := true, snapshot := some 4 }) with store.op := some (.job 3 0) }
    let f := { s.setSeg 3 { openSeg with state := .full, inStore := true, retry := 2 } with
               store.op := some (.job 3 4096) }
    s.store.op = some (.job 3 0) ∧ s.working = true ∧ s.budget.held = [] ∧ (s.seg 3).state = .openS ∧
      (s.seg 3).retry < 2 ∧ (s.seg 3).grewInStore = true ∧ f.store.op = some (.job 3 4096) ∧
      (f.seg 3).state = .full ∧ (f.seg 3).retry = 2 ∧ f.working = true ∧ f.cc.alertWaiters = [] ∧
      ((s.setSeg 3 { openSeg with state := .freeing }).seg 3).state = .freeing := by decide +kernel

/-- A segment that fails on its third pass, with a held record, a record of its own and one that an earlier S covers. -/
theorem test_witness_segmentFails :
    let s := { ((holding .budget).setSeg 3 { openSeg with inStore := true, retry := 2 }) with
      store.op := some (.job 3 0), store.waiting := [waiter .appendStored 5, waiter .appendExposed 4],
      budget.exposed := true }
    s.store.op = some (.job 3 0) ∧ s.working = true ∧ (s.seg 3).state = .openS ∧ (s.seg 3).retry = 2 ∧
      s.cc.alertWaiters = [] ∧ s.HeldSetLaw ∧ s.journal.nextSeq ≠ 2 ^ 48 - 1 ∧
      s.CanAnswer (s.exposureAnswers true ++ s.store.waiting) ∧ ((failSegment 3 s).seg 3).dirty = false := by
  unfold State.HeldSetLaw State.CanAnswer
  decide +kernel

/-- A failure that ends the exposure: a record of another dirty segment completes OK, then the record of the failed segment
and the one that waits for storage complete NV_FAULT. -/
theorem test_failure_answers_lost_entry :
    let s := { ((base.setSeg 3 { openSeg with state := .full, inStore := true, retry := 2 }).setSeg 4
        { openSeg with firstSeq := some 6, lastSeq := some 6, unstoredFrom := some 6 }) with
      journal.chain := [3, 4], journal.nextSeq := 7, store.op := some (.job 3 0), budget.b := 1, budget.exposed := true,
      store.waiting := [waiter .appendExposed 5, waiter .appendExposed 6, waiter .appendStored 6] }
    let t := s.setChan 1 { opened with inFlight := 3 }
    after (.storePassEnd false) t (fun u =>
      u.cc.posts.map (fun p => (p.completion.status, p.completion.seq)) == [(.ok, 6), (.nvFault, 5), (.nvFault, 6)] &&
        !u.budget.exposed && u.store.waiting == []) = true := by decide +kernel

def aCheckpoint : Checkpoint :=
  { generation := 1, format := 0, head := 0, nextSeq := 6, nextSerial := 1, lastStamp := none, clockValid := false,
    learned := none, retired := [], failed := [], emergency := false, dirtyAtEmergency := 0,
    exposedAtEmergency := false }

theorem test_witness_checkpoint :
    let s := { base with store.op := some (.checkpoint .a aCheckpoint 2) }
    let f := { (doing 0 (rq .format) .formatCheckpoint base) with store.op := some (.checkpoint .a aCheckpoint 0) }
    let v := { base with device := .recover, window.enable := false, store.op := some (.checkpoint .b aCheckpoint 1) }
    s.store.op = some (.checkpoint .a aCheckpoint 2) ∧ s.store.lineStore = .none ∧ s.working = true ∧
      (s.chan 0).exec = none ∧ aCheckpoint.emergency = false ∧ s.cc.alertWaiters = [] ∧
      f.store.op = some (.checkpoint .a aCheckpoint 0) ∧ f.store.lineStore = .none ∧
      Executes 0 .format .formatCheckpoint (ex (rq .format) .formatCheckpoint) f ∧ f.working = true ∧
      v.device = .recover ∧ v.window.enable = false ∧ v.supply.latch = false := by decide +kernel

/-- The end of the recovery checkpoint's write with ENABLE 1: bases 0, 4096, and one that is not aligned; a latched request
with D at 0; FORMAT's write at its third failure. -/
theorem test_witness_recoverEnds :
    let v := { base with device := .recover, store.op := some (.checkpoint .b aCheckpoint 2), supply.latch := true,
                         window.ctrlBaseLo := 4096 }
    let w := { v with window.ctrlBaseLo := 4097 }
    let d := (v.setSeg 3 Segment.freeForm).setChan 0 Channel.closed
    let f := { (doing 0 (rq .format) .formatCheckpoint base) with store.op := some (.checkpoint .a aCheckpoint 2) }
    (v.window.enable = true ∧ v.window.base.toNat ≠ 0 ∧ v.window.base.toNat % 2 ^ 12 = 0 ∧ v.store.lineStore = .none ∧
        v.cc.alertWaiters = []) ∧
      w.window.base.toNat % 2 ^ 12 ≠ 0 ∧ base.window.base.toNat = 0 ∧
      (d.supply.latch = true ∧ d.dirtyCount = 0 ∧ (d.chan 0).exec = none ∧ d.store.metadataDirty = false ∧
        { d with store.metadataDirty := true }.store.metadataDirty = true) ∧
      (f.working = true ∧ f.cc.alertWaiters = [] ∧ f.store.lineStore = .none ∧
        Executes 0 .format .formatCheckpoint (ex (rq .format) .formatCheckpoint) f) := by decide +kernel

theorem test_witness_building :
    ∃ b, { base with recovery.building := some b }.recovery.building = some b :=
  ⟨{ outcome := .clean, checkpointUsed := none, format := 0, head := 0, nextSeq := 1, nextSerial := 1,
     liveEntries := 0, sealedTxns := 0, discardedTxns := 0, voidEntries := 0, absentRanges := [],
     absentOverflow := false, absentTotal := 0, segmentsRetired := 0, unlistedFailures := false, clockLost := false,
     exposedAtLoss := false, dirtyAtLoss := 0, storedAtLoss := none, checkpointFailed := false }, rfl⟩

/-- A line low for 999 ns and for 1000 ns. -/
theorem test_witness_storeTriggers :
    { base with store.idleTimer := some 50 }.store.idleTimer = some 50 ∧ base.openSegment = some 3 ∧
      (base.seg 3).dirty = true ∧ (base.seg 3).inStore = false ∧ 999 < 1000 ∧ base.supply.driveLow = false ∧
      base.working = true ∧ base.store.lineStore = .none ∧
      { base with store.op := some (.job 3 0) }.store.op ≠ none ∧ { base with device := .recall }.device = .recall := by
  decide +kernel

/-- A line store that begins in FORMAT's checkpoint write is in its CHECKPOINT phase, and ends with that write. -/
theorem test_line_store_takes_format_write :
    let s := { ((doing 0 (rq .format) .formatCheckpoint base).setSeg 3 Segment.freeForm) with
      store.op := some (.checkpoint .a aCheckpoint 0) }
    Executes 0 .format .formatCheckpoint (ex (rq .format) .formatCheckpoint) s ∧
      (∀ e, (base.chan 0).exec = some e → e.stage ≠ .formatCheckpoint) ∧
      after (.pstoreRequest 1000) s (fun u => u.store.lineStore == .checkpoint && u.cc.fetchPaused &&
        after (.checkpointWriteEnd true) u (fun w => w.store.lineStore == .none && !w.cc.fetchPaused)) = true := by
  refine ⟨by decide +kernel, fun e h => ?_, by decide +kernel⟩
  rw [show (base.chan 0).exec = none by decide +kernel] at h
  cases h

/-- A line store at the end of the one dirty segment's job, with metadata dirty and not; in its checkpoint write, with a
dirty segment and with none. -/
theorem test_witness_lineStore :
    let g := { openSeg with inStore := true, snapshot := some 5 }
    let s := { (base.setSeg 3 g) with store.op := some (.job 3 0), store.lineStore := .segments,
                                      store.metadataDirty := true }
    let c := { base with store.op := some (.checkpoint .a aCheckpoint 2), store.lineStore := .checkpoint }
    (s.store.op = some (.job 3 0) ∧ s.working = true ∧ s.budget.held = [] ∧ s.store.lineStore = .segments ∧
        (s.seg 3).state = .openS ∧ (s.seg 3).grewInStore = false ∧ s.dirtyCount = 1 ∧ s.formatHold = false ∧
        (s.chan 0).exec = none) ∧
      { s with store.metadataDirty := false }.store.metadataDirty = false ∧
      (c.store.op = some (.checkpoint .a aCheckpoint 2) ∧ c.working = true ∧ c.store.lineStore = .checkpoint ∧
        c.formatHold = false ∧ (c.chan 0).exec = none ∧ 0 < c.dirtyCount) ∧
      (c.setSeg 3 Segment.freeForm).dirtyCount = 0 := by decide +kernel

/-- FORMAT waits in a line store, or is handed over: the line store does not end before it, nor does a checkpoint of it
start; and a line store in its own checkpoint or in FORMAT's, D at 0. -/
theorem test_lineStore_waits_for_format :
    let s := { ((doing 0 (rq .format) .formatWait base).setSeg 3 Segment.freeForm) with
      store.lineStore := .segments, store.metadataDirty := false, cc.fetchPaused := true }
    let h := { (doing 0 (rq .format) .handed s) with store.metadataDirty := true }
    let f := { (doing 0 (rq .format) .formatCheckpoint s) with store.op := some (.checkpoint .a aCheckpoint 2) }
    (lineStoreTest s).store.lineStore = .segments ∧ (lineStoreTest h).store.op = none ∧
      (lineStoreTest h).store.lineStore = .segments ∧
      (lineStoreTest (s.setChan 0 opened)).store.lineStore = .none ∧
      (lineStoreAfterCheckpoint false { h with store.lineStore := .checkpoint }).store.op = none ∧
      (lineStoreAfterCheckpoint false { h with store.lineStore := .checkpoint }).store.lineStore = .segments ∧
      (Executes 0 .format .handed (ex (rq .format) .handed) h ∧ h.dirtyCount = 0) ∧
      (Executes 0 .format .formatWait (ex (rq .format) .formatWait) s ∧ s.dirtyCount = 0) ∧
      (Executes 0 .format .formatCheckpoint (ex (rq .format) .formatCheckpoint) f ∧ f.store.lineStore ≠ .none ∧
        f.dirtyCount = 0) := by decide +kernel

/-- Readings of 2499 and 2500 mV in EMERGENCY, and any reading in RUNNING. -/
theorem test_witness_measurement :
    base.budgetLive = true ∧ base.budget.held = [] ∧ base.device ≠ .off ∧
      { base with device := .emergency }.device = .emergency ∧ 2499 < 2500 ∧ 2500 ≤ 2500 := by decide +kernel

/-- A sag run: readings of 7999 and 8000 mV, a run that starts, one at 199,999 µs and one at 200,000 µs. -/
theorem test_witness_sag :
    let s := { base with monitor.charge := .charged, monitor.sagStart := some 0, monitor.nextMeasurement := 200000 }
    let q := { s with monitor.sagStart := none }
    (s.device ≠ .off ∧ s.monitor.charge = .charged ∧ 7999 < 8000 ∧ 8000 ≤ 8000 ∧ s.monitor.sagRaised = false ∧
        s.cc.alertWaiters = [] ∧ q.monitor.sagStart = none ∧ base.monitor.charge ≠ .charged) ∧
      after (.measurement 7999) s (fun u => u.now - 0 == 200000 && u.monitor.sagRaised &&
        u.cc.alerts.any (fun a => a.kind == .holdupFault && a.detail == 3 + 7999 * 2 ^ 32)) = true ∧
      after (.measurement 7999) { s with monitor.nextMeasurement := 199999 } (fun u =>
        u.now - 0 == 199999 && !u.monitor.sagRaised && !u.cc.alerts.any (fun a => a.kind == .holdupFault)) = true := by
  decide +kernel

/-- Learned capacitances at the edges of the range: 100 and 4700 µF, and one unit of time beyond each. -/
theorem test_witness_learning :
    base.device ≠ .off ∧ base.monitor.charge = .charging ∧ base.monitor.faultRaised = false ∧
      { base with monitor.learning := .timing, monitor.keptCrossing := 10 }.monitor.learning = .timing ∧
      base.monitor.learning = .waiting ∧ 1200 ≤ 1210 - 10 ∧ 56410 - 10 ≤ 56400 ∧ 1209 - 10 < 1200 ∧
      56400 < 56411 - 10 ∧ base.cc.alertWaiters = [] := by decide +kernel

theorem test_witness_power :
    base.working = true ∧ base.supply.good = true ∧ base.store.op = none ∧
      { base with store.op := some (.job 3 0) }.store.op ≠ none ∧ { base with device := .recover }.device = .recover ∧
      { base with device := .halted, supply.good := false }.device = .halted ∧
      { base with device := .off }.clock.intact = true ∧
      { base with device := .off, clock.intact := false }.clock.intact = false := by decide +kernel

/-- The emergency sequence: the finishing job and a job of the SEGMENTS phase, of a FREEING segment, of one that grew, of
one that fails for the third time; a failed list of 7 and 8; the checkpoint writes. -/
theorem test_witness_sequence :
    let g := { openSeg with inStore := true, snapshot := some 4, retry := 2 }
    let s := { (base.setSeg 3 g) with device := .emergency, store.op := some (.job 3 0), store.phase := .finishing }
    let w := { s with store.phase := .segments, store.failedList := List.replicate 7 9, store.queue := [3] }
    let c := { s with store.op := some (.checkpoint .a aCheckpoint 2) }
    (s.device = .emergency ∧ s.cc.alertWaiters = [] ∧ s.store.op = some (.job 3 0) ∧ s.store.phase = .finishing ∧
        (s.seg 3).state = .openS ∧ (s.seg 3).grewInStore = true ∧ 2 ≤ (s.seg 3).retry) ∧
      ((s.setSeg 3 { g with state := .freeing }).seg 3).state = .freeing ∧
      (w.store.phase = .segments ∧ w.store.failedList.length < 8 ∧ w.store.queue = 3 :: []) ∧
      8 ≤ { w with store.failedList := List.replicate 8 9 }.store.failedList.length ∧
      (c.store.op = some (.checkpoint .a aCheckpoint 2) ∧ c.store.phase = .finishing ∧ aCheckpoint.emergency = false ∧
        { c with store.phase := .checkpoint }.store.phase = .checkpoint ∧
        { aCheckpoint with emergency := true }.emergency = true ∧ (2 : Nat) ≤ 2) ∧
      (s.journal.chain.find? (fun j => (s.seg j).dirty && (s.seg j).state != .failed) = some 3 ∧
        (∀ j ∈ s.journal.chain, ((s.setSeg 3 Segment.freeForm).seg j).dirty = false)) := by decide +kernel

/-- The host writes in progress at an abandonment: the data of a READ, a completion record, a status block and one that
follows it. -/
theorem test_writes_in_progress :
    let s := { (doing 1 (rq .read) (.readWrite 4 Stamp.zero 32) base) with
      cc.posts := [aPost .record, aPost .queued],
      cc.statusWrites := [{ chan := 1, addr := 0x30000, purpose := .ignored }, { chan := 1, addr := 0x30000, purpose := .ignored }] }
    s.hostWrites = [(0x40000, 32), (0x20000, 32), (0x30000, 16), (0x30000, 0)] := by decide +kernel

/-- A host reset with an operation in flight, and with nothing queued. -/
theorem test_witness_hostReset :
    let s := { base with store.op := some (.job 3 100), budget.pressure := true }
    s.device ≠ .off ∧ s.store.op = some (.job 3 100) ∧ s.budget.pressure = true ∧ base.store.queue = [] ∧
      base.dirtyCount + base.budget.headroom < base.budget.b ∧
      { base with store.op := some (.checkpoint .a aCheckpoint 0) }.store.op ≠ none := by decide +kernel

/-- A host reset that drops the FORMAT a line store waits for leaves the line store, the flag and the drive; the next
measurement ends it. -/
theorem test_hostReset_keeps_line_store :
    let s := { ((doing 0 (rq .format) .formatWait base).setSeg 3 Segment.freeForm) with
      store.lineStore := .segments, cc.fetchPaused := true, supply.driveLow := true }
    after (.hostReset .hotReset) s (fun u =>
      u.store.lineStore == .segments && u.cc.fetchPaused && u.supply.driveLow && (u.chan 0).exec.isNone &&
        after (.measurement 10000) u (fun w => w.store.lineStore == .none && !w.cc.fetchPaused && !w.supply.driveLow)) =
      true := by decide +kernel

theorem test_witness_closingMark :
    let m : ClosingMark := { generation := 1, storedCount := 1, failedList := [], overflow := false }
    let s := { base with device := .emergency, supply.good := false, store.op := some (.closingMark m 2) }
    s.store.op = some (.closingMark m 2) ∧ s.supply.good = false ∧
      { s with supply.good := true }.supply.good = true := by decide +kernel

/-- Two valid slots, the newer in B across the wrap of the generation, and in A. -/
theorem test_witness_recall :
    let x := { aCheckpoint with generation := 0xFFFFFFFF }
    let y := { aCheckpoint with generation := 0, emergency := true }
    let s := { base with device := .recall, array.slotA := some x, array.slotB := some y }
    s.device = .recall ∧ s.array.slotA = some x ∧ s.array.slotB = some y ∧ y.generation = x.generation + 1 ∧
      base.device ≠ .recall ∧ x.emergency = false ∧ y.emergency = true := by decide +kernel

/-- Neither of the two slots follows the other; and closing marks that match and follow a checkpoint with the emergency
flag set and with it clear. -/
theorem test_witness_recallApart :
    let x := { aCheckpoint with generation := 7 }
    let y := { aCheckpoint with generation := 3, emergency := true }
    let mark := fun (g : BitVec 32) => ({ generation := g, storedCount := 1, failedList := [], overflow := false } :
      ClosingMark)
    (y.generation ≠ x.generation + 1 ∧ x.generation ≠ y.generation + 1 ∧ y.generation.toNat ≤ x.generation.toNat) ∧
      (y.emergency = true ∧ (mark 3).generation = y.generation ∧ (mark 4).generation = y.generation + 1 ∧
        (mark 4).generation ≠ y.generation) ∧
      (x.emergency = false ∧ (mark 8).generation = x.generation + 1 ∧ (mark 7).generation ≠ x.generation + 1) ∧
      (judgeOutcome (some y) (some (mark 4))) = (.incomplete, some (mark 4)) ∧
      (judgeOutcome (some x) (some (mark 7))) = (.incomplete, none) := by decide +kernel

theorem test_witness_scan :
    let s := { base with device := .recover, recovery.scanning := true }
    s.device = .recover ∧ s.recovery.scanning = true ∧ s.recovery.checkpoint = none ∧
      { s with recovery.checkpoint := some aCheckpoint }.recovery.checkpoint = some aCheckpoint := by decide +kernel

/-! ### Witnesses: the clauses at their edges -/

/-- A NOTIFY that leaves one channel eligible with no fetch in flight, and the commands that post an alert and nothing else
with an ALERT_WAIT that waits and with none. -/
theorem test_witness_arbiterAtRest :
    let s := base.setChan 1 opened
    let t := s.setChan 1 { s.chan 1 with hostProducer := 1 }
    (s.working = true ∧ (s.chan 1).live = true ∧ 1 < (s.chan 1).reqSlots ∧ s.store.lineStore = .none ∧
        s.cc.fetch = none ∧ t.eligible 1 = true ∧ ∀ e, t.eligible e = true → t.turn 1 ≤ t.turn e) ∧
      base.cc.alertWaiters = [] ∧ { base with cc.alertWaiters := [7] }.cc.alertWaiters ≠ [] ∧
      (Instr.clockTick ≠ .oscillatorStop ∧ Instr.clockTick ≠ .notCharged ∧ Instr.clockTick ≠ .learnTimeout) ∧
      after .oscillatorStop base (fun _ => true) = true ∧ after (.notify 1 1) s (fun u => u.cc.fetch == some 1) = true := by
  decide +kernel

/-- A drain that ends with no close pending, on channel 0, and with a close that a FAULTED channel 0 cannot take. -/
theorem test_witness_drainWithoutClose :
    let d := { opened with state := .draining }
    let s := base.setChan 1 d
    let z := base.setChan 0 d
    let f := (base.setChan 1 { d with pendingClose := some { tag := 9, cancelled := 0 } }).setChan 0
      { opened with state := .faulted }
    ((s.chan 1).state = .draining ∧ (s.chan 1).inFlight = 0 ∧ (s.chan 1).pendingClose = none) ∧
      ((z.chan 0).state = .draining ∧ (z.chan 0).inFlight = 0) ∧
      ((f.chan 1).state = .draining ∧ (f.chan 1).inFlight = 0 ∧ (f.chan 1).pendingClose ≠ none ∧
        (f.chan 0).live = false) := by decide +kernel

/-- A wait-list record handed to an APPEND while no staging buffer is free, to an APPEND behind others that wait for one, and
to a FLUSH. -/
theorem test_witness_handOver :
    let s := { (doing 1 (rq .append) .waitReservation base) with
      store.reservationWaiters := [1, 2], staging.buffers := List.replicate 4 { chan := 2, data := [] } }
    let b := { s with staging.buffers := [], staging.waiters := [3] }
    let f := { (doing 1 (rq .flush) .waitReservation base) with store.reservationWaiters := [1, 2] }
    (s.store.reservationWaiters = 1 :: [2] ∧ s.waitRecordFree = true ∧ 4 ≤ s.staging.buffers.length ∧
        Executes 1 .append .waitReservation (ex (rq .append) .waitReservation) s) ∧
      (b.waitRecordFree = true ∧ b.staging.waiters ≠ [] ∧
        Executes 1 .append .waitReservation (ex (rq .append) .waitReservation) b) ∧
      (f.journal.formatted = true ∧ f.waitRecordFree = true ∧ f.store.reservationWaiters.head? = some 1 ∧
        Executes 1 .flush .waitReservation (ex (rq .flush) .waitReservation) f ∧ f.mediaFault = false ∧
        f.store.storedThrough < f.journal.nextSeq - 1) ∧
      (f.openSegment = some 3 ∧ (f.seg 3).dirty = true ∧ (f.seg 3).firstSeq = some 4 ∧ (f.seg 3).lastSeq = some 5 ∧
        4 ≤ f.journal.nextSeq - 1 ∧ f.journal.nextSeq - 1 ≤ 5) := by decide +kernel

/-- An APPEND with a key and no transaction record that is held for BUDGET, a SEAL of an OPEN transaction held behind an older
record, and one held for SPACE with the journal-full flag clear. -/
theorem test_witness_heldAttempts :
    let k := { rq .append with hostId := 6 }
    let l := { rq .sealTxn with hostId := 5 }
    let clean := base.setSeg 3 { openSeg with unstoredFrom := none }
    let a := { (doing 1 k .staging clean) with
      budget.b := 0, staging.buffers := [{ chan := 1, data := [] }], txns.table := [aTxn false] }
    let o := doing 1 l .handed { clean with
      txns.table := [aTxn false],
      budget.held := [{ chan := 2, tag := 1, reason := .space, footprint := 32, key := none }] }
    let f := doing 1 l .handed { base with
      txns.table := [aTxn false], journal.chain := [3], journal.segs := Vector.replicate 512 { openSeg with state := .full } }
    (Attempts 1 (ex k .staging) (fitBytes 0 [0]) (.payloadReadEnd 1 (.data [0])) a ∧
        (∀ status, ¬ Refused 1 (ex k .staging) a status) ∧ a.needsClean 32 = true ∧
        AdmissionRefused 32 .budget a ∧ (a.findTxn 1 6).isNone = true) ∧
      (Attempts 1 (ex l .handed) [] (.sealTxn 1) o ∧ (∀ status, ¬ Refused 1 (ex l .handed) o status) ∧
        o.needsClean 32 = true ∧ AdmissionRefused 32 .space o) ∧
      (Attempts 1 (ex l .handed) [] (.sealTxn 1) f ∧ (∀ status, ¬ Refused 1 (ex l .handed) f status) ∧
        f.needsClean 32 = true ∧ AdmissionRefused 32 .space f ∧ f.journal.full = false ∧ f.cc.alertWaiters = []) := by
  simp only [← refusalAt_none_iff]
  exact ⟨⟨⟨by decide +kernel, Or.inl ⟨[0], rfl, rfl, rfl, by decide +kernel, rfl⟩⟩, by decide +kernel, by decide +kernel,
      Or.inr (Or.inl (by decide +kernel)), by decide +kernel⟩,
    ⟨⟨by decide +kernel, Or.inr ⟨rfl, rfl, by decide +kernel, Or.inl (by decide +kernel)⟩⟩, by decide +kernel,
      by decide +kernel, Or.inr (Or.inr ⟨by decide +kernel, by decide +kernel, _, _, rfl, rfl⟩)⟩,
    ⟨⟨by decide +kernel, Or.inr ⟨rfl, rfl, by decide +kernel, Or.inl (by decide +kernel)⟩⟩, by decide +kernel,
      by decide +kernel, Or.inl (by decide +kernel), by decide +kernel, by decide +kernel⟩⟩

/-- The third entry of segment 3, behind the entries 4 and 5, and a segment that it fills to its end. -/
theorem test_witness_placed :
    let h : Header := { format := 0, stateByte := 1, sealFlag := false, clockValid := false, channel := 1, length := 2,
                        seq := 6, hostId := 0, serial := 0, index := 0, stamp := Stamp.zero, crc := 0 }
    Placed 3 h [1, 2] stored (recordEntry 3 1 (rq .append) h [1, 2] stored) ∧ h.Fits ∧ 3 ∈ stored.journal.chain ∧
      stored.Filled 3 ∧ (stored.seg 3).fill + footprint h.length ≤ 4096 ∧
      (stored.seg 3).fill + footprint 4000 = 4096 ∧ (∀ a ∈ (stored.seg 3).firstSeq, a ≤ h.seq) ∧
      (∀ e ∈ stored.entriesOf 3, e.2.seq ≠ h.seq) ∧
      ∀ j ∈ stored.journal.chain, j ≠ 3 → (stored.seg j).holdsSeq h.seq = false := by
  refine ⟨recordEntry_placed _ _ _ _ _ _, ?_, ?_⟩
  · unfold Header.Fits; decide +kernel
  · unfold State.Filled; decide +kernel

/-- The refusals of a READ that is handed a returned buffer: at head, at next seq, of a VOID entry. -/
theorem test_witness_claimRefusals :
    let s := fun (n : Nat) => { (doing 1 { rq .read with seq := n } .waitReadBuffer stored) with journal.readWaiters := [1, 2] }
    let answers := fun (n : Nat) (status : Status) => after .readBufferClaim (s n) (fun u =>
      u.cc.posts.map (fun p => p.completion.status) == [status] && u.journal.readWaiters == [2])
    Executes 1 .read .waitReadBuffer (ex { rq .read with seq := 3 } .waitReadBuffer) (s 3) ∧
      (s 3).journal.readWaiters.head? = some 1 ∧ (s 3).journal.readBuffers.length < 2 ∧ (s 3).journal.head = 3 ∧
      (s 3).journal.nextSeq = 6 ∧ answers 3 .released = true ∧ answers 6 .range = true ∧
      answers 5 .discarded = true := by decide +kernel

/-- A covered OPEN segment that is clean. -/
theorem test_witness_closeClean :
    let c := { (base.setSeg 3 { openSeg with unstoredFrom := none }) with journal.head := 5 }
    c.openSegment = some 3 ∧ (c.seg 3).coveredBy c.journal.head = true ∧ (c.seg 3).inStore = false ∧
      (c.seg 3).dirty = false := by decide +kernel

/-- A segment that grew in its job: with FORMAT waiting, at the 32nd job since metadata became dirty, and at the 31st. -/
theorem test_witness_requeued :
    let g := { openSeg with inStore := true, snapshot := some 4 }
    let s := { (base.setSeg 3 g) with store.op := some (.job 3 0), store.queue := [3], store.metadataDirty := true,
                                      store.jobsSinceDirty := 31 }
    let w := { (doing 0 (rq .format) .formatWait (base.setSeg 3 g)) with store.op := some (.job 3 0) }
    (s.store.op = some (.job 3 0) ∧ s.working = true ∧ s.budget.held = [] ∧ (s.seg 3).state = .openS ∧
        (s.seg 3).grewInStore = true ∧ s.formatHold = false ∧ s.store.metadataDirty = true ∧
        32 ≤ s.store.jobsSinceDirty + 1 ∧ s.cc.alertWaiters = []) ∧
      { s with store.jobsSinceDirty := 30 }.store.jobsSinceDirty + 1 < 32 ∧
      (3 : SegId) ∈ s.store.queue ∧ s.store.queue = 3 :: [] ∧
      (w.store.op = some (.job 3 0) ∧ (w.seg 3).grewInStore = true ∧
        Executes 0 .format .formatWait (ex (rq .format) .formatWait) w) := by decide +kernel

/-- A line-store request with no operation in flight: with a dirty segment queued, with the OPEN one dirty and nothing queued,
with D at 0 and metadata dirty, with D at 0 and nothing to store, and with FORMAT waiting. -/
theorem test_witness_lineStoreBegins :
    let q := { base with store.queue := [3] }
    let z := base.setSeg 3 Segment.freeForm
    let w := doing 0 (rq .format) .formatWait z
    (base.working = true ∧ base.store.lineStore = .none ∧ base.supply.driveLow = false ∧ base.store.op = none ∧
        base.formatHold = false ∧ 0 < base.dirtyCount ∧ base.store.queue = [] ∧ base.openSegment = some 3 ∧
        (base.seg 3).dirty = true ∧ (base.seg 3).inStore = false) ∧
      (q.store.queue = 3 :: [] ∧ 0 < q.dirtyCount ∧ q.formatHold = false) ∧
      (z.dirtyCount = 0 ∧ z.store.op = none ∧ z.formatHold = false ∧ (z.chan 0).exec = none ∧
        z.store.metadataDirty = false ∧ { z with store.metadataDirty := true }.store.metadataDirty = true) ∧
      (w.formatHold = true ∧ w.store.op = none ∧
        Executes 0 .format .formatWait (ex (rq .format) .formatWait) w) := by decide +kernel

/-- The array operations that an entry to OFF cuts short, from EMERGENCY at 2499 mV and from RECOVER: an emergency checkpoint
leaves nothing valid in its slot. -/
theorem test_witness_cutOperations :
    let e := { base with device := .emergency, array.slotA := some aCheckpoint, array.slotB := some aCheckpoint }
    let c := fun (flag : Bool) => { e with store.op := some (.checkpoint .a { aCheckpoint with emergency := flag } 0) }
    let m : ClosingMark := { generation := 1, storedCount := 1, failedList := [], overflow := false }
    let r := { (c false) with device := .recover }
    (c false).store.op = some (.checkpoint .a aCheckpoint 0) ∧ (c false).device = .emergency ∧
      after (.measurement 2499) (c true) (fun u => u.slotOf .a == none && u.slotOf .b == some aCheckpoint) = true ∧
      after (.measurement 2499) { e with store.op := some (.closingMark m 0), array.closing := some m } (fun u =>
        u.array.closing == none && u.slotOf .a == some aCheckpoint) = true ∧
      (r.device = .recover ∧ r.supply.good = true ∧ r.store.op = some (.checkpoint .a aCheckpoint 0)) ∧
      { e with store.op := some (.job 3 64) }.store.op = some (.job 3 64) := by decide +kernel

/-- The entry to EMERGENCY with the OPEN segment dirty, in a job, and clean; waiters for every buffer are dropped. -/
theorem test_witness_emergencyQueue :
    let s := { base with staging.waiters := [1], journal.readWaiters := [2], journal.full := true }
    (base.openSegment = some 3 ∧ (base.seg 3).dirty = true ∧ (base.seg 3).inStore = false) ∧
      ((base.setSeg 3 { openSeg with inStore := true }).seg 3).inStore = true ∧
      ((base.setSeg 3 { openSeg with unstoredFrom := none }).seg 3).dirty = false ∧
      after .supplyFail s (fun u => u.staging.waiters == [] && u.journal.readWaiters == [] && !u.journal.full &&
        u.store.queue == [3]) = true := by decide +kernel

/-- The report of a recovery from an emergency checkpoint in slot B with a closing mark whose list overflowed. -/
theorem test_witness_reportOfLoss :
    let y := { aCheckpoint with emergency := true, dirtyAtEmergency := 4, exposedAtEmergency := true }
    let m : ClosingMark := { generation := 1, storedCount := 1, failedList := [], overflow := true }
    let s := { base with device := .recover, recovery.scanning := true, recovery.checkpoint := some y,
                         recovery.slot := some .b, recovery.outcome := .clean, recovery.mark := some m }
    s.device = .recover ∧ s.recovery.scanning = true ∧ s.recovery.checkpoint = some y ∧
      s.recovery.outcome = .clean ∧ s.recovery.mark = some m ∧ m.overflow = true := by decide +kernel

/-! ### Single steps -/

theorem test_enable_writes_status_block :
    after .enable { base with device := .ready, window.ctrlBaseLo := 0x1000 } (fun u =>
      u.device == .running && u.out.head? == some (.write 0x1C00 (statusBytes 0 0 .active none)) &&
        u.readWindow 4 == some 4) = true := by decide +kernel

/-- A fault of a DRAINING channel closes it, completes its close with FAULTED, the reason and its count, and records the
places where the two host writes stop. -/
theorem test_fault_ends_close :
    let u := faultChannel 1 .badIndex faulting
    u.chan 1 = Channel.closed ∧ u.cc.posts.map (fun p => (p.chan, p.completion.detail)) =
        [(0, 1 + 3 * 2 ^ 8 + 5 * 2 ^ 16 + 2 * 2 ^ 32)] ∧
      u.out.any (fun a => match a with
        | .abandoned cuts sent => sent && cuts.map Prod.fst == [0x40000, 0x20000]
        | _ => false) = true := by
  decide +kernel

theorem test_notify_past_ring_faults :
    after (.notify 1 32) (base.setChan 1 opened) (fun u =>
      (u.chan 1).state == .faulted && (u.chan 1).faultReason == some .badIndex &&
        u.cc.alerts.map AlertRecord.detail == [1 + 5 * 256]) = true := by decide +kernel

theorem test_notify_begins_fetch :
    after (.notify 1 1) (base.setChan 1 opened) (fun u =>
      u.cc.fetch == some 1 && (u.chan 1).inFlight == 1 && u.out.head? == some (.read 0x10000 64)) = true := by
  decide +kernel

theorem test_append_commits_entry :
    after (.payloadReadEnd 1 (.data [0xAA]))
      { (doing 1 { rq .append with length := 1 } .staging base) with staging.buffers := [{ chan := 1, data := [] }] }
      (fun u =>
        let h := parseHeader (u.journal.sram.readBytes (segBase 3 + 64) 32)
        h.seq == 6 && h.stateByte == 1 && h.length == 1 && h.channel == 1 && h.stamp == { epoch := 0, ticks := 100 } &&
          h.crc == entryCrc (h.bytes) [0xAA] && u.journal.sram.read (segBase 3 + 96) == 0xAA &&
          (u.seg 3).fill == 128 && u.journal.nextSeq == 7 && u.cc.posts.map Post.slot == [0]) = true := by
  decide +kernel

theorem test_flush_waits_and_queues :
    after (.flush 1) (doing 1 (rq .flush) .handed base) (fun u =>
      u.store.waiting.map Waiter.target == [5] && u.store.op == some (.job 3 0) && (u.chan 1).exec.isNone) = true := by
  decide +kernel

theorem test_pass_stores_segment :
    after (.storePassEnd true)
      { (stored.setSeg 3 { openSeg with inStore := true, snapshot := some 5 }) with store.op := some (.job 3 0) }
      (fun u => u.dirtyCount == 0 && u.store.storedThrough == 5 && u.array.shadow == stored.journal.sram) = true := by
  decide +kernel

theorem test_release_frees_full_segment :
    after (.release 1)
      (doing 1 { rq .release with seq := 5 } .handed (stored.setSeg 3 { openSeg with state := .full }))
      (fun u => u.seg 3 == Segment.freeForm && u.journal.chain == [] && u.journal.head == 5 &&
        u.cc.posts.map (fun p => p.completion.detail) == [1]) = true := by decide +kernel

theorem test_configure_limit_exposes :
    after .configure (doing 0 (ctl .configure 32 1) .handed base) (fun u =>
      u.budget.limit == 0 && u.budget.exposed && u.cc.alerts.map AlertRecord.kind == [.exposed]) = true := by
  decide +kernel

theorem test_supplyFail_starts_emergency_checkpoint :
    after .supplyFail base (fun u =>
      u.device == .emergency && u.store.phase == .checkpoint && u.supply.driveLow && u.store.queue == [3]) = true := by
  decide +kernel

/-- A LIVE standalone entry with seq 9 in segment 2, its check value right. -/
def found : Memory :=
  let h : Header := { format := 1, stateByte := 1, sealFlag := false, clockValid := false, channel := 1, length := 1,
                      seq := 9, hostId := 0, serial := 0, index := 0, stamp := Stamp.zero, crc := 0 }
  (Memory.writeBytes [] (segBase 2) { h with crc := entryCrc h.bodyBytes [0x55] }.bytes).write (segBase 2 + 32) 0x55

/-- The scan of one segment accepts the entry, and stops at it when a payload byte is spoiled. -/
theorem test_scan_accepts_entry :
    (scanSegment found 1 2).map (fun f => (f.off, f.header.seq)) = [(0, 9)] ∧
      scanSegment (found.write (segBase 2 + 32) 0x54) 1 2 = [] ∧ scanSegment found 2 2 = [] := by decide +kernel

/-- The header at an offset is accepted, and is not after an entry of the same seq. -/
theorem test_witness_scanAccepts :
    Accepts found (segBase 2) 1 0 0 (parseHeader (found.readBytes (segBase 2 + 0) 32)) ∧
      ¬ Accepts found (segBase 2) 1 0 9 (parseHeader (found.readBytes (segBase 2 + 0) 32)) ∧ (0 : Nat) + 32 ≤ 4096 := by
  simp only [← acceptHeader_iff]
  decide +kernel

/-- Two found entries of a segment, 4 at head and 9 above it: the range that is recovered. -/
theorem test_witness_ranges :
    let h := fun (seq : Nat) => ({ (parseHeader (found.readBytes (segBase 2) 32)) with seq := seq } : Header)
    let l : List Found := [{ seg := 2, off := 0, header := h 4 }, { seg := 2, off := 64, header := h 9 }]
    recoveredRange 4 l = some (9, 9) ∧ recoveredRange 9 l = none ∧ (∀ f ∈ l, f.header.seq ≤ 9) ∧
      l.find? (fun f => decide (4 < f.header.seq)) = l[1]? ∧ l.getLast? = l[1]? ∧
      ((aboveHead 3 l).map (fun f => f.header.seq)).Nodup := by decide +kernel

/-- A scan with one range kept: the segment found, the range's first and last entry, the next seq and the next serial they
ask for. -/
theorem test_witness_rebuilt :
    let h := fun (seq : Nat) => ({ (parseHeader (found.readBytes (segBase 2) 32)) with seq := seq } : Header)
    let l : List Found := [{ seg := 2, off := 0, header := h 4 }, { seg := 2, off := 64, header := h 9 }]
    keptScans 4 [l] = [l] ∧ l.head? = l[0]? ∧ l.getLast? = l[1]? ∧ 4 < (h 9).seq ∧
      (recoveredSegs 4 [l]).map Prod.fst = [2] ∧ rebuiltChain (recoveredSegs 4 [l]) = [2] ∧
      (fullRecord l).firstSeq = some 4 ∧ (fullRecord l).lastSeq = some 9 ∧ (fullRecord l).fill = 128 ∧
      rebuiltSerial 1 l = 1 ∧ rebuiltSerial (2 ^ 32 - 1) l = 2 ^ 32 - 1 ∧
      rebuiltSerial 1 [{ seg := 2, off := 0, header := { h 9 with serial := 2 ^ 32 - 1 } }] = 1 := by decide +kernel

/-- The runs of absent sequence numbers between 8 and 12 when 9 and 11 were found. -/
theorem test_absent_runs : absentRuns 12 8 [9, 11] = [(8, 8), (10, 10), (12, 12)] := by decide

end Sys2Proof.Tests
end

namespace Sys2Proof.Machine

/-! ### Properties of the journal's core that every step keeps

An invariant of SRAM, the shadow, the segment table, next seq and S is kept by every command when the few operations that
change one of these keep it: `Steady` names them, and `Steady.exec` is the induction over the meanings of the commands. -/

/-- SRAM, the shadow, next seq, S and the segment table, store jobs apart, are the same. -/
def SameCore (s t : State) : Prop :=
  t.journal.sram = s.journal.sram ∧ t.array.shadow = s.array.shadow ∧ t.journal.nextSeq = s.journal.nextSeq ∧
    t.store.storedThrough = s.store.storedThrough ∧ SameSegments s t

/-- The operations that change the journal's core keep `P`, and so does every operation that leaves the core alone. -/
structure Steady (P : State → Prop) : Prop where
  same : ∀ {s t : State}, P s → SameCore s t → P t
  advanceCopy : ∀ {s : State}, P s → ∀ i, P (advanceCopy i s)
  writeSegment : ∀ {s : State}, P s → ∀ i off bytes, P (writeSegment i off bytes s)
  finishCopy : ∀ {s : State}, P s → ∀ i written, P (finishCopy i written s)
  spoilShadow : ∀ {s : State}, P s → ∀ i, P (spoilShadow i s)
  recomputeS : ∀ {s : State}, P s → P (recomputeS s)
  commit : ∀ {s : State}, P s → ∀ c r, P (commit c r s)
  releaseMember : ∀ {s : State}, P s → ∀ i, P (releaseMember s i)
  retireSegment : ∀ {s : State}, P s → ∀ i, P (retireSegment i s)
  clearJournal : ∀ {s : State}, P s → P (clearJournal s)
  endJob : ∀ {s : State}, P s → ∀ i, P (endJob i s)
  failSegment : ∀ {s : State}, P s → ∀ i, P (failSegment i s)
  endFreeing : ∀ {s : State}, P s → ∀ i, P (endFreeing i s)
  powerOn : ∀ {s : State}, P s → ∀ v, P (powerOn v s)
  completeRecall : ∀ {s : State}, P s → P (completeRecall s)
  rebuildJournal : ∀ {s : State}, P s → ∀ r scans, P (rebuildJournal r scans s)

/-- Every next state that an outcome answers has `P`. -/
def NextHolds (P : State → Prop) (o : Result) : Prop := ∀ t, o = .next t → P t

theorem NextHolds.next {P : State → Prop} {u : State} (h : P u) : NextHolds P (.next u) :=
  fun _ e => Host.Outcome.next.inj e ▸ h

theorem nextEmergencySegment_segments (s : State) : SameSegments s (nextEmergencySegment s) := by
  simp only [nextEmergencySegment]
  split
  · rename_i i rest _
    exact startJobOn_segments i { s with store.queue := rest }
  · split
    · exact startJobOn_segments _ s
    · exact SameSegments.of_segs rfl

theorem emergencyAdvance_segments (s : State) : SameSegments s (emergencyAdvance s) := by
  simp only [emergencyAdvance]
  split
  · exact SameSegments.of_segs (by simp)
  · exact nextEmergencySegment_segments { s with store.phase := .segments }
  · exact nextEmergencySegment_segments s
  all_goals exact SameSegments.of_segs rfl

theorem retryPass_segments (i : SegId) (s : State) : SameSegments s (retryPass i s) := by
  intro j
  by_cases h : j = i
  · subst h
    simp only [retryPass, State.seg_modSeg_same]
    exact ⟨rfl, rfl, rfl, rfl, rfl⟩
  · simp only [retryPass, State.seg_modSeg_other _ _ h]
    exact Segment.SameLog.refl _

namespace Steady

section
variable {P : State → Prop} (hP : Steady P) {s : State} (h : P s)
include hP

/-- An operation that leaves every part of the core as it was. -/
theorem quiet {t : State} (h : P s)
    (e : t.journal.sram = s.journal.sram ∧ t.array.shadow = s.array.shadow ∧ t.journal.nextSeq = s.journal.nextSeq ∧
      t.store.storedThrough = s.store.storedThrough ∧ t.journal.segs = s.journal.segs) : P t :=
  hP.same h ⟨e.1, e.2.1, e.2.2.1, e.2.2.2.1, SameSegments.of_segs e.2.2.2.2⟩

omit hP in
theorem foldl {α : Type} (f : State → α → State) (hf : ∀ {s}, P s → ∀ x, P (f s x)) (l : List α) {s : State} (h : P s) :
    P (l.foldl f s) := foldl_invariant (P := P) f (fun _ x hs => hf hs x) l h

include h

/-! #### The end of an event -/

theorem startNext (test : Bool) : P (startNext test s) :=
  hP.same h ⟨by simp, by simp, by simp, by simp, startNext_segments test s⟩

theorem settle (test : Bool) : P (settle test s) :=
  hP.same h ⟨by simp, by simp, by simp, by simp, settle_segments test s⟩

theorem emergencyAdvance : P (emergencyAdvance s) :=
  hP.same h ⟨by simp, by simp, by simp, by simp, emergencyAdvance_segments s⟩

theorem retryPass (i : SegId) : P (retryPass i s) :=
  hP.same h ⟨by simp, by simp, by simp, by simp, retryPass_segments i s⟩

/-! #### Transactions made VOID, commits and grants -/

theorem voidTxn (t : TxnRecord) : P (voidTxn t s) :=
  foldl (P := P) markVoid (fun hs e => hP.writeSegment hs e.1 (e.2 + 2) [voidByte]) _ h

theorem endTxns (p : ChanId → Bool) : P (endTxns p s) := by
  have h' : P ((s.txns.table.filter (fun t => p t.chan && !t.expired)).foldl
      (fun s t => Machine.voidTxn t s) s) := foldl (P := P) _ (fun hs t => hP.voidTxn hs t) _ h
  exact hP.quiet h' ⟨rfl, rfl, rfl, rfl, rfl⟩

theorem commitAttempt (grant : Bool) (c : ChanId) (r : Executing) : P (commitAttempt grant c r s) := by
  have h' : P (takeTxnReservation c r s) := hP.quiet h (by simp)
  simp only [Machine.commitAttempt]
  split
  · split <;> exact hP.quiet h (by simp)
  · split
    · split
      · exact hP.quiet h' (by simp)
      · exact hP.commit h' c r.req
    · exact hP.commit h' c r.req

omit h in
theorem grantLoop (n : Nat) {s : State} (h : P s) : P (grantLoop n s) := by
  induction n generalizing s with
  | zero => exact h
  | succ n ih =>
    simp only [Machine.grantLoop]
    split
    · exact h
    · split
      · split
        · exact h
        · split
          · exact hP.commitAttempt h _ _ _
          · exact ih (hP.commitAttempt h _ _ _)
      · exact h

theorem grantRun : P (grantRun s) := hP.grantLoop _ h

theorem grantAfter (b : Bool) : P (grantAfter b s) := by
  cases b
  · exact h
  · exact hP.grantRun h

theorem onReliefBut (lost : Waiter → Bool) : P (onReliefBut lost s) := by
  simp only [Machine.onReliefBut]
  split
  · exact hP.grantRun (hP.quiet h (by simp))
  · exact h

theorem onFreed : P (onFreed s) := by
  simp only [Machine.onFreed]
  split
  · exact hP.grantRun h
  · exact h

/-! #### The link -/

theorem faultChannel (c : ChanId) (reason : FaultReason) : P (faultChannel c reason s) := by
  simp only [Machine.faultChannel]
  split
  · have h' : P (Machine.endTxns (fun d => d == c) (beginFault c reason s)) :=
      hP.endTxns (hP.quiet h (by simp)) _
    exact hP.grantAfter (hP.quiet h' (by simp)) _
  · exact h

theorem hostReset : P (hostReset s) := by
  simp only [Machine.hostReset]
  split
  · exact h
  · have h' : P (Machine.endTxns (fun _ => true) (abandonTransfers s)) := hP.endTxns (hP.quiet h (by simp)) _
    exact hP.startNext (hP.quiet h' (by simp)) _

theorem enableWrite : P (enableWrite s) := by
  simp only [Machine.enableWrite]
  split
  · exact h
  · split
    · split
      · exact hP.settle (hP.quiet h (by simp)) _
      · exact hP.quiet h (by simp)
    · exact hP.quiet h (by simp)

theorem notifyWrite (c : ChanId) (p : Nat) : P (notifyWrite c p s) := by
  simp only [Machine.notifyWrite]
  split
  · refine hP.settle ?_ _
    split
    · exact hP.faultChannel h _ _
    · exact hP.quiet h (by simp)
  · exact h

theorem retireWrite (c : ChanId) (r : Nat) : P (retireWrite c r s) := by
  simp only [Machine.retireWrite]
  split
  · refine hP.settle ?_ _
    split
    · exact hP.faultChannel h _ _
    · exact hP.quiet h (by simp)
  · exact h

theorem windowWrite (off : BitVec 12) (v : BitVec 32) : P (windowWrite off v s) := by
  simp only [Machine.windowWrite]
  (repeat' split) <;> first
    | with_reducible exact hP.enableWrite h
    | with_reducible exact hP.hostReset h
    | with_reducible exact hP.notifyWrite h _ _
    | with_reducible exact hP.retireWrite h _ _
    | exact hP.quiet h (by simp)

theorem endStatusWrite (c : ChanId) (w : StatusPurpose) (ok : Bool) : P (endStatusWrite c w ok s) := by
  cases w <;> cases ok <;> simp only [Machine.endStatusWrite, if_true, Bool.false_eq_true, if_false] <;> first
    | with_reducible exact hP.settle (hP.faultChannel h _ _) _
    | exact hP.quiet h (by simp)

theorem execRegisterWrite (off : BitVec 12) (width : Nat) (v : BitVec 32) :
    NextHolds P (execRegisterWrite off width v s) := by
  refine .next ?_
  split
  · exact hP.windowWrite h _ _
  · exact h

theorem execFetchEnd (result : ReadResult) : NextHolds P (execFetchEnd result s) := by
  refine .next ?_
  split
  · exact h
  · refine hP.settle ?_ _
    cases result with
    | error => exact hP.faultChannel (hP.quiet h (by simp)) _ _
    | data bytes => exact hP.quiet h (by simp)

theorem execCompletionRecordWriteEnd (c : ChanId) (ok : Bool) :
    NextHolds P (execCompletionRecordWriteEnd c ok s) := by
  refine .next ?_
  (repeat' split) <;> first
    | with_reducible exact h
    | with_reducible exact hP.settle (hP.faultChannel h _ _) _
    | exact hP.quiet h (by simp)

theorem execStatusBlockWriteEnd (c : ChanId) (ok : Bool) : NextHolds P (execStatusBlockWriteEnd c ok s) := by
  refine .next ?_
  split
  · exact h
  · exact hP.endStatusWrite (hP.quiet h (by simp)) _ _ _

theorem execHoldoffExpiry (c : ChanId) : NextHolds P (execHoldoffExpiry c s) := by
  refine .next ?_
  split
  · exact h
  · dsimp only
    split <;> exact hP.quiet h (by simp)

/-! #### The requests of the data channels -/

omit hP in
theorem withExec (c : ChanId) (k : Kind) (p : Stage → Bool) (f : Executing → State → State)
    (hf : ∀ r, P (f r s)) : P (withExec c k p f s) := by
  simp only [Machine.withExec]
  split
  · split
    · exact hf _
    · exact h
  · exact h

/-- A request that its owning block takes, and the end of the event. -/
theorem settleWithExec (test : Bool) (c : ChanId) (k : Kind) (p : Stage → Bool) (f : Executing → State → State)
    (hf : ∀ r, P (f r s)) : NextHolds P (.next (Machine.settle test (Machine.withExec c k p f s))) :=
  .next (hP.settle (withExec h c k p f hf) test)

theorem takeReservation (c : ChanId) (r : Executing) : P (takeReservation c r s) := by
  have h' : P (setExec c { r with waitReserved := true } s) := hP.quiet h (by simp)
  simp only [Machine.takeReservation, afterReservation]
  split
  · exact hP.quiet h' (by simp)
  · exact hP.commitAttempt h' _ _ _
  · exact hP.quiet h' (by simp)
  · exact h'

theorem beginDurable (c : ChanId) (r : Executing) : P (beginDurable c r s) := by
  simp only [Machine.beginDurable]
  split
  · exact hP.quiet h (by simp)
  · split
    · exact hP.takeReservation h _ _
    · exact hP.quiet h (by simp)

theorem abortExecute (c : ChanId) (r : Executing) : P (abortExecute c r s) := by
  simp only [Machine.abortExecute]
  split
  · exact hP.quiet h (by simp)
  · split
    · exact hP.quiet h (by simp)
    · rename_i t _ _
      exact hP.quiet (hP.voidTxn h t) (by simp)

theorem expireHeld (c : ChanId) (n : Nat) : P (expireHeld c n s) := by
  simp only [Machine.expireHeld]
  split
  · split
    · exact hP.grantAfter (hP.quiet h (by simp)) _
    · exact h
  · exact h

theorem execTxnExpiry (c : ChanId) (n : Nat) : NextHolds P (execTxnExpiry c n s) := by
  refine .next ?_
  split
  · exact h
  · split
    · exact h
    · split
      · refine hP.settle (hP.expireHeld ?_ _ _) _
        exact hP.voidTxn (hP.quiet h (by simp)) _
      · exact h

theorem execWaitListReservation : NextHolds P (execWaitListReservation s) := by
  refine .next ?_
  split
  · exact h
  · split
    · exact h
    · split
      · exact hP.settle (hP.takeReservation (hP.quiet h (by simp)) _ _) _
      · exact h

theorem execStagingBufferClaim : NextHolds P (execStagingBufferClaim s) := by
  refine .next ?_
  (repeat' split) <;> exact hP.quiet h (by simp)

theorem execReadBufferClaim : NextHolds P (execReadBufferClaim s) := by
  refine .next ?_
  (repeat' split) <;> first
    | with_reducible exact h
    | exact hP.settle (hP.quiet h (by simp)) _

theorem execPayloadReadEnd (c : ChanId) (result : ReadResult) : NextHolds P (execPayloadReadEnd c result s) := by
  refine hP.settleWithExec h _ _ _ _ _ (fun r => ?_)
  cases result with
  | error => exact hP.quiet h (by simp)
  | data bytes => exact hP.commitAttempt (hP.quiet h (by simp)) _ _ _

/-! #### RELEASE and FORMAT -/

theorem reportRelief (falls freed : Nat) : P (reportRelief falls freed s) :=
  foldl (P := P) _ (fun hs _ => hP.onFreed hs) _
    (foldl (P := P) _ (fun hs _ => hP.onReliefBut hs (fun _ => false)) _ h)

theorem applyRelease (n : Nat) : P (applyRelease n s) := by
  have h' : P ((s.coveredMembers n).foldl Machine.releaseMember { s with journal.head := n }) :=
    foldl (P := P) _ (fun hs i => hP.releaseMember hs i) _ (hP.quiet h ⟨rfl, rfl, rfl, rfl, rfl⟩)
  simp only [Machine.applyRelease]
  generalize (s.coveredMembers n).foldl Machine.releaseMember { s with journal.head := n } = t at h' ⊢
  exact hP.quiet (hP.recomputeS (hP.reportRelief h' (s.dirtyCount - t.dirtyCount)
    ((s.coveredMembers n).countP s.relieves))) (by simp)

theorem releaseExecute (c : ChanId) (r : Executing) : P (releaseExecute c r s).1 := by
  simp only [Machine.releaseExecute]
  split
  · exact hP.quiet h (by simp)
  · split
    · exact hP.quiet h (by simp)
    · split
      · exact hP.quiet h (by simp)
      · split
        · exact hP.quiet h (by simp)
        · exact hP.quiet (hP.applyRelease h r.req.seq) (by simp)

theorem execRelease (c : ChanId) : NextHolds P (execRelease c s) := by
  refine .next ?_
  split
  · exact h
  · split
    · exact hP.settle (hP.releaseExecute h _ _) _
    · exact h

theorem retireFailed : P (retireFailed s) := by
  have h' : P (((s.segsIn .failed).map (fun i => (i, s.seg i))).foldl (fun s x => Machine.retireSegment x.1 s)
      { s with store.queue := [], store.idleTimer := none }) :=
    foldl (P := P) _ (fun hs x => hP.retireSegment hs x.1) _ (hP.quiet h ⟨rfl, rfl, rfl, rfl, rfl⟩)
  exact hP.quiet h' (by simp [Machine.retireFailed])

theorem resetJournal : P (resetJournal s) := by
  have h' : P (setMetadataDirty (Machine.clearJournal (Machine.retireFailed s))) :=
    hP.quiet (hP.clearJournal (hP.retireFailed h)) (by simp)
  exact hP.quiet (hP.onReliefBut h' (fun _ => false)) (by simp [Machine.resetJournal])

theorem execFormatReset : NextHolds P (execFormatReset s) := by
  refine .next ?_
  split
  · exact hP.settle (hP.resetJournal h) _
  · exact h

/-! #### The control requests and the clock -/

theorem beginDrain (d : ChanId) (tag : Tag) (force : Bool) : P (beginDrain d tag force s) := by
  have h' : ∀ n, P (Machine.endTxns (fun x => x == d) (markDraining d tag n s)) :=
    fun n => hP.endTxns (hP.quiet h (by simp)) _
  simp only [Machine.beginDrain]
  refine hP.grantAfter ?_ _
  split
  · exact hP.quiet (h' (s.waitersOf d)) (by simp)
  · exact hP.quiet (h' 0) (by simp)

theorem closeExecute (r : Executing) : P (closeExecute r s) := by
  simp only [Machine.closeExecute]
  split
  · exact hP.quiet h (by simp)
  · exact hP.beginDrain h _ _ _
  · split <;> exact hP.quiet h (by simp)
  · exact hP.quiet h (by simp)

theorem recomputeBudget : P (recomputeBudget s) := by
  simp only [Machine.recomputeBudget]
  split
  · exact hP.grantAfter (hP.quiet h (by simp)) _
  · exact hP.quiet h (by simp)

theorem applyConfigure (r : Request) : P (applyConfigure r s) := by
  have h' : P (configureBlocks r (configureNamed r s)) := hP.quiet h (by simp)
  simp only [Machine.applyConfigure]
  split
  · exact hP.recomputeBudget h'
  · split
    · exact hP.quiet h' (by simp)
    · exact h'

theorem configureExecute (r : Executing) : P (configureExecute r s) := by
  simp only [Machine.configureExecute]
  split
  · exact hP.quiet h (by simp)
  · exact hP.quiet (hP.applyConfigure h r.req) (by simp)

theorem execClockTransferApplication : NextHolds P (execClockTransferApplication s) := by
  refine .next ?_
  split
  · exact h
  · split
    · exact hP.settle (hP.quiet h (by simp)) _
    · refine hP.settle (hP.quiet h ?_) _
      split <;> simp

theorem execClockTick : NextHolds P (execClockTick s) := by
  refine .next ?_
  split <;> exact hP.quiet h (by simp)

theorem execOscillatorStop : NextHolds P (execOscillatorStop s) := by
  refine .next ?_
  (repeat' split) <;> exact hP.quiet h (by simp)

theorem execOscillatorRestart : NextHolds P (execOscillatorRestart s) := by
  refine .next ?_
  split <;> exact hP.quiet h (by simp)

theorem execBatteryCrossing (good : Bool) : NextHolds P (execBatteryCrossing good s) := by
  refine .next ?_
  (repeat' split) <;> exact hP.quiet h (by simp)

theorem execBatteryDomainLoss : NextHolds P (execBatteryDomainLoss s) := by
  refine .next ?_
  split <;> exact hP.quiet h (by simp)

/-! #### The store engine -/

theorem passBytes (i : SegId) (written : Nat) (agree : Bool) : P (passBytes i written agree s) := by
  simp only [Machine.passBytes]
  split
  · exact hP.finishCopy h _ _
  · exact hP.spoilShadow (hP.finishCopy h _ _) _

theorem failureEffects (i : SegId) (u : Nat) : P (failureEffects i u s) := by
  have h' := hP.onReliefBut h (s.lostWith i u)
  exact hP.quiet (hP.recomputeS (hP.quiet h' (t := endAllHeld .nvFault (finishWaiters (fun w => u ≤ w.target) .nvFault
    (setMetadataDirty (Machine.onReliefBut (s.lostWith i u) s)))) (by simp))) (by simp [Machine.failureEffects])

theorem passEnd (i : SegId) (agree : Bool) : P (passEnd i agree s) := by
  have h1 := hP.endFreeing h i
  have h2 := hP.endJob h i
  simp only [Machine.passEnd]
  split
  · exact hP.recomputeS (hP.onReliefBut h1 _)
  · split
    · split
      · exact hP.quiet (hP.recomputeS h2) (by simp)
      · exact hP.quiet (hP.recomputeS (hP.onReliefBut h2 (fun _ => false))) (by simp)
    · split
      · exact hP.retryPass h i
      · exact hP.failureEffects (hP.failSegment h i) _ _

theorem emergencyPassEnd (i : SegId) (agree : Bool) : P (emergencyPassEnd i agree s) := by
  simp only [Machine.emergencyPassEnd]
  split
  · exact hP.emergencyAdvance (hP.endFreeing h i)
  · split
    · exact hP.emergencyAdvance (hP.quiet (hP.endJob h i) (by simp))
    · split
      · exact hP.retryPass h i
      · exact hP.emergencyAdvance (hP.quiet (hP.failSegment h i) (by simp))

theorem execStorePassEnd (agree : Bool) : NextHolds P (execStorePassEnd agree s) := by
  refine .next ?_
  split
  · rename_i i written _
    have h' := hP.passBytes h i written agree
    dsimp only
    split
    · exact hP.emergencyPassEnd h' i agree
    · exact hP.settle (hP.passEnd h' i agree) _
  · exact h

theorem execIdleTimerExpiry : NextHolds P (execIdleTimerExpiry s) := by
  refine .next ?_
  split
  · exact h
  · exact hP.settle (hP.quiet h (by simp)) _

theorem afterCheckpoint (ok : Bool) : P (afterCheckpoint ok s) := by
  simp only [Machine.afterCheckpoint]
  split
  · exact hP.emergencyAdvance h
  · split <;> exact hP.settle (hP.quiet h (by simp)) _

theorem execCheckpointWriteEnd (verified : Bool) : NextHolds P (execCheckpointWriteEnd verified s) := by
  refine .next ?_
  split
  · split
    · exact hP.afterCheckpoint (hP.quiet h (by simp)) _
    · split
      · exact hP.quiet h (by simp)
      · exact hP.afterCheckpoint (hP.quiet h (by simp)) _
  · exact h

theorem execPstoreRequest (low : Nat) : NextHolds P (execPstoreRequest low s) := by
  refine .next ?_
  (repeat' split) <;> first
    | with_reducible exact h
    | with_reducible exact hP.settle (hP.quiet h (by simp)) _
    | exact hP.quiet h (by simp)

/-! #### The monitor and the power controller -/

theorem powerDecision (v : Nat) : P (powerDecision v s) := by
  have h' : P (cutOperation s) := by
    simp only [cutOperation]
    (repeat' split) <;> first
      | with_reducible exact hP.advanceCopy h _
      | exact hP.quiet h (by simp)
  simp only [Machine.powerDecision]
  split
  · exact hP.quiet h' (by simp)
  · exact h

theorem execMeasurement (v : Nat) : NextHolds P (execMeasurement v s) := by
  refine .next ?_
  split
  · exact h
  · have h' : P (Machine.recomputeBudget (recordMeasurement v s)) := hP.recomputeBudget (hP.quiet h (by simp))
    exact hP.settle (hP.powerDecision (hP.quiet h' (by simp)) _) _

theorem execCharged : NextHolds P (execCharged s) := by
  refine .next ?_
  split <;> exact hP.quiet h (by simp)

theorem execNotCharged : NextHolds P (execNotCharged s) := by
  refine .next ?_
  split <;> exact hP.quiet h (by simp)

theorem execLearnStart (time : Nat) : NextHolds P (execLearnStart time s) := by
  refine .next ?_
  split <;> exact hP.quiet h (by simp)

theorem execLearnEnd (time : Nat) : NextHolds P (execLearnEnd time s) := by
  refine .next ?_
  split <;> exact hP.quiet h (by simp)

theorem execLearnTimeout : NextHolds P (execLearnTimeout s) := by
  refine .next ?_
  split <;> exact hP.quiet h (by simp)

theorem enterEmergency : P (enterEmergency s) := by
  have h' : P (queueOpen (emergencyBlocks (abandonTransfers s))) := hP.quiet h (by simp [emergencyBlocks])
  simp only [Machine.enterEmergency, beginSequence]
  split
  · exact hP.quiet h' ⟨rfl, rfl, rfl, rfl, rfl⟩
  · exact hP.quiet h' (by simp)

theorem execSupplyFail : NextHolds P (execSupplyFail s) := by
  refine .next ?_
  split
  · exact h
  · dsimp only
    split
    · exact hP.enterEmergency (hP.quiet h ⟨rfl, rfl, rfl, rfl, rfl⟩)
    · split <;> exact hP.quiet h (by simp [abandonStart])

theorem enterRecall (v : Nat) : P (enterRecall v s) := by
  simp only [Machine.enterRecall]
  split
  · exact hP.quiet (hP.powerOn h v) (by simp)
  · exact hP.powerOn h v

theorem execSupplyReturn (v : Nat) : NextHolds P (execSupplyReturn v s) := by
  refine .next ?_
  (repeat' split) <;> first
    | with_reducible exact hP.enterRecall h _
    | exact hP.quiet h (by simp)

theorem endSequence (v : Nat) : P (endSequence v s) := by
  simp only [Machine.endSequence]
  split
  · exact hP.enterRecall (hP.quiet h (by simp)) v
  · exact hP.quiet h (by simp)

theorem execClosingMarkWriteEnd (verified : Bool) (v : Nat) : NextHolds P (execClosingMarkWriteEnd verified v s) := by
  refine .next ?_
  (repeat' split) <;> first
    | with_reducible exact hP.endSequence (hP.quiet h (by simp)) v
    | exact hP.quiet h (by simp)

/-! #### Recall and recovery -/

theorem execRecallCompletion : NextHolds P (execRecallCompletion s) := by
  refine .next ?_
  split
  · exact hP.completeRecall h
  · exact h

theorem endScan : P (endScan s) := by
  have h' : P (markDiscarded s.recovery.restored.head s.foundEntries s) :=
    foldl (P := P) _ (fun hs f => hP.writeSegment hs f.seg (f.off + 2) [voidByte]) _ h
  exact hP.quiet (hP.rebuildJournal h' s.recovery.restored (keptScans s.recovery.restored.head s.scanAll))
    (by simp [Machine.endScan, decideAndReport, State.foundEntries])

theorem execEndOfScan : NextHolds P (execEndOfScan s) := by
  refine .next ?_
  split
  · exact hP.endScan h
  · exact h

/-! #### Every command, every step -/

theorem exec (i : Instr) : NextHolds P (exec i s) := by
  cases i with
  | hostReset cause => exact .next (hP.hostReset h)
  | enable => exact .next (hP.enableWrite h)
  | notify chan index => exact .next (hP.notifyWrite h _ _)
  | retire chan index => exact .next (hP.retireWrite h _ _)
  | registerWrite offset width value => exact hP.execRegisterWrite h _ _ _
  | fetchEnd result => exact hP.execFetchEnd h _
  | append chan => exact hP.settleWithExec h _ _ _ _ _ (fun r => hP.beginDurable h _ r)
  | sealTxn chan => exact hP.settleWithExec h _ _ _ _ _ (fun r => hP.beginDurable h _ r)
  | flush chan => exact hP.settleWithExec h _ _ _ _ _ (fun r => hP.beginDurable h _ r)
  | abort chan => exact hP.settleWithExec h _ _ _ _ _ (fun r => hP.abortExecute h _ r)
  | read chan => exact hP.settleWithExec h _ _ _ _ _ (fun r => hP.quiet h (by simp))
  | release chan => exact hP.execRelease h _
  | format => exact hP.settleWithExec h _ _ _ _ _ (fun r => hP.quiet h (by simp))
  | setClock => exact hP.settleWithExec h _ _ _ _ _ (fun r => hP.quiet h (by simp))
  | recoveryReport => exact hP.settleWithExec h _ _ _ _ _ (fun r => hP.quiet h (by simp))
  | openChannel => exact hP.settleWithExec h _ _ _ _ _ (fun r => hP.quiet h (by simp))
  | closeChannel => exact hP.settleWithExec h _ _ _ _ _ (fun r => hP.closeExecute h r)
  | configure => exact hP.settleWithExec h _ _ _ _ _ (fun r => hP.configureExecute h r)
  | query => exact hP.settleWithExec h _ _ _ _ _ (fun r => hP.quiet h (by simp))
  | alertWait => exact hP.settleWithExec h _ _ _ _ _ (fun r => hP.quiet h (by simp))
  | waitListReservation => exact hP.execWaitListReservation h
  | stagingBufferClaim => exact hP.execStagingBufferClaim h
  | payloadReadEnd chan result => exact hP.execPayloadReadEnd h _ _
  | txnExpiry chan hostId => exact hP.execTxnExpiry h _ _
  | readBufferClaim => exact hP.execReadBufferClaim h
  | readDataWriteEnd chan ok => exact hP.settleWithExec h _ _ _ _ _ (fun r => hP.quiet h (by simp))
  | formatReset => exact hP.execFormatReset h
  | storePassEnd agree => exact hP.execStorePassEnd h _
  | idleTimerExpiry => exact hP.execIdleTimerExpiry h
  | checkpointWriteEnd verified => exact hP.execCheckpointWriteEnd h _
  | measurement millivolts => exact hP.execMeasurement h _
  | charged => exact hP.execCharged h
  | notCharged => exact hP.execNotCharged h
  | learnStart time => exact hP.execLearnStart h _
  | learnEnd time => exact hP.execLearnEnd h _
  | learnTimeout => exact hP.execLearnTimeout h
  | supplyFail => exact hP.execSupplyFail h
  | supplyReturn millivolts => exact hP.execSupplyReturn h _
  | closingMarkWriteEnd verified millivolts => exact hP.execClosingMarkWriteEnd h _ _
  | recallCompletion => exact hP.execRecallCompletion h
  | endOfScan => exact hP.execEndOfScan h
  | pstoreRequest lowNanoseconds => exact hP.execPstoreRequest h _
  | clockTick => exact hP.execClockTick h
  | clockTransferApplication => exact hP.execClockTransferApplication h
  | oscillatorStop => exact hP.execOscillatorStop h
  | oscillatorRestart => exact hP.execOscillatorRestart h
  | batteryCrossing good => exact hP.execBatteryCrossing h _
  | batteryDomainLoss => exact hP.execBatteryDomainLoss h
  | completionRecordWriteEnd chan ok => exact hP.execCompletionRecordWriteEnd h _ _
  | statusBlockWriteEnd chan ok => exact hP.execStatusBlockWriteEnd h _ _
  | holdoffExpiry chan => exact hP.execHoldoffExpiry h _
  | reportWriteEnd ok => exact hP.settleWithExec h _ _ _ _ _ (fun r => hP.quiet h (by simp))
  | snapshotWriteEnd ok => exact hP.settleWithExec h _ _ _ _ _ (fun r => hP.quiet h (by simp))

/-- Every step keeps a steady property: it runs a command, or lets 1 µs pass. -/
theorem step : NextHolds P (step s) := by
  unfold Machine.step
  split
  · exact .next (hP.quiet h (by simp))
  · exact hP.exec (hP.quiet h (by simp)) _

end

end Steady

end Sys2Proof.Machine

namespace Sys2Proof.Machine

/-! ### Both memories (R9, R76, R133) -/

/-- The canonical form of both memories is a property of the journal's core that every operation on it keeps. -/
theorem steady_memories : Steady State.MemoriesWf where
  same h e := MemoriesWf_of_eq h e.1 e.2.1
  advanceCopy h i := advanceCopy_memories h i
  writeSegment h i off bytes := writeSegment_memories h i off bytes
  finishCopy h i written := finishCopy_memories h i written
  spoilShadow h i := spoilShadow_memories h i
  recomputeS h := MemoriesWf_of_eq h (by simp) (by simp)
  commit h c r := commit_memories h c r
  releaseMember h i := MemoriesWf_of_eq h (by simp) (by simp)
  retireSegment h i := MemoriesWf_of_eq h (by simp) (by simp)
  clearJournal h := clearJournal_memories h
  endJob h i := MemoriesWf_of_eq h (by simp) (by simp)
  failSegment h i := MemoriesWf_of_eq h (by simp) (by simp)
  endFreeing h i := MemoriesWf_of_eq h (by simp) (by simp)
  powerOn h v := MemoriesWf_of_eq h rfl rfl
  completeRecall h := ⟨h.2, h.2⟩
  rebuildJournal h r scans := MemoriesWf_of_eq h (by simp [rebuildJournal]) (by simp [rebuildJournal])

/-! ### S and the sequence numbers of the segment table (R6, R7, R10, R82, R102) -/

theorem Segment.Below.of_sameLog {n : Nat} {g k : Segment} (h : g.Below n) (e : g.SameLog k) : k.Below n := by
  obtain ⟨hstate, -, hlast, -, hunstored⟩ := e
  unfold Segment.Below
  rw [hstate, hlast, hunstored]
  exact h

theorem Segment.Below.mono {n m : Nat} {g : Segment} (h : g.Below n) (hn : n ≤ m) : g.Below m :=
  ⟨fun l hl => lt_of_lt_of_le (h.1 l hl) hn, fun u hu => lt_of_lt_of_le (h.2.1 u hu) hn, h.2.2⟩

/-- A record without sequence numbers lies below every number. -/
theorem Segment.below_of_none {n : Nat} {g : Segment} (hl : g.lastSeq = none) (hu : g.unstoredFrom = none) :
    g.Below n := by
  unfold Segment.Below
  rw [hl, hu]
  simp

theorem Segment.below_freeForm (n : Nat) : Segment.freeForm.Below n := Segment.below_of_none rfl rfl

/-- A change of state to one other than RETIRED. -/
theorem Segment.Below.setState {n : Nat} {g : Segment} (h : g.Below n) {st : SegState} (hst : st ≠ .retired) :
    ({ g with state := st } : Segment).Below n :=
  ⟨h.1, h.2.1, fun e => absurd e hst⟩

/-- A verified job leaves unstored-from at most at last seq (R77). -/
theorem Segment.Below.stored {n : Nat} {g : Segment} (h : g.Below n) : g.stored.Below n := by
  refine ⟨h.1, fun u hu => ?_, fun e => ⟨(h.2.2 e).1, ?_⟩⟩
  · simp only [Segment.stored] at hu
    cases hl : g.lastSeq <;> cases hn : g.snapshot <;> simp [Segment.grewInStore, hl, hn] at hu
    have := h.1 _ hl
    omega
  · have := (h.2.2 e).1
    simp [Segment.stored, Segment.grewInStore, this]

theorem Segment.Below.failedForm {n : Nat} {g : Segment} (h : g.Below n) : g.failedForm.Below n :=
  ⟨h.1, by simp [Segment.failedForm], fun e => by simp [Segment.failedForm] at e⟩

theorem Segment.Below.released {n : Nat} {g : Segment} (h : g.Below n) : g.released.Below n := by
  unfold Segment.released
  split
  · split
    · exact h.setState (by decide)
    · exact Segment.below_freeForm n
  · rename_i hst
    split
    · exact h
    · exact ⟨h.1, by simp, fun e => by simp [hst] at e⟩
  · exact Segment.below_of_none rfl rfl
  all_goals exact h

/-- The record that takes an entry lies below the next seq after it (R7, R11). -/
theorem Segment.Below.taken {n fill : Nat} {g : Segment} {first : Option Nat} {st : SegState} (h : g.Below n)
    (hst : st ≠ .retired) :
    ({ g with fill := fill, lastSeq := some n, firstSeq := first,
              unstoredFrom := some (g.unstoredFrom.getD n), state := st } : Segment).Below (n + 1) := by
  refine ⟨by simp, fun u hu => ?_, fun e => absurd e hst⟩
  cases hg : g.unstoredFrom with
  | none => simp [hg] at hu; omega
  | some v =>
    have := h.2.1 v hg
    simp [hg] at hu
    omega

theorem State.SequenceLaw.of_segs {s t : State} (h : s.SequenceLaw) (hn : t.journal.nextSeq = s.journal.nextSeq)
    (hs : t.store.storedThrough = s.store.storedThrough) (hg : ∀ i, (t.seg i).Below s.journal.nextSeq) :
    t.SequenceLaw := by
  unfold State.SequenceLaw
  rw [hn, hs]
  exact ⟨h.1, h.2.1, hg⟩

theorem State.SequenceLaw.of_core {s t : State} (h : s.SequenceLaw) (hn : t.journal.nextSeq = s.journal.nextSeq)
    (hs : t.store.storedThrough = s.store.storedThrough) (hg : SameSegments s t) : t.SequenceLaw :=
  h.of_segs hn hs fun i => (h.2.2 i).of_sameLog (hg i)

/-- An operation that leaves the segment table alone. -/
theorem State.SequenceLaw.of_journal {s t : State} (h : s.SequenceLaw) (hn : t.journal.nextSeq = s.journal.nextSeq)
    (hs : t.store.storedThrough = s.store.storedThrough) (hg : t.journal.segs = s.journal.segs) : t.SequenceLaw :=
  h.of_core hn hs (.of_segs hg)

/-- An operation that changes one record. -/
theorem State.SequenceLaw.of_seg {s t : State} (h : s.SequenceLaw) (i : SegId) (hn : t.journal.nextSeq = s.journal.nextSeq)
    (hs : t.store.storedThrough = s.store.storedThrough) (hi : (t.seg i).Below s.journal.nextSeq)
    (ho : ∀ j, j ≠ i → t.seg j = s.seg j) : t.SequenceLaw :=
  h.of_segs hn hs fun j => by
    by_cases e : j = i
    · exact e ▸ hi
    · rw [ho j e]; exact h.2.2 j

theorem modSeg_sequence {s t : State} (h : s.SequenceLaw) (i : SegId) (f : Segment → Segment)
    (hn : t.journal.nextSeq = s.journal.nextSeq) (hs : t.store.storedThrough = s.store.storedThrough)
    (hf : (f (s.seg i)).Below s.journal.nextSeq) (hg : ∀ j, t.seg j = (s.modSeg i f).seg j) : t.SequenceLaw :=
  h.of_seg i hn hs (by rw [hg, State.seg_modSeg_same]; exact hf)
    (fun j hj => by rw [hg, State.seg_modSeg_other s f hj])

theorem openSegment_spec {s : State} {i : SegId} (h : s.openSegment = some i) :
    s.journal.chain.getLast? = some i ∧ (s.seg i).state = .openS := by
  unfold State.openSegment at h
  split at h
  · rename_i j hj
    split at h
    · rename_i hst
      cases h
      exact ⟨hj, hst⟩
    · cases h
  · cases h

/-- S as R82 defines it lies below next seq. -/
theorem storedThroughNow_le {s : State} (h : s.SequenceLaw) : s.storedThroughNow ≤ s.journal.nextSeq - 1 := by
  unfold State.storedThroughNow
  split
  · rename_i u hu
    obtain ⟨g, hg, hgu⟩ := List.mem_filterMap.mp (List.min?_mem hu)
    obtain ⟨n, hn, rfl⟩ := List.getElem_of_mem hg
    have hlt : u < s.journal.nextSeq := (h.2.2 ⟨n, by simpa using hn⟩).2.1 u (by simpa [State.seg] using hgu)
    omega
  · exact Nat.le_refl _

theorem recomputeS_sequence {s : State} (h : s.SequenceLaw) : (recomputeS s).SequenceLaw := by
  have hj : (recomputeS s).journal = s.journal := by simp
  refine ⟨by rw [hj]; exact h.1, by rw [recomputeS_storedThrough, hj]; exact storedThroughNow_le h, fun i => ?_⟩
  rw [show (recomputeS s).seg i = s.seg i by simp [State.seg], hj]
  exact h.2.2 i

theorem freeSegment_sequence {s : State} (h : s.SequenceLaw) (i : SegId) : (freeSegment i s).SequenceLaw :=
  h.of_seg i (by simp) (by simp) (by rw [freeSegment_seg, if_pos rfl]; exact Segment.below_freeForm _)
    (fun j hj => by rw [freeSegment_seg, if_neg hj])

theorem retireSegment_sequence {s : State} (h : s.SequenceLaw) (i : SegId) : (retireSegment i s).SequenceLaw :=
  h.of_seg i (by simp) (by simp) (by rw [retireSegment_seg, if_pos rfl]; exact Segment.below_of_none rfl rfl)
    (fun j hj => by rw [retireSegment_seg, if_neg hj])

theorem releaseMember_sequence {s : State} (h : s.SequenceLaw) (i : SegId) : (releaseMember s i).SequenceLaw :=
  h.of_seg i (by simp) (by simp) (by rw [releaseMember_seg, if_pos rfl]; exact (h.2.2 i).released)
    (fun j hj => by rw [releaseMember_seg, if_neg hj])

/-! #### A commit -/

theorem closeOpen_sequence {s : State} (h : s.SequenceLaw) : (closeOpen s).SequenceLaw := by
  have ht : ({ s with store.idleTimer := none } : State).SequenceLaw := h
  cases ho : s.openSegment with
  | none => rw [closeOpen_none ho]; exact h
  | some i =>
    cases hc : (s.seg i).coveredBy s.journal.head with
    | false =>
      rw [closeOpen_full ho hc]
      exact modSeg_sequence ht i (fun g => { g with state := .full }) (by simp) (by simp)
        ((h.2.2 i).setState (by decide)) (fun j => by simp [State.seg])
    | true =>
      cases hs : (s.seg i).inStore with
      | true =>
        rw [closeOpen_freeing ho hc hs]
        exact modSeg_sequence ht i (fun g => { g with state := .freeing }) (by simp) (by simp)
          ((h.2.2 i).setState (by decide)) (fun j => rfl)
      | false =>
        cases hd : (s.seg i).dirty with
        | true => rw [closeOpen_freeDirty ho hc hs hd]; exact recomputeS_sequence (freeSegment_sequence ht i)
        | false => rw [closeOpen_freeClean ho hc hs hd]; exact freeSegment_sequence ht i

/-- The record of the segment that a commit opens, and the others'. -/
theorem openNew_seg {s : State} {tail : Option SegId} {j : SegId} (h : s.allocate tail = some j) (i : SegId) :
    (openNew tail s).seg i = if i = j then { Segment.freeForm with state := .openS } else s.seg i := by
  have e : (openNew tail s).seg i = (s.setSeg j { Segment.freeForm with state := .openS }).seg i := by
    simp only [openNew, h]
    rfl
  rw [e]
  by_cases hi : i = j
  · rw [hi, if_pos rfl, State.seg_setSeg_same]
  · rw [if_neg hi, State.seg_setSeg_other _ _ hi]

theorem openNew_sequence {s : State} (h : s.SequenceLaw) (tail : Option SegId) : (openNew tail s).SequenceLaw := by
  cases ha : s.allocate tail with
  | none => simpa [openNew, ha] using h
  | some j =>
    exact h.of_seg j (by simp) (by simp)
      (by rw [openNew_seg ha, if_pos rfl]; exact Segment.below_of_none rfl rfl)
      (fun i hi => by rw [openNew_seg ha, if_neg hi])

theorem prepareSegment_sequence {s : State} (h : s.SequenceLaw) (fp : Nat) : (prepareSegment fp s).SequenceLaw := by
  simp only [prepareSegment]
  split
  · exact openNew_sequence (closeOpen_sequence h) _
  · exact h

/-- An entry with the next sequence number, placed in a segment that is not RETIRED. -/
theorem Placed.sequence {i : SegId} {x : Header} {payload : List Byte} {s t : State} (h : s.SequenceLaw)
    (hp : Placed i x payload s t) (hx : x.seq = s.journal.nextSeq) (hi : (s.seg i).state = .openS)
    (hs : t.store.storedThrough = s.store.storedThrough) : t.SequenceLaw := by
  obtain ⟨-, -, -, hrec, hothers, -, -, -, -, hnext⟩ := hp
  rw [hx] at hrec
  unfold State.SequenceLaw
  rw [hnext, hs]
  refine ⟨Nat.le_add_left 1 _, le_trans h.2.1 (by omega), fun j => ?_⟩
  by_cases e : j = i
  · subst e
    refine Segment.Below.of_sameLog ((h.2.2 j).taken ?_) hrec
    rw [hi]
    split <;> decide
  · exact ((h.2.2 j).of_sameLog (hothers j e)).mono (Nat.le_succ _)

theorem commit_sequence {s : State} (h : s.SequenceLaw) (c : ChanId) (r : Request) : (commit c r s).SequenceLaw := by
  have h' := prepareSegment_sequence h (footprint r.length)
  simp only [commit]
  generalize prepareSegment (footprint r.length) s = p at h' ⊢
  split
  · exact h'
  · rename_i i hi
    have hrec := Placed.sequence h'
      (recordEntry_placed i c r (p.entryHeader c r (if r.kind = .append then p.payloadOf c else []))
        (if r.kind = .append then p.payloadOf c else []) p) rfl (openSegment_spec hi).2 (by simp)
    exact hrec.of_journal (by simp) (by simp) (by simp)

/-! #### FORMAT and recovery -/

theorem clearJournal_sequence {s : State} (h : s.SequenceLaw) : (clearJournal s).SequenceLaw := by
  refine ⟨Nat.le_refl 1, Nat.zero_le _, fun i => ?_⟩
  have e : (clearJournal s).seg i = if (s.seg i).state = .retired then s.seg i else Segment.freeForm :=
    State.getElem_buildSegs _ i
  rw [e]
  split
  · rename_i hst
    obtain ⟨hl, hu⟩ := (h.2.2 i).2.2 hst
    exact Segment.below_of_none hl hu
  · exact Segment.below_freeForm _

/-- The last sequence number of a rebuilt record is one of a found entry (R143). -/
theorem rebuiltSegment_below {r : Restored} {scans : List (List Found)} {n : Nat}
    (h : ∀ f ∈ scans.flatten, f.header.seq < n) (i : SegId) :
    (rebuiltSegment r (recoveredSegs r.head scans) i).Below n := by
  unfold rebuiltSegment
  split
  · exact Segment.below_of_none rfl rfl
  · split
    · rename_i x hx
      refine ⟨fun l hl => ?_, by simp [fullRecord, Segment.freeForm], fun e => by simp [fullRecord] at e⟩
      obtain ⟨f, hf, rfl⟩ : ∃ f, x.2.getLast? = some f ∧ f.header.seq = l := by simpa [fullRecord] using hl
      obtain ⟨fs, hfs, he⟩ := List.mem_filterMap.mp (List.mem_of_find?_eq_some hx)
      have hfound : f ∈ fs := by
        split at he
        · cases he; exact List.mem_of_getLast? hf
        · cases he
      exact h f (List.mem_flatten.mpr ⟨fs, hfs, hfound⟩)
    · exact Segment.below_freeForm n

theorem rebuildJournal_sequence (s : State) (r : Restored) (scans : List (List Found)) :
    (rebuildJournal r scans s).SequenceLaw := by
  have hn : (rebuildJournal r scans s).journal.nextSeq =
      max r.nextSeq (((scans.flatten.map (fun f => f.header.seq)).max?.getD 0) + 1) := by simp [rebuildJournal]
  have hs : (rebuildJournal r scans s).store.storedThrough = (rebuildJournal r scans s).journal.nextSeq - 1 := by
    simp [rebuildJournal]
  have hg : ∀ i, (rebuildJournal r scans s).seg i = rebuiltSegment r (recoveredSegs r.head scans) i :=
    fun i => State.getElem_buildSegs _ i
  refine ⟨by rw [hn]; omega, by rw [hs], fun i => ?_⟩
  rw [hg]
  refine rebuiltSegment_below (fun f hf => ?_) i
  have hle : f.header.seq ≤ (scans.flatten.map (fun f => f.header.seq)).max?.getD 0 :=
    List.le_max?_getD_of_mem (List.mem_map_of_mem hf)
  rw [hn]
  omega

theorem powerOn_sequence (s : State) (v : Nat) : (powerOn v s).SequenceLaw := by
  refine ⟨Nat.le_refl 1, Nat.le_refl 0, fun i => ?_⟩
  have e : (powerOn v s).seg i = Segment.freeForm := by simp [powerOn, State.reset, State.seg]
  rw [e]
  exact Segment.below_freeForm _

/-- The law of S and of the sequence numbers is a property of the journal's core that every operation on it keeps. -/
theorem steady_sequence : Steady State.SequenceLaw where
  same h e := h.of_core e.2.2.1 e.2.2.2.1 e.2.2.2.2
  advanceCopy h i := h.of_journal (by simp) (by simp) (by simp)
  writeSegment h i off bytes := h.of_journal (by simp) (by simp) (by simp)
  finishCopy h i written := h.of_journal (by simp) (by simp) (by simp)
  spoilShadow h i := h.of_journal (by simp) (by simp) (by simp)
  recomputeS h := recomputeS_sequence h
  commit h c r := commit_sequence h c r
  releaseMember h i := releaseMember_sequence h i
  retireSegment h i := retireSegment_sequence h i
  clearJournal h := clearJournal_sequence h
  endJob {s} h i := modSeg_sequence (s := { s with store.op := none }) h i Segment.stored (by simp) (by simp)
    (h.2.2 i).stored (fun j => by simp [endJob, State.seg])
  failSegment h i := modSeg_sequence h i Segment.failedForm (by simp) (by simp) (h.2.2 i).failedForm (fun j => rfl)
  endFreeing h i := freeSegment_sequence (by exact h) i
  powerOn _ v := powerOn_sequence _ v
  completeRecall h := h.of_journal rfl rfl rfl
  rebuildJournal _ r scans := rebuildJournal_sequence _ r scans

/-- Settles O5: the canonical form is steady, since each operation that writes into a memory keeps it. -/
theorem stepKeepsMemoriesWf : Obligations.StepKeepsMemoriesWf :=
  fun _ _ h => steady_memories.step h _

/-- Settles O7: the law is steady; the key cases are a commit, the recomputation of S and the rebuild at recovery. -/
theorem stepKeepsSequenceLaw : Obligations.StepKeepsSequenceLaw :=
  fun _ _ h => steady_sequence.step h _

end Sys2Proof.Machine

namespace Sys2Proof.Machine

/-! ### The places of the fields of a record (R174, sections 11.3 to 11.5) -/

/-- A record that is its fields one after the other, each a size and a value. -/
def packed (l : List (Nat × Nat)) : List Byte := l.flatMap (fun f => leBytes f.1 f.2)

/-- Where the fields stand, the first of them at `off`: offset, size and value. -/
def placed : Nat → List (Nat × Nat) → List (Nat × Nat × Nat)
  | _, [] => []
  | off, f :: l => (off, f.1, f.2) :: placed (off + f.1) l

theorem fieldAt_append_right (pre b : List Byte) (off n : Nat) :
    fieldAt (pre ++ b) (pre.length + off) n = fieldAt b off n := by
  rw [fieldAt, fieldAt, List.drop_append, List.drop_eq_nil_of_le (Nat.le_add_right _ _), List.nil_append,
    Nat.add_sub_cancel_left]

/-- The fields of a record stand one after the other, behind whatever comes before them. -/
theorem laid_packed {pre rest : List Byte} {off : Nat} (l : List (Nat × Nat)) (h : pre.length = off) :
    Laid (pre ++ (packed l ++ rest)) (placed off l) := by
  induction l generalizing pre off with
  | nil => intro f hf; cases hf
  | cons x xs ih =>
    have e : pre ++ (packed (x :: xs) ++ rest) = pre ++ (leBytes x.1 x.2 ++ (packed xs ++ rest)) := by
      simp [packed]
    rw [e]
    intro f hf
    rcases List.mem_cons.mp hf with rfl | hf
    · have hfirst := fieldAt_append_right pre (leBytes x.1 x.2 ++ (packed xs ++ rest)) 0 x.1
      rw [Nat.add_zero, h, fieldAt_first_mod] at hfirst
      exact hfirst
    · rw [← List.append_assoc]
      exact ih (by rw [List.length_append, length_leBytes, h]) f hf

/-- A record that is nothing but its fields. -/
theorem laid_of_eq_packed {b : List Byte} {l : List (Nat × Nat)} (h : b = packed l) : Laid b (placed 0 l) := by
  have := laid_packed (pre := []) (rest := []) l rfl
  rwa [List.nil_append, List.append_nil, ← h] at this

theorem Laid.append {b : List Byte} {l k : List (Nat × Nat × Nat)} (hl : Laid b l) (hk : Laid b k) : Laid b (l ++ k) :=
  fun f hf => (List.mem_append.mp hf).elim (hl f) (hk f)

@[simp] theorem length_packed (l : List (Nat × Nat)) : (packed l).length = (l.map Prod.fst).sum := by
  simp [packed, List.length_flatMap]

/-- A byte as a field. -/
theorem cons_eq_leBytes (b : Byte) (l : List Byte) : b :: l = leBytes 1 b.toNat ++ l := by simp [leBytes]

/-- Reserved bytes as a field. -/
theorem replicate_eq_leBytes (n : Nat) : List.replicate n (0 : Byte) = leBytes n 0 := by
  induction n with
  | zero => rfl
  | succ n ih => rw [List.replicate_succ, ih, leBytes]; rfl

/-! #### Records of one part -/

theorem completionBytes_eq (x : Completion) : completionBytes x = packed
    [(2, x.tag.toNat), (1, x.kindCode.toNat), (1, x.status.code), (1, flagBit x.deferred 0), (1, x.alertCode),
     (1, x.alertCount), (1, 0), (8, x.seq), (2, x.stamp.epoch), (6, x.stamp.ticks), (8, x.detail)] := by
  simp [completionBytes, packed, stampBytes, cons_eq_leBytes x.kindCode]

theorem statusBytes_eq (a b : Nat) (st : ChannelState) (reason : Option FaultReason) :
    statusBytes a b st reason = packed [(2, a), (2, b), (1, st.code), (1, reasonCode reason), (10, 0)] := by
  simp [statusBytes, packed, ← replicate_eq_leBytes]

theorem headerBytes_eq (h : Header) : h.bytes = packed
    [(2, h.format.toNat), (1, h.stateByte.toNat),
     (1, flagBit h.sealFlag 0 + flagBit h.clockValid 1 + h.channel * 16), (2, h.length), (6, h.seq), (2, h.hostId),
     (4, h.serial), (2, h.index), (2, h.stamp.epoch), (6, h.stamp.ticks), (4, h.crc.toNat)] := by
  simp [Header.bytes, Header.bodyBytes, packed, stampBytes, cons_eq_leBytes h.stateByte]

/-! #### The query snapshot -/

theorem snapshotJournal_eq (s : State) : s.snapshotJournal = packed
    [(1, s.device.code), (1, flagBit s.journal.formatted 0), (2, s.journal.format.toNat), (4, s.snapshotFlags),
     (8, s.journal.head), (8, s.journal.nextSeq), (8, s.store.storedThrough)] := by
  simp [State.snapshotJournal, packed]

theorem snapshotBudget_eq (s : State) : s.snapshotBudget = packed
    [(2, s.dirtyCount), (2, s.budget.b), (2, s.monitor.c), (2, s.budget.limit), (1, s.budget.headroom),
     (1, s.budget.held.length), (1, s.store.reservationWaiters.length), (1, s.cc.alerts.length), (2, s.monitor.v),
     (2, microfarads s.monitor.inUse), (2, (s.monitor.learned.map microfarads).getD 0)] := by
  simp [State.snapshotBudget, packed]

theorem snapshotCounts_eq (s : State) : s.snapshotCounts = packed
    [(2, s.countSegs (fun g => g.state == .free)), (2, s.countSegs (fun g => g.state == .retired)),
     (2, s.countSegs (fun g => g.state == .failed)), (2, s.journal.chain.length),
     (1, s.txns.table.countP (fun t => !t.expired)), (1, s.txns.table.countP (fun t => t.expired)),
     (1, s.txnReservations), (1, s.cc.alertWaiters.length), (1, s.waitReservations),
     (1, s.store.waiting.length)] := by
  simp [State.snapshotCounts, packed]

/-- The two stamps at the end of the snapshot, with the reserved bytes behind them. -/
theorem snapshotStamps_eq (s : State) :
    stampBytes s.clock.reading ++ (stampBytes (s.clock.lastStamp.getD Stamp.zero) ++ List.replicate 48 0) = packed
      [(2, s.clock.epoch), (6, s.clock.ticks), (2, (s.clock.lastStamp.map Stamp.epoch).getD 0),
       (6, (s.clock.lastStamp.map Stamp.ticks).getD 0), (48, 0)] := by
  have hstamp : s.clock.lastStamp.getD Stamp.zero =
      ⟨(s.clock.lastStamp.map Stamp.epoch).getD 0, (s.clock.lastStamp.map Stamp.ticks).getD 0⟩ := by
    cases s.clock.lastStamp <;> rfl
  rw [hstamp, replicate_eq_leBytes]
  simp [packed, stampBytes, Clock.reading]

/-- The line store's phase takes two bits of the flag word, one for each phase but none. -/
theorem snapshotFlags_eq (s : State) : s.snapshotFlags =
    flagBit s.budget.exposed 0 + flagBit s.mediaFault 1 + flagBit s.store.metadataDirty 2 +
      flagBit (s.budget.held.any (fun h => h.reason == .budget)) 3 + flagBit s.journal.full 4 +
      flagBit s.clock.clockValid 5 + flagBit (!s.clock.oscRunning) 6 + flagBit (!s.clock.batteryGood) 7 +
      flagBit s.clock.lastStamp.isSome 8 + flagBit (s.store.lineStore == .segments) 9 +
      flagBit (s.store.lineStore == .checkpoint) 10 := by
  have hphase : s.store.lineStore.code * 2 ^ 9 =
      flagBit (s.store.lineStore == .segments) 9 + flagBit (s.store.lineStore == .checkpoint) 10 := by
    cases s.store.lineStore <;> rfl
  rw [State.snapshotFlags, hphase, ← Nat.add_assoc]

theorem length_snapshotBytes (s : State) : s.snapshotBytes.length = 128 := by
  simp [State.snapshotBytes, length_snapshotJournal, length_snapshotBudget, length_snapshotCounts]

/-- The four runs of fields of the snapshot, at 0, 32, 50 and 64. -/
theorem snapshotBytes_laid (s : State) :
    Laid s.snapshotBytes (placed 0
      [(1, s.device.code), (1, flagBit s.journal.formatted 0), (2, s.journal.format.toNat), (4, s.snapshotFlags),
       (8, s.journal.head), (8, s.journal.nextSeq), (8, s.store.storedThrough)]) ∧
    Laid s.snapshotBytes (placed 32
      [(2, s.dirtyCount), (2, s.budget.b), (2, s.monitor.c), (2, s.budget.limit), (1, s.budget.headroom),
       (1, s.budget.held.length), (1, s.store.reservationWaiters.length), (1, s.cc.alerts.length), (2, s.monitor.v),
       (2, microfarads s.monitor.inUse), (2, (s.monitor.learned.map microfarads).getD 0)]) ∧
    Laid s.snapshotBytes (placed 50
      [(2, s.countSegs (fun g => g.state == .free)), (2, s.countSegs (fun g => g.state == .retired)),
       (2, s.countSegs (fun g => g.state == .failed)), (2, s.journal.chain.length),
       (1, s.txns.table.countP (fun t => !t.expired)), (1, s.txns.table.countP (fun t => t.expired)),
       (1, s.txnReservations), (1, s.cc.alertWaiters.length), (1, s.waitReservations),
       (1, s.store.waiting.length)]) ∧
    Laid s.snapshotBytes (placed 64
      [(2, s.clock.epoch), (6, s.clock.ticks), (2, (s.clock.lastStamp.map Stamp.epoch).getD 0),
       (6, (s.clock.lastStamp.map Stamp.ticks).getD 0), (48, 0)]) := by
  have e : s.snapshotBytes = s.snapshotJournal ++ (s.snapshotBudget ++ (s.snapshotCounts ++
      (stampBytes s.clock.reading ++ (stampBytes (s.clock.lastStamp.getD Stamp.zero) ++ List.replicate 48 0)))) := by
    simp [State.snapshotBytes]
  rw [e, snapshotStamps_eq, snapshotJournal_eq, snapshotBudget_eq, snapshotCounts_eq]
  refine ⟨?_, ?_, ?_, ?_⟩
  · exact laid_packed (pre := []) _ rfl
  · exact laid_packed _ (by simp)
  · rw [← List.append_assoc]
    exact laid_packed _ (by simp)
  · rw [← List.append_assoc, ← List.append_assoc, ← List.append_nil (packed [(2, s.clock.epoch), _, _, _, _])]
    exact laid_packed _ (by simp)

/-! #### The recovery report -/

theorem lossBytes_eq (b : Report) : b.lossBytes = packed
    [(1, b.outcome.code), (1, (b.checkpointUsed.map (fun x => x.1.code)).getD 0), (1, b.flags), (1, 0),
     (4, (b.checkpointUsed.map (fun x => x.2.toNat)).getD 0), (2, b.format.toNat), (2, b.segmentsRetired),
     (2, b.dirtyAtLoss), (2, b.storedAtLoss.getD 0)] := by
  simp [Report.lossBytes, packed]

theorem countBytes_eq (b : Report) : b.countBytes = packed
    [(8, b.head), (8, b.nextSeq), (4, b.nextSerial), (4, b.sealedTxns), (4, b.discardedTxns), (4, 0),
     (8, b.liveEntries), (8, b.voidEntries), (8, b.absentTotal)] := by
  simp [Report.countBytes, packed]

theorem length_reportBytes (b : Report) : b.bytes.length = 256 := by
  simp [Report.bytes, length_lossBytes, length_countBytes]

/-- Zero bytes behind a value leave it as it is. -/
theorem leValue_append_zeros (b : List Byte) (n : Nat) : leValue (b ++ List.replicate n 0) = leValue b := by
  induction b with
  | nil => simpa [fieldAt, leValue] using fieldAt_zeros n 0 n
  | cons x xs ih => rw [List.cons_append, leValue, leValue, ih]

/-- A field within the length that bytes are fitted to reads as in the bytes. -/
theorem fieldAt_fitBytes {len off n : Nat} (b : List Byte) (h : off + n ≤ len) :
    fieldAt (fitBytes len b) off n = fieldAt b off n := by
  have hcut : ((fitBytes len b).drop off).take n = ((b ++ List.replicate len 0).drop off).take n := by
    rw [fitBytes, List.drop_take, List.take_take, Nat.min_eq_left (by omega)]
  rw [fieldAt, hcut, List.drop_append, List.take_append, List.drop_replicate, List.take_replicate,
    leValue_append_zeros, fieldAt]

/-- The ranges of a report stand 16 bytes apart, and there is none behind the last (R148). -/
theorem fieldAt_ranges (l : List (Nat × Nat)) (k : Nat) :
    fieldAt (l.flatMap rangeBytes) (16 * k) 8 = (l[k]?.map Prod.fst).getD 0 % 256 ^ 8 ∧
      fieldAt (l.flatMap rangeBytes) (16 * k + 8) 8 = (l[k]?.map Prod.snd).getD 0 % 256 ^ 8 := by
  induction l generalizing k with
  | nil => simp [fieldAt, leValue]
  | cons x xs ih =>
    have e : (x :: xs).flatMap rangeBytes = packed [(8, x.1), (8, x.2)] ++ xs.flatMap rangeBytes := by
      simp [packed, rangeBytes]
    rw [e]
    cases k with
    | zero =>
      have hl := laid_packed (pre := []) (rest := xs.flatMap rangeBytes) [(8, x.1), (8, x.2)] rfl
      exact ⟨hl (0, 8, x.1) (by simp [placed]), hl (8, 8, x.2) (by simp [placed])⟩
    | succ k =>
      have hlen : (packed [(8, x.1), (8, x.2)]).length = 16 := by simp
      have h1 := fieldAt_append_right (packed [(8, x.1), (8, x.2)]) (xs.flatMap rangeBytes) (16 * k) 8
      have h2 := fieldAt_append_right (packed [(8, x.1), (8, x.2)]) (xs.flatMap rangeBytes) (16 * k + 8) 8
      rw [hlen] at h1 h2
      rw [show 16 * (k + 1) = 16 + 16 * k by omega, Nat.add_assoc 16, h1, h2]
      exact ih k

/-- The runs of fields of the report, at 0, 16 and 200, and the eight ranges between. -/
theorem reportBytes_laid (b : Report) :
    Laid b.bytes (placed 0
      [(1, b.outcome.code), (1, (b.checkpointUsed.map (fun x => x.1.code)).getD 0), (1, b.flags), (1, 0),
       (4, (b.checkpointUsed.map (fun x => x.2.toNat)).getD 0), (2, b.format.toNat), (2, b.segmentsRetired),
       (2, b.dirtyAtLoss), (2, b.storedAtLoss.getD 0)]) ∧
    Laid b.bytes (placed 16
      [(8, b.head), (8, b.nextSeq), (4, b.nextSerial), (4, b.sealedTxns), (4, b.discardedTxns), (4, 0),
       (8, b.liveEntries), (8, b.voidEntries), (8, b.absentTotal)]) ∧
    Laid b.bytes (placed 200 [(56, 0)]) ∧
    ∀ k, k < 8 → Laid b.bytes
      [(72 + 16 * k, 8, (b.absentRanges[k]?.map Prod.fst).getD 0),
       (80 + 16 * k, 8, (b.absentRanges[k]?.map Prod.snd).getD 0)] := by
  have e : b.bytes = b.lossBytes ++ (b.countBytes ++
      (fitBytes 128 (b.absentRanges.flatMap rangeBytes) ++ (packed [(56, 0)] ++ []))) := by
    simp [Report.bytes, packed, ← replicate_eq_leBytes]
  refine ⟨?_, ?_, ?_, fun k hk => ?_⟩
  · rw [e, lossBytes_eq]
    exact laid_packed (pre := []) _ rfl
  · rw [e, countBytes_eq]
    exact laid_packed _ (length_lossBytes b)
  · rw [e, ← List.append_assoc, ← List.append_assoc]
    exact laid_packed _ (by simp [length_lossBytes, length_countBytes])
  · have hrange : ∀ off n, off + n ≤ 128 →
        fieldAt b.bytes (72 + off) n = fieldAt (b.absentRanges.flatMap rangeBytes) off n := by
      intro off n hoff
      have hpre : (b.lossBytes ++ b.countBytes).length = 72 := by simp [length_lossBytes, length_countBytes]
      have hcut : ((fitBytes 128 (b.absentRanges.flatMap rangeBytes) ++ (packed [(56, 0)] ++ [])).drop off).take n =
          ((fitBytes 128 (b.absentRanges.flatMap rangeBytes)).drop off).take n := by
        rw [List.drop_append_of_le_length (by simp; omega), List.take_append_of_le_length (by simp; omega)]
      rw [e, ← List.append_assoc, ← hpre, fieldAt_append_right, fieldAt, hcut, ← fieldAt, fieldAt_fitBytes _ hoff]
    obtain ⟨hfst, hsnd⟩ := fieldAt_ranges b.absentRanges k
    intro f hf
    rcases List.mem_cons.mp hf with rfl | hf
    · exact (hrange (16 * k) 8 (by omega)).trans hfst
    · obtain rfl := List.mem_singleton.mp hf
      have hoff : 80 + 16 * k = 72 + (16 * k + 8) := by omega
      simp only [hoff]
      exact (hrange (16 * k + 8) 8 (by omega)).trans hsnd

/-! #### Footprints and headers -/

/-- A footprint is the header and the payload, rounded up to a multiple of 32 (R4). -/
theorem footprint_spec (n : Nat) : footprint n % 32 = 0 ∧ 32 + n ≤ footprint n ∧ footprint n < 32 + n + 32 := by
  unfold footprint
  omega

/-- The flag byte of a header keeps the channel and both flags apart. -/
theorem headerFlags_read {a b : Bool} {c : Nat} :
    bitAt (flagBit a 0 + flagBit b 1 + c * 16) 0 = a ∧ bitAt (flagBit a 0 + flagBit b 1 + c * 16) 1 = b ∧
      (flagBit a 0 + flagBit b 1 + c * 16) / 16 = c ∧ flagBit a 0 + flagBit b 1 < 16 := by
  simp only [bitAt, Nat.testBit_eq_decide_div_mod_eq]
  cases a <;> cases b <;> simp [flagBit] <;> omega

/-- A word as wide as its field is read back whole. -/
theorem ofNat_field {w n : Nat} (x : BitVec w) (h : 2 ^ w = 256 ^ n) : BitVec.ofNat w (x.toNat % 256 ^ n) = x := by
  rw [← h, Nat.mod_eq_of_lt x.isLt, BitVec.ofNat_toNat, BitVec.setWidth_eq]

/-- Every field of a header that fits is read back from its 32 bytes (section 11.4). -/
theorem parseHeader_bytes {h : Header} (hf : h.Fits) : parseHeader h.bytes = h := by
  obtain ⟨hchannel, hlength, hseq, hhost, hserial, hindex, hepoch, hticks⟩ := hf
  obtain ⟨hseal, hvalid, hchan, hflags⟩ := headerFlags_read (a := h.sealFlag) (b := h.clockValid) (c := h.channel)
  have hl := laid_of_eq_packed (headerBytes_eq h)
  simp only [placed, Laid, List.forall_mem_cons, List.not_mem_nil, false_implies, implies_true, and_true] at hl
  obtain ⟨e0, e2, e3, e4, e6, e12, e14, e18, e20, e22, e28⟩ := hl
  rw [Nat.mod_eq_of_lt (by omega)] at e3 e4 e6 e12 e14 e18 e20 e22
  unfold parseHeader
  dsimp only
  rw [e0, e2, e3, e4, e6, e12, e14, e18, e20, e22, e28, hseal, hvalid, hchan]
  rw [ofNat_field h.format rfl, ofNat_field h.stateByte rfl, ofNat_field h.crc rfl]

/-- Settles O10: the flag byte holds channel and flags apart, and every other field is read back as it was written. -/
theorem headerRoundTrip : Obligations.HeaderRoundTrip := fun _ hf => parseHeader_bytes hf

/-- Settles O9: each record is its fields one after the other, so each field stands at the sum of the sizes before it. -/
theorem recordSizes : Obligations.RecordSizes := by
  refine ⟨fun x => ⟨?_, laid_of_eq_packed (completionBytes_eq x)⟩,
    fun a b st reason => ⟨?_, laid_of_eq_packed (statusBytes_eq a b st reason)⟩, fun s => ?_, fun r => ?_,
    fun h => ⟨length_headerBytes h, laid_of_eq_packed (headerBytes_eq h)⟩, by decide, footprint_spec, by decide⟩
  · rw [completionBytes_eq, length_packed]; rfl
  · rw [statusBytes_eq, length_packed]; rfl
  · rw [← snapshotFlags_eq]
    exact ⟨length_snapshotBytes s, snapshotBytes_laid s⟩
  · cases hr : r.report with
    | none =>
      have e : r.reportBytes = List.replicate 256 0 := by rw [Recovery.reportBytes, hr]; rfl
      exact ⟨by rw [e, List.length_replicate], fun _ => e, nofun⟩
    | some b =>
      have e : r.reportBytes = b.bytes := by rw [Recovery.reportBytes, hr]; rfl
      obtain ⟨hloss, hcount, hreserved, hranges⟩ := reportBytes_laid b
      rw [e]
      refine ⟨length_reportBytes b, nofun, fun b' hb => ?_⟩
      cases hb
      exact ⟨hloss, hcount.append hreserved, hranges⟩

end Sys2Proof.Machine

namespace Sys2Proof.Machine

/-! ### A request is taken, moves on, or completes -/

/-- The event of a request that executes, of its kind and in a stage it accepts (R159). -/
theorem withExec_eq {c : ChanId} {k : Kind} {p : Stage → Bool} {f : Executing → State → State} {s : State}
    {r : Executing} (h : (s.chan c).exec = some r) (hk : r.req.kind = k) (hp : p r.stage = true) :
    withExec c k p f s = f r s := by
  simp only [withExec, h]
  rw [if_pos ⟨hk, hp⟩]

/-- `t` is `s` but for what channel `c`'s request holds or waits for. -/
def ApartFrom (c : ChanId) (s t : State) : Prop :=
  t.cc = s.cc ∧ t.budget = s.budget ∧ t.journal.full = s.journal.full ∧
    t.staging.buffers.filter (fun b => b.chan != c) = s.staging.buffers.filter (fun b => b.chan != c) ∧
    t.staging.waiters.filter (fun x => x != c) = s.staging.waiters.filter (fun x => x != c) ∧
    t.journal.readBuffers.filter (fun b => b.chan != c) = s.journal.readBuffers.filter (fun b => b.chan != c) ∧
    t.journal.readWaiters.filter (fun x => x != c) = s.journal.readWaiters.filter (fun x => x != c) ∧
    t.store.reservationWaiters.filter (fun x => x != c) = s.store.reservationWaiters.filter (fun x => x != c)

/-- A completion seen from `t` is one seen from `s`: the request's holdings are returned either way. -/
theorem Completed.of_apart {c : ChanId} {x : Completion} {s t u : State} (h : Completed c x t u)
    (ht : ApartFrom c s t) : Completed c x s u := by
  obtain ⟨hcc, hbudget, hfull, hbuffers, hwaiters, hreadBuffers, hreadWaiters, hreservations⟩ := ht
  obtain ⟨htaken, hchan, hreturned, hothers⟩ := h
  have hc : ∀ d, t.chan d = s.chan d := fun d => by simp [State.chan, hcc]
  have hf : ∀ d, fetchBegun d t u = fetchBegun d s u := fun d => fetchBegun_congr d (by rw [hcc])
  rw [hc, hf] at hchan
  rw [hc, taken_of_posts (s := s) (u := t) (by rw [hcc])] at htaken
  refine ⟨htaken, hchan, ?_, fun d hd => by rw [hothers d hd, hc, hf]⟩
  unfold HoldingsReturned at *
  rwa [hbuffers, hwaiters, hreadBuffers, hreadWaiters, hreservations, hbudget, hfull] at hreturned

/-- The request of an ACTIVE channel completes at the end of an event that has changed its holdings alone. -/
theorem onlyCompletes_apart {c : ChanId} {s t : State} (x : Completion) (test : Bool)
    (h : (s.chan c).state = .active) (ht : ApartFrom c s t) (hs : SameContents s t) :
    OnlyCompletes c x s (.next (settle test (completeExec c x t))) := by
  have hc : t.chan c = s.chan c := by simp [State.chan, ht.1]
  obtain ⟨u, hu, hcompleted, hcontents⟩ := onlyCompletes_settle (s := t) x test (by rw [hc]; exact h)
  exact ⟨u, hu, hcompleted.of_apart ht, hs.trans hcontents⟩

/-- An executing request has moved on to a stage, and the event ends (R159). -/
theorem movedTo_settle {c : ChanId} {st : Stage} {r : Executing} {s t : State} (test : Bool)
    (h : (s.chan c).exec = some r) (ht : t.cc = (setStage c st s).cc) :
    MovedTo c { r with stage := st } s (settle test t) := by
  have hc : t.chan c = { s.chan c with exec := some { r with stage := st } } := by
    have : t.chan c = (setStage c st s).chan c := by simp only [State.chan, ht]
    rw [this, setStage, State.chan_modChan_same, h]
    rfl
  have ho : ∀ d, d ≠ c → t.chan d = s.chan d := fun d hd => by
    have : t.chan d = (setStage c st s).chan d := by simp only [State.chan, ht]
    rw [this, setStage, State.chan_modChan_other _ _ hd]
  have hf : t.cc.fetch = s.cc.fetch := by rw [ht]; simp
  refine ⟨?_, ?_, fun d hd => ?_⟩
  · rw [settle_chan_busy test (by rw [hc]; simp), hc]
  · rw [settle_taken, taken_of_posts (s := s) (by rw [ht]; simp)]
  · rw [settle_channels (fun _ => False) test t d (by simp), ho d hd, fetchBegun_congr d hf]

/-- What the end of an event begins on the link comes after what the event has begun. -/
theorem settle_out (test : Bool) (s : State) : ∃ later, (settle test s).out = later ++ s.out := by
  have h : (startNext test (lineStoreTest s)).out = s.out := by simp
  simp only [settle, fetchArbiter]
  split
  · exact ⟨[], h⟩
  · split
    · exact ⟨[], h⟩
    · rw [← h]
      exact ⟨[_], rfl⟩

/-- An action that an event has begun last, before it ends. -/
theorem emitted_settle {a : LinkAction} {s t : State} (test : Bool) (h : t.out = a :: s.out) :
    Emitted a s (settle test t) := by
  obtain ⟨later, hl⟩ := settle_out test t
  exact ⟨later, by rw [hl, h]⟩

/-- Settles O31: each event is the completion of the executing request, and the end of the event changes nothing else. -/
theorem dataTransfersEnd : Obligations.DataTransfersEnd := by
  intro s c r
  refine ⟨fun ⟨hactive, hexec, hkind, hstage⟩ => ?_, fun seq n stamp ⟨hactive, hexec, hkind, hstage⟩ => ?_⟩
  · have e : exec (.payloadReadEnd c .error) s =
        .next (settle false (completeExec c (r.req.refusal .hostReadError 0) s)) := by
      simp only [exec, execPayloadReadEnd]
      rw [withExec_eq hexec hkind (by simp [hstage])]
    rw [e]
    exact onlyCompletes_settle _ _ hactive
  · have e : ∀ ok, exec (.readDataWriteEnd c ok) s = .next (settle false (endRead c ok r s)) := fun ok => by
      simp only [exec, execReadDataWriteEnd]
      rw [withExec_eq hexec hkind rfl]
    rw [e, e, endRead, endRead, hstage]
    exact ⟨onlyCompletes_settle _ _ hactive, onlyCompletes_settle _ _ hactive⟩

/-! ### READ (R21 to R23) -/

/-- The state in which a READ makes its lookup: it holds a read buffer (R22). -/
def withReadBuffer (c : ChanId) (s : State) : State :=
  { s with journal.readBuffers := s.journal.readBuffers ++ [{ chan := c, data := [] }] }

theorem takeReadBuffer_eq (c : ChanId) (r : Executing) (s : State) :
    takeReadBuffer c r s = readLookup c r (withReadBuffer c s) := rfl

theorem exec_read_taken {c : ChanId} {r : Executing} {s : State} (h : Executes c .read .handed r s)
    (hf : s.journal.formatted = true) (hb : s.journal.readBuffers.length < 2) (hw : s.journal.readWaiters = []) :
    exec (.read c) s = .next (settle false (takeReadBuffer c r s)) := by
  obtain ⟨-, hexec, hkind, hstage⟩ := h
  simp only [exec, execRead]
  rw [withExec_eq hexec hkind (by simp [hstage, Stage.isHanded])]
  simp [beginRead, hf, hb, hw]

theorem exec_read_waits {c : ChanId} {r : Executing} {s : State} (h : Executes c .read .handed r s)
    (hf : s.journal.formatted = true) (hw : 2 ≤ s.journal.readBuffers.length ∨ s.journal.readWaiters ≠ []) :
    exec (.read c) s = .next (settle false
      (setStage c .waitReadBuffer { s with journal.readWaiters := s.journal.readWaiters ++ [c] })) := by
  obtain ⟨-, hexec, hkind, hstage⟩ := h
  have hn : ¬(s.journal.readBuffers.length < 2 ∧ s.journal.readWaiters = []) := fun ⟨h1, h2⟩ =>
    hw.elim (fun h => absurd h1 (Nat.not_lt.mpr h)) (fun h => h h2)
  simp only [exec, execRead]
  rw [withExec_eq hexec hkind (by simp [hstage, Stage.isHanded])]
  rw [beginRead, if_neg (by simp [hf]), if_neg hn]

theorem exec_readBufferClaim_taken {c : ChanId} {r : Executing} {s : State} {rest : List ChanId}
    (h : (s.chan c).exec = some r) (hb : s.journal.readBuffers.length < 2) (hw : s.journal.readWaiters = c :: rest) :
    exec .readBufferClaim s =
      .next (settle false (takeReadBuffer c r { s with journal.readWaiters := rest })) := by
  simp only [exec, execReadBufferClaim, hw, h]
  rw [if_pos hb]

/-- The tests of R21 in order: the first that applies refuses the READ. -/
theorem readLookup_refuses {c : ChanId} {r : Executing} {s : State} :
    (r.req.seq ≤ s.journal.head → readLookup c r s = refuseRead c r .released 0 s) ∧
    (s.journal.head < r.req.seq → s.journal.nextSeq ≤ r.req.seq → readLookup c r s = refuseRead c r .range 0 s) ∧
    (s.journal.head < r.req.seq → r.req.seq < s.journal.nextSeq →
      (s.lookup r.req.seq = none → readLookup c r s = refuseRead c r .absent 0 s) ∧
      ∀ i off h, s.lookup r.req.seq = some (i, off, h) →
        (h.stateByte = 2 → readLookup c r s = refuseRead c r .discarded 0 s) ∧
        (h.stateByte ≠ 2 → h.serial ≠ 0 → (∃ t ∈ s.txns.table, t.serial = h.serial) →
          readLookup c r s = refuseRead c r .notSealed 0 s) ∧
        (h.stateByte ≠ 2 → (h.serial = 0 ∨ ∀ t ∈ s.txns.table, t.serial ≠ h.serial) →
          (r.req.bufLength < 32 + h.length →
            readLookup c r s = refuseRead c r .tooSmall (32 + h.length) s) ∧
          (32 + h.length ≤ r.req.bufLength → readLookup c r s = copyEntry c r i off h s))) := by
  refine ⟨fun h => by simp [readLookup, h], fun h1 h2 => by simp [readLookup, Nat.not_le.mpr h1, h2],
    fun h1 h2 => ⟨fun h => by simp [readLookup, Nat.not_le.mpr h1, Nat.not_le.mpr h2, h], fun i off h hl => ?_⟩⟩
  have hpast : readLookup c r s =
      if h.stateByte = voidByte then refuseRead c r .discarded 0 s
      else if h.serial ≠ 0 ∧ s.txns.table.any (fun t => t.serial == h.serial) then refuseRead c r .notSealed 0 s
      else if r.req.bufLength < 32 + h.length then refuseRead c r .tooSmall (32 + h.length) s
      else copyEntry c r i off h s := by
    simp [readLookup, Nat.not_le.mpr h1, Nat.not_le.mpr h2, hl]
  rw [hpast]
  have hlive : h.stateByte ≠ 2 → ¬ h.stateByte = voidByte := id
  refine ⟨fun hv => if_pos hv, fun hv h0 hopen => ?_, fun hv hsealed => ?_⟩
  · rw [if_neg (hlive hv), if_pos ⟨h0, by simpa using hopen⟩]
  · have hn : ¬(h.serial ≠ 0 ∧ s.txns.table.any (fun t => t.serial == h.serial) = true) := by
      rintro ⟨h0, hany⟩
      obtain ⟨t, ht, he⟩ := List.any_eq_true.mp hany
      exact hsealed.elim h0 (fun h => h t ht (by simpa using he))
    rw [if_neg (hlive hv), if_neg hn]
    exact ⟨fun hlen => if_pos hlen, fun hlen => if_neg (Nat.not_lt.mpr hlen)⟩

/-- A READ that its lookup refuses completes, and its read buffer is returned (R21, R22). -/
theorem onlyCompletes_refuseRead {c : ChanId} {r : Executing} {s : State} {waiters : List ChanId} {status : Status}
    {detail : Nat} (h : (s.chan c).state = .active)
    (hw : waiters.filter (fun x => x != c) = s.journal.readWaiters.filter (fun x => x != c)) :
    OnlyCompletes c (r.req.completion status r.req.seq Stamp.zero detail) s
      (.next (settle false
        (refuseRead c r status detail (withReadBuffer c { s with journal.readWaiters := waiters })))) := by
  refine onlyCompletes_apart _ _ h ⟨rfl, rfl, rfl, rfl, rfl, by simp [withReadBuffer], hw, rfl⟩ ⟨?_, ?_⟩
  · exact ⟨rfl, rfl, rfl, rfl, rfl, rfl, fun i => Segment.SameLog.refl _⟩
  · unfold SameUnits
    simp [withReadBuffer]

/-- The event at which a READ makes its lookup, taken at once or handed a returned buffer (R22). -/
theorem exec_read_lookup {c : ChanId} {r : Executing} {s : State} {o : Result} (hf : s.journal.formatted = true)
    (hb : s.journal.readBuffers.length < 2)
    (h : (Executes c .read .handed r s ∧ s.journal.readWaiters = [] ∧ o = exec (.read c) s) ∨
      (Executes c .read .waitReadBuffer r s ∧ s.journal.readWaiters.head? = some c ∧ o = exec .readBufferClaim s)) :
    (s.chan c).state = .active ∧ ∃ waiters,
      waiters.filter (fun x => x != c) = s.journal.readWaiters.filter (fun x => x != c) ∧
      o = .next (settle false (readLookup c r (withReadBuffer c { s with journal.readWaiters := waiters }))) := by
  rcases h with ⟨h, hw, ho⟩ | ⟨h, hw, ho⟩
  · exact ⟨h.1, s.journal.readWaiters, rfl, ho.trans (exec_read_taken h hf hb hw)⟩
  · obtain ⟨rest, hrest⟩ := List.head?_eq_some_iff.mp hw
    exact ⟨h.1, rest, by simp [hrest], ho.trans (exec_readBufferClaim_taken h.2.1 hb hrest)⟩

/-- A READ that passes every test copies its entry and begins its host write (R23). -/
theorem snapshotTaken {c : ChanId} {r : Executing} {s : State} {i : SegId} {off : Nat} {h : Header}
    (he : (s.chan c).exec = some r)
    (hl : readLookup c r (withReadBuffer c s) = copyEntry c r i off h (withReadBuffer c s)) :
    SnapshotTaken c r i off h s (settle false (takeReadBuffer c r s)) := by
  rw [takeReadBuffer_eq, hl]
  have hcontents : SameContents s (copyEntry c r i off h (withReadBuffer c s)) := by
    refine ⟨⟨by simp [withReadBuffer], by simp [withReadBuffer], by simp [withReadBuffer], by simp [withReadBuffer],
      by simp [withReadBuffer], by simp [withReadBuffer], SameSegments.of_segs (by simp [withReadBuffer])⟩, ?_⟩
    unfold SameUnits
    simp [withReadBuffer]
  refine ⟨movedTo_settle false he rfl, ?_, ?_, emitted_settle false rfl, hcontents.trans (settle_contents _ _)⟩
  · simp [copyEntry, withReadBuffer]
  · simp [copyEntry, withReadBuffer]

/-- Settles O30: the READ that passes copies its entry whether taken at once or handed a buffer, else it joins the
waiters. -/
theorem readCopies : Obligations.ReadCopies := by
  intro s c r hf
  refine ⟨fun i off h hhead hnext hl hv hsealed hlen hb => ⟨fun hx hw => ?_, fun rest hx hw => ?_⟩, fun hx hw => ?_⟩
  · have hcopy : readLookup c r (withReadBuffer c s) = copyEntry c r i off h (withReadBuffer c s) :=
      (((readLookup_refuses (s := withReadBuffer c s)).2.2 hhead hnext).2 i off h hl).2.2 hv hsealed |>.2 hlen
    exact ⟨_, exec_read_taken hx hf hb hw, snapshotTaken hx.2.1 hcopy⟩
  · have hcopy : readLookup c r (withReadBuffer c { s with journal.readWaiters := rest }) =
        copyEntry c r i off h (withReadBuffer c { s with journal.readWaiters := rest }) :=
      (((readLookup_refuses (s := withReadBuffer c { s with journal.readWaiters := rest })).2.2
        hhead hnext).2 i off h hl).2.2 hv hsealed |>.2 hlen
    refine ⟨_, exec_readBufferClaim_taken hx.2.1 hb hw, snapshotTaken hx.2.1 hcopy, ?_⟩
    rw [takeReadBuffer_eq, hcopy]
    simp [withReadBuffer]
  · refine ⟨_, exec_read_waits hx hf hw, movedTo_settle false hx.2.1 rfl, by simp, by simp, ?_⟩
    refine SameContents.trans (t := setStage c .waitReadBuffer
      { s with journal.readWaiters := s.journal.readWaiters ++ [c] }) ⟨?_, ?_⟩ (settle_contents _ _)
    · exact ⟨by simp, by simp, by simp, by simp, by simp, by simp, SameSegments.of_segs (by simp)⟩
    · unfold SameUnits
      simp

/-! #### The lookup (R21) -/

/-- The walk of a segment's headers finds headers that lie below the fill. -/
theorem walkFrom_mem {mem : Memory} {base fill fuel off : Nat} {e : Nat × Header}
    (h : e ∈ walkFrom mem base fill fuel off) :
    e.1 + 32 ≤ fill ∧ e.2 = parseHeader (mem.readBytes (base + e.1) 32) := by
  induction fuel generalizing off with
  | zero => cases h
  | succ fuel ih =>
    simp only [walkFrom] at h
    split at h
    · rename_i hoff
      rcases List.mem_cons.mp h with rfl | h
      · exact ⟨hoff, rfl⟩
      · exact ih h
    · cases h

theorem holdsSeq_iff {g : Segment} {n : Nat} :
    g.holdsSeq n = true ↔ ∃ a b, g.firstSeq = some a ∧ g.lastSeq = some b ∧ a ≤ n ∧ n ≤ b := by
  unfold Segment.holdsSeq
  cases g.firstSeq <;> cases g.lastSeq <;> simp [between]

/-- What the lookup finds stands in a segment of the chain whose range holds the sequence number. -/
theorem lookup_spec {s : State} {n : Nat} {i : SegId} {off : Nat} {h : Header} (hl : s.lookup n = some (i, off, h)) :
    i ∈ s.journal.chain ∧ (s.seg i).holdsSeq n = true ∧ (off, h) ∈ s.entriesOf i ∧ h.seq = n := by
  unfold State.lookup at hl
  split at hl
  · cases hl
  · rename_i j hj
    obtain ⟨e, he, heq⟩ := Option.map_eq_some_iff.mp hl
    cases heq
    exact ⟨List.mem_of_find?_eq_some hj, by simpa using List.find?_some hj, List.mem_of_find?_eq_some he,
      by simpa using List.find?_some he⟩

theorem footprint_ge (n : Nat) : 32 ≤ footprint n := Nat.le_add_right 32 _

/-- The footprints of the entries that a walk finds. -/
def walkLength (l : List (Nat × Header)) : Nat := (l.map (fun e => footprint e.2.length)).sum

theorem length_le_walkLength (l : List (Nat × Header)) : 32 * l.length ≤ walkLength l := by
  induction l with
  | nil => exact Nat.zero_le _
  | cons x xs ih =>
    have := footprint_ge x.2.length
    simp only [walkLength, List.map_cons, List.sum_cons, List.length_cons] at ih ⊢
    omega

/-- A walk whose entries fill the segment meets, behind them, the entry that a commit has placed at the fill (R11). -/
theorem walkFrom_placed {mem mem' : Memory} {base fill : Nat} {h : Header} (fuel off : Nat)
    (hbelow : ∀ x, x < base + fill → mem'.read x = mem.read x)
    (hplaced : parseHeader (mem'.readBytes (base + fill) 32) = h) (hoff : off ≤ fill)
    (hfill : walkLength (walkFrom mem base fill fuel off) = fill - off)
    (hfuel : (walkFrom mem base fill fuel off).length < fuel) :
    walkFrom mem' base (fill + footprint h.length) fuel off = walkFrom mem base fill fuel off ++ [(fill, h)] := by
  induction fuel generalizing off with
  | zero => simp at hfuel
  | succ fuel ih =>
    have hfp := footprint_ge h.length
    by_cases hin : off + 32 ≤ fill
    · have hsame : mem'.readBytes (base + off) 32 = mem.readBytes (base + off) 32 :=
        readBytes_congr _ _ (fun x _ h2 => hbelow x (by omega))
      simp only [walkFrom, if_pos hin, walkLength, List.map_cons, List.sum_cons, List.length_cons] at hfill hfuel ⊢
      rw [if_pos (by omega), hsame, List.cons_append]
      rw [ih _ (by omega) (by simp only [walkLength]; omega) (by omega)]
    · simp only [walkFrom, if_neg hin, walkLength, List.map_nil, List.sum_nil] at hfill ⊢
      obtain rfl : off = fill := by omega
      rw [if_pos (by omega), hplaced]
      cases fuel with
      | zero => rfl
      | succ fuel => simp only [walkFrom]; rw [if_neg (by omega)]; rfl

/-- The entries of the segment that a commit has placed an entry in: those it held, and behind them the new one. -/
theorem entriesOf_placed {s u : State} {i : SegId} {h : Header} {payload : List Byte} (hp : Placed i h payload s u)
    (hf : h.Fits) (hfilled : s.Filled i) (hroom : (s.seg i).fill + footprint h.length ≤ 4096) :
    u.entriesOf i = s.entriesOf i ++ [((s.seg i).fill, h)] := by
  obtain ⟨hheader, -, houtside, ⟨-, -, -, hfill, -⟩, -⟩ := hp
  have hwalk : walkLength (s.entriesOf i) = (s.seg i).fill := hfilled
  have hcount := length_le_walkLength (s.entriesOf i)
  have hfp := footprint_ge h.length
  unfold State.entriesOf
  rw [hfill]
  exact walkFrom_placed 128 0 (fun x hx => houtside x (Or.inl hx)) (by rw [hheader, parseHeader_bytes hf])
    (Nat.zero_le _) hwalk (by unfold State.entriesOf at *; omega)

/-- An entry that a commit has placed is found at its sequence number, where it stands. -/
theorem lookup_placed {s u : State} {i : SegId} {h : Header} {payload : List Byte} (hp : Placed i h payload s u)
    (hentries : u.entriesOf i = s.entriesOf i ++ [((s.seg i).fill, h)]) (hi : i ∈ s.journal.chain)
    (hfirst : ∀ a ∈ (s.seg i).firstSeq, a ≤ h.seq) (hnew : ∀ e ∈ s.entriesOf i, e.2.seq ≠ h.seq)
    (hothers : ∀ j ∈ s.journal.chain, j ≠ i → (s.seg j).holdsSeq h.seq = false) :
    u.lookup h.seq = some (i, (s.seg i).fill, h) := by
  obtain ⟨-, -, -, ⟨-, hfirst', hlast', -, -⟩, hsame, hchain, -⟩ := hp
  have hholds : (u.seg i).holdsSeq h.seq = true := by
    refine holdsSeq_iff.mpr ⟨(s.seg i).firstSeq.getD h.seq, h.seq, hfirst', hlast', ?_, Nat.le_refl _⟩
    cases hs : (s.seg i).firstSeq with
    | none => exact Nat.le_refl _
    | some a => exact hfirst a hs
  have hseg : u.journal.chain.find? (fun j => (u.seg j).holdsSeq h.seq) = some i := by
    have hsome : (u.journal.chain.find? (fun j => (u.seg j).holdsSeq h.seq)).isSome :=
      List.find?_isSome.mpr ⟨i, by rw [hchain]; exact hi, hholds⟩
    obtain ⟨j, hj⟩ := Option.isSome_iff_exists.mp hsome
    have hjm : j ∈ s.journal.chain := hchain ▸ List.mem_of_find?_eq_some hj
    have hjh : (u.seg j).holdsSeq h.seq = true := by simpa using List.find?_some hj
    by_cases e : j = i
    · rw [hj, e]
    · obtain ⟨-, h1, h2, -, -⟩ := hsame j e
      have := hothers j hjm e
      rw [Segment.holdsSeq, ← h1, ← h2, ← Segment.holdsSeq] at this
      rw [this] at hjh
      cases hjh
  have hentry : (u.entriesOf i).find? (fun e => e.2.seq == h.seq) = some ((s.seg i).fill, h) := by
    have hnone : (s.entriesOf i).find? (fun e => e.2.seq == h.seq) = none :=
      List.find?_eq_none.mpr (fun e he => by simpa using hnew e he)
    rw [hentries, List.find?_append, hnone]
    simp
  simp [State.lookup, hseg, hentry]

/-- Settles O29: the lookup by the walk of the segment's headers, the refusals by the order of the tests. -/
theorem readRefusals : Obligations.ReadRefusals := by
  refine ⟨fun s n i off h hl => ?_, fun s u i h payload hp hf hi hfilled hroom hfirst hnew hothers => ?_,
    fun s c r o hf hb ho => ?_⟩
  · obtain ⟨hi, hholds, hentry, hseq⟩ := lookup_spec hl
    obtain ⟨hoff, hparse⟩ := walkFrom_mem hentry
    exact ⟨hi, holdsSeq_iff.mp hholds, hoff, hparse, hseq⟩
  · have hentries := entriesOf_placed hp hf hfilled hroom
    refine ⟨?_, hentries, lookup_placed hp hentries hi hfirst hnew hothers⟩
    obtain ⟨-, -, -, ⟨-, -, -, hfill, -⟩, -⟩ := hp
    unfold State.Filled at *
    rw [hentries, hfill, List.map_append, List.sum_append, hfilled]
    simp
  · obtain ⟨hactive, waiters, hwaiters, rfl⟩ := exec_read_lookup hf hb ho
    obtain ⟨hreleased, hrange, hin⟩ :=
      readLookup_refuses (c := c) (r := r) (s := withReadBuffer c { s with journal.readWaiters := waiters })
    have refused : ∀ {status detail}, readLookup c r (withReadBuffer c { s with journal.readWaiters := waiters }) =
        refuseRead c r status detail (withReadBuffer c { s with journal.readWaiters := waiters }) →
        OnlyCompletes c (r.req.completion status r.req.seq Stamp.zero detail) s (.next (settle false
          (readLookup c r (withReadBuffer c { s with journal.readWaiters := waiters })))) := fun h => by
      rw [h]
      exact onlyCompletes_refuseRead hactive hwaiters
    refine ⟨fun h => refused (hreleased h), fun h1 h2 => refused (hrange h1 h2), fun h1 h2 => ?_⟩
    obtain ⟨habsent, hfound⟩ := hin h1 h2
    refine ⟨fun h => refused (habsent h), fun i off h hl => ?_⟩
    obtain ⟨hvoid, hopen, hshort⟩ := hfound i off h hl
    exact ⟨fun hv => refused (hvoid hv), fun hv h0 ht => refused (hopen hv h0 ht),
      fun hv hs hlen => refused ((hshort hv hs).1 hlen)⟩

end Sys2Proof.Machine

namespace Sys2Proof.Machine

/-! ### The search for a segment to open (R18) -/

/-- In an ascending list the search finds the lowest number that passes. -/
theorem find?_ascending {l : List SegId} (hl : l.Pairwise (· < ·)) {p : SegId → Bool} {j : SegId} :
    l.find? p = some j ↔ j ∈ l ∧ p j = true ∧ ∀ i ∈ l, p i = true → j ≤ i := by
  induction l with
  | nil => simp
  | cons x xs ih =>
    obtain ⟨hx, hxs⟩ := List.pairwise_cons.mp hl
    cases hp : p x with
    | true =>
      rw [List.find?_cons_of_pos hp]
      refine ⟨fun e => ?_, fun ⟨hj, hpj, hleast⟩ => ?_⟩
      · cases e
        refine ⟨List.mem_cons_self, hp, fun i hi _ => ?_⟩
        rcases List.mem_cons.mp hi with rfl | hi
        · exact le_refl _
        · exact le_of_lt (hx i hi)
      · rcases List.mem_cons.mp hj with rfl | hj
        · rfl
        · exact absurd (hleast x List.mem_cons_self hp) (not_le.mpr (hx j hj))
    | false =>
      rw [List.find?_cons_of_neg (by simp [hp]), ih hxs]
      refine ⟨fun ⟨hj, hpj, hleast⟩ => ⟨List.mem_cons_of_mem _ hj, hpj, fun i hi hpi => ?_⟩,
        fun ⟨hj, hpj, hleast⟩ => ⟨?_, hpj, fun i hi => hleast i (List.mem_cons_of_mem _ hi)⟩⟩
      · rcases List.mem_cons.mp hi with rfl | hi
        · rw [hp] at hpi; cases hpi
        · exact hleast i hi hpi
      · rcases List.mem_cons.mp hj with rfl | hj
        · rw [hp] at hpj; cases hpj
        · exact hj

theorem pairwise_finRange : (List.finRange 512).Pairwise (· < ·) := List.pairwise_lt_finRange 512

/-- The segments above the tail come first in the search, then those up to it. -/
theorem mem_drop_finRange {t i : SegId} : i ∈ (List.finRange 512).drop (t.val + 1) ↔ t < i := by
  rw [List.mem_drop_iff_getElem]
  refine ⟨fun ⟨n, hn, e⟩ => ?_, fun h => ⟨i.val - (t.val + 1), ?_, ?_⟩⟩
  · rw [List.getElem_finRange] at e
    have : t.val + 1 + n = i.val := congrArg Fin.val e
    exact Fin.lt_def.mpr (by omega)
  · have := Fin.lt_def.mp h
    rw [List.length_finRange]
    omega
  · have := Fin.lt_def.mp h
    rw [List.getElem_finRange]
    exact Fin.ext (by simp only [Fin.cast_mk]; omega)

theorem mem_take_finRange {t i : SegId} : i ∈ (List.finRange 512).take (t.val + 1) ↔ i ≤ t := by
  rw [List.mem_take_iff_getElem]
  refine ⟨fun ⟨n, hn, e⟩ => ?_, fun h => ⟨i.val, ?_, ?_⟩⟩
  · rw [List.getElem_finRange] at e
    have : n = i.val := congrArg Fin.val e
    exact Fin.le_def.mpr (by omega)
  · have := Fin.le_def.mp h
    rw [List.length_finRange]
    omega
  · rw [List.getElem_finRange]
    rfl

theorem allocate_none_iff {s : State} {j : SegId} :
    s.allocate none = some j ↔ (s.seg j).state = .free ∧ ∀ i, (s.seg i).state = .free → j ≤ i := by
  rw [State.allocate, allocationOrder, find?_ascending pairwise_finRange]
  simp [List.mem_finRange]

/-- With a tail the search looks above it first; only when no FREE segment lies there does it look at the others. -/
theorem allocate_some_iff {s : State} {t j : SegId} :
    s.allocate (some t) = some j ↔ (s.seg j).state = .free ∧
      ((t < j ∧ ∀ i, (s.seg i).state = .free → t < i → j ≤ i) ∨
        (j ≤ t ∧ (∀ i, (s.seg i).state = .free → i ≤ t) ∧ ∀ i, (s.seg i).state = .free → j ≤ i)) := by
  have habove : ∀ k, ((List.finRange 512).drop (t.val + 1)).find? (fun i => (s.seg i).state == .free) = some k ↔
      t < k ∧ (s.seg k).state = .free ∧ ∀ i, t < i → (s.seg i).state = .free → k ≤ i := fun k => by
    simp only [find?_ascending (pairwise_finRange.sublist (List.drop_sublist _ _)), mem_drop_finRange, beq_iff_eq]
  have hupto : ((List.finRange 512).take (t.val + 1)).find? (fun i => (s.seg i).state == .free) = some j ↔
      j ≤ t ∧ (s.seg j).state = .free ∧ ∀ i, i ≤ t → (s.seg i).state = .free → j ≤ i := by
    simp only [find?_ascending (pairwise_finRange.sublist (List.take_sublist _ _)), mem_take_finRange, beq_iff_eq]
  rw [State.allocate, allocationOrder, List.find?_append]
  cases hfind : ((List.finRange 512).drop (t.val + 1)).find? (fun i => (s.seg i).state == .free) with
  | some k =>
    obtain ⟨hk, hfree, hleast⟩ := (habove k).mp hfind
    rw [Option.some_or, ← hfind, habove]
    refine ⟨fun ⟨h1, h2, h3⟩ => ⟨h2, Or.inl ⟨h1, fun i hi ht => h3 i ht hi⟩⟩, fun ⟨h2, h⟩ => ?_⟩
    rcases h with ⟨h1, h3⟩ | ⟨-, hall, -⟩
    · exact ⟨h1, h2, fun i ht hi => h3 i hi ht⟩
    · exact absurd (hall k hfree) (not_le.mpr hk)
  | none =>
    have hnone : ∀ i, (s.seg i).state = .free → i ≤ t := fun i hi => by
      by_contra hlt
      have := List.find?_eq_none.mp hfind i (mem_drop_finRange.mpr (not_le.mp hlt))
      simp [hi] at this
    rw [Option.none_or, hupto]
    refine ⟨fun ⟨h1, h2, h3⟩ => ⟨h2, Or.inr ⟨h1, hnone, fun i hi => h3 i (hnone i hi) hi⟩⟩, fun ⟨h2, h⟩ => ?_⟩
    rcases h with ⟨h1, -⟩ | ⟨h1, -, h3⟩
    · exact absurd (hnone j h2) (not_le.mpr h1)
    · exact ⟨h1, h2, fun i _ hi => h3 i hi⟩

theorem mem_allocationOrder (tail : Option SegId) (i : SegId) : i ∈ allocationOrder tail := by
  cases tail with
  | none => exact List.mem_finRange i
  | some t =>
    rw [allocationOrder, List.mem_append, mem_drop_finRange, mem_take_finRange]
    exact lt_or_ge t i

/-- Settles O35: the search order is the ascending numbers above the tail, then those up to it. -/
theorem State.allocationOrder : Obligations.AllocationOrder := by
  intro s
  refine ⟨fun j => allocate_none_iff, fun t j => allocate_some_iff, fun tail ⟨i, hi⟩ => ?_,
    fun fp h => by rw [prepareSegment, if_pos h], fun fp h => by rw [prepareSegment, if_neg (by simp [h])],
    fun tail j h => ⟨by simp [openNew, h], by rw [openNew_seg h, if_pos rfl]⟩⟩
  exact Option.isSome_iff_exists.mp (List.find?_isSome.mpr ⟨i, mem_allocationOrder tail i, by simp [hi]⟩)

end Sys2Proof.Machine

namespace Sys2Proof.Machine

/-! ### The answers of waiting records (R83, R85, R156) -/

theorem takenBy_eq (s : State) : s.takenBy = s.taken.map (fun x => (x.1, x.2.2)) := by
  simp [State.takenBy, State.taken]

/-- A completion on an ACTIVE channel, or on a DRAINING one that has others in flight, ends no drain (R156). -/
theorem handCompletion_keeps_open {c : ChanId} {s : State} (x : Completion)
    (h : (s.chan c).state = .active ∨ ((s.chan c).state = .draining ∧ 1 < (s.chan c).inFlight)) :
    handCompletion c x s = takeSlot c x s ∧ (s.chan c).live = true := by
  rcases h with h | ⟨h, hin⟩
  · exact ⟨handCompletion_active x h, live_of_active h⟩
  · have hlive : (s.chan c).live = true := by simp [Channel.live, h]
    refine ⟨?_, hlive⟩
    rw [handCompletion, drainCheck, takeSlot_chan_same x hlive, if_neg]
    rintro ⟨-, hzero⟩
    simp only at hzero
    omega

/-- The records of a list that can be answered still can when the first of them has been. -/
theorem canAnswer_rest {s : State} {w : Waiter} {l : List Waiter} (x : Completion) (h : s.CanAnswer (w :: l))
    (hlive : (s.chan w.chan).live = true) : (takeSlot w.chan x s).CanAnswer l := by
  intro v hv
  have hs := h v (List.mem_cons_of_mem _ hv)
  by_cases e : v.chan = w.chan
  · rw [e] at hs ⊢
    rw [takeSlot_chan_same x hlive]
    rw [List.countP_cons_of_pos (by simp)] at hs
    exact hs.imp_right fun ⟨hd, hc⟩ => ⟨hd, by simp only; omega⟩
  · rw [takeSlot_chan_other x s e]
    rwa [List.countP_cons_of_neg (by simpa using fun e' => e e'.symm)] at hs

/-- Records that can be answered take their completions in the list's order. -/
theorem completeWaiters_takenBy (status : Status) (l : List Waiter) {s : State} (h : s.CanAnswer l) :
    (l.foldl (completeWaiter status) s).takenBy = s.takenBy ++ endings status s.store.storedThrough l := by
  induction l generalizing s with
  | nil => simp [endings]
  | cons w l ih =>
    have hw := h w List.mem_cons_self
    rw [List.countP_cons_of_pos (by simp)] at hw
    obtain ⟨hopen, hlive⟩ := handCompletion_keeps_open (w.completion status s.store.storedThrough)
      (hw.imp_right fun ⟨hd, hc⟩ => ⟨hd, by omega⟩)
    rw [List.foldl_cons, completeWaiter, hopen, ih (canAnswer_rest _ h hlive)]
    have htaken := congrArg (List.map fun x => (x.1, x.2.2))
      (takeSlot_taken (w.completion status s.store.storedThrough) hlive)
    rw [← takenBy_eq, List.map_append, ← takenBy_eq] at htaken
    rw [htaken]
    simp [endings]

/-- What a rise of S answers is what its recomputation answers (R82, R83). -/
theorem recomputeS_answers (s : State) : Answers false [] s (recomputeS s) := by
  have hexposure : s.exposureAnswers false = [] := by simp [State.exposureAnswers]
  refine ⟨?_, fun hcan => ?_⟩
  · rw [recomputeS_waiting, recomputeS_storedThrough]
    split <;> simp [*]
  · rw [hexposure, List.nil_append, recomputeS_storedThrough] at hcan ⊢
    rw [List.append_nil]
    simp only [recomputeS]
    split
    · rename_i hrise
      have hcover : s.coverAnswers false s.storedThroughNow =
          s.store.waiting.filter (fun w => decide (w.target ≤ s.storedThroughNow)) := by
        simp [State.coverAnswers, hrise]
      rw [hcover] at hcan ⊢
      exact completeWaiters_takenBy .ok _ (s := { s with
        store.storedThrough := s.storedThroughNow,
        store.waiting := s.store.waiting.filter (fun w => !decide (w.target ≤ s.storedThroughNow)) }) hcan
    · rename_i hrise
      have hcover : s.coverAnswers false s.storedThroughNow = [] := by simp [State.coverAnswers, hrise]
      rw [hcover]
      simp [endings, State.takenBy]

theorem Answers.of_eq {ended : Bool} {own : List (ChanId × Completion)} {s t u : State} (h : Answers ended own t u)
    (hw : t.store.waiting = s.store.waiting) (hs : t.store.storedThrough = s.store.storedThrough)
    (hc : t.cc = s.cc) : Answers ended own s u := by
  unfold Answers State.CanAnswer State.exposureAnswers State.coverAnswers State.takenBy State.chan at *
  rwa [hw, hs, hc] at h

/-! ### Closing the OPEN segment (R15, R72, R98) -/

/-- A dirty OPEN or FULL segment that is not in store stands in the queue once it is queued (R71). -/
theorem mem_queueSeg {s : State} {i : SegId} (hst : (s.seg i).state = .openS ∨ (s.seg i).state = .full)
    (hd : (s.seg i).dirty = true) (hs : (s.seg i).inStore = false) : i ∈ (queueSeg i s).store.queue := by
  unfold queueSeg
  by_cases hq : i ∈ s.store.queue
  · rw [if_neg (fun h => h.2.2.2 hq)]
    exact hq
  · rw [if_pos ⟨hst, hd, by simp [hs], hq⟩]
    simp

theorem queueSeg_seg (i j : SegId) (s : State) : (queueSeg i s).seg j = s.seg j := by simp [State.seg]

theorem recomputeS_seg (j : SegId) (s : State) : (recomputeS s).seg j = s.seg j := by simp [State.seg]

/-- The close stops the idle timer and leaves the other records and SRAM as they are (R74). -/
theorem closeOpen_leaves {s : State} {i : SegId} (h : s.openSegment = some i) :
    (closeOpen s).store.idleTimer = none ∧ (∀ j, j ≠ i → (closeOpen s).seg j = s.seg j) ∧
      (closeOpen s).journal.sram = s.journal.sram := by
  refine ⟨?_, fun j hj => ?_, by simp⟩
  · simp only [closeOpen, h]
    (repeat' split) <;> simp
  · cases hc : (s.seg i).coveredBy s.journal.head with
    | false =>
      rw [closeOpen_full h hc, queueSeg_seg]
      exact State.seg_modSeg_other { s with store.idleTimer := none } _ hj
    | true =>
      cases hs : (s.seg i).inStore with
      | true =>
        rw [closeOpen_freeing h hc hs]
        exact State.seg_modSeg_other { s with store.idleTimer := none } _ hj
      | false =>
        cases hd : (s.seg i).dirty with
        | true =>
          rw [closeOpen_freeDirty h hc hs hd, recomputeS_seg, freeSegment_seg, if_neg hj]
          rfl
        | false =>
          rw [closeOpen_freeClean h hc hs hd, freeSegment_seg, if_neg hj]
          rfl

/-- Only the close that frees a dirty segment reaches beyond the journal and the store queue. -/
theorem closeOpen_units {s : State} {i : SegId} (h : s.openSegment = some i)
    (hkeep : (s.seg i).coveredBy s.journal.head = false ∨ (s.seg i).inStore = true ∨ (s.seg i).dirty = false) :
    SameUnits s (closeOpen s) ∧ (closeOpen s).taken = s.taken ∧ (closeOpen s).cc.chans = s.cc.chans := by
  have key : ∀ t : State, t.cc = s.cc → SameUnits s t →
      SameUnits s t ∧ t.taken = s.taken ∧ t.cc.chans = s.cc.chans :=
    fun t hcc hu => ⟨hu, taken_of_posts (by rw [hcc]), by rw [hcc]⟩
  cases hc : (s.seg i).coveredBy s.journal.head with
  | false =>
    rw [closeOpen_full h hc]
    exact key _ (by simp) (by unfold SameUnits; simp)
  | true =>
    cases hs : (s.seg i).inStore with
    | true =>
      rw [closeOpen_freeing h hc hs]
      exact key _ (by simp) (by unfold SameUnits; simp)
    | false =>
      have hd : (s.seg i).dirty = false := by simpa [hc, hs] using hkeep
      rw [closeOpen_freeClean h hc hs hd]
      exact key _ (by simp) (by unfold SameUnits; simp)

/-- An uncovered segment becomes FULL, and a dirty one is queued unless it is in store (R15, R72). -/
theorem closeOpen_uncovered {s : State} {i : SegId} (h : s.openSegment = some i)
    (hc : (s.seg i).coveredBy s.journal.head = false) :
    (closeOpen s).seg i = { s.seg i with state := .full } ∧ (closeOpen s).journal.chain = s.journal.chain ∧
      ((s.seg i).dirty = true → (s.seg i).inStore = true ∨ i ∈ (closeOpen s).store.queue) := by
  rw [closeOpen_full h hc]
  have hseg := State.seg_modSeg_same { s with store.idleTimer := none } i (fun g => { g with state := .full })
  refine ⟨(queueSeg_seg i i _).trans hseg, by simp, fun hd => ?_⟩
  cases hs : (s.seg i).inStore with
  | true => exact Or.inl rfl
  | false => exact Or.inr (mem_queueSeg (by rw [hseg]; exact Or.inr rfl) (by rw [hseg]; exact hd) (by rw [hseg]; exact hs))

/-- A covered segment in store becomes FREEING and stays in the chain (R98). -/
theorem closeOpen_inStore {s : State} {i : SegId} (h : s.openSegment = some i)
    (hc : (s.seg i).coveredBy s.journal.head = true) (hs : (s.seg i).inStore = true) :
    (closeOpen s).seg i = { s.seg i with state := .freeing } ∧ (closeOpen s).journal.chain = s.journal.chain := by
  rw [closeOpen_freeing h hc hs]
  exact ⟨State.seg_modSeg_same { s with store.idleTimer := none } i _, by simp⟩

/-- A covered segment that no store holds becomes FREE and leaves queue and chain (R97, R98). -/
theorem closeOpen_freed {s : State} {i : SegId} (h : s.openSegment = some i)
    (hc : (s.seg i).coveredBy s.journal.head = true) (hs : (s.seg i).inStore = false) :
    (closeOpen s).seg i = Segment.freeForm ∧ i ∉ (closeOpen s).store.queue ∧
      (closeOpen s).journal.chain = s.journal.chain.filter (fun j => j != i) := by
  have hfree : (freeSegment i { s with store.idleTimer := none }).seg i = Segment.freeForm := by
    rw [freeSegment_seg, if_pos rfl]
  cases hd : (s.seg i).dirty with
  | true =>
    rw [closeOpen_freeDirty h hc hs hd]
    exact ⟨(recomputeS_seg i _).trans hfree, by simp [freeSegment], by simp [freeSegment]⟩
  | false =>
    rw [closeOpen_freeClean h hc hs hd]
    exact ⟨hfree, by simp [freeSegment], by simp [freeSegment]⟩

/-- With a dirty segment freed S is recomputed and the records it covers are answered (R82, R83, log entry 37). -/
theorem closeOpen_answers {s : State} {i : SegId} (h : s.openSegment = some i)
    (hc : (s.seg i).coveredBy s.journal.head = true) (hs : (s.seg i).inStore = false) (hd : (s.seg i).dirty = true) :
    (closeOpen s).store.storedThrough = (closeOpen s).storedThroughNow ∧ Answers false [] s (closeOpen s) ∧
      SameUnits { s with
        store.storedThrough := (closeOpen s).store.storedThrough,
        store.waiting := (closeOpen s).store.waiting } (closeOpen s) := by
  rw [closeOpen_freeDirty h hc hs hd]
  refine ⟨?_, (recomputeS_answers _).of_eq (by simp) (by simp) (by simp), ?_⟩
  · rw [recomputeS_storedThrough]
    exact (storedThroughNow_congr (by simp) (by simp)).symm
  · unfold SameUnits
    simp

/-! ### Opening a segment (R14) -/

theorem openNew_sram {s : State} {tail : Option SegId} {j : SegId} (h : s.allocate tail = some j) :
    (openNew tail s).journal.sram = s.journal.sram.clear (segBase j) (segBase j + 4096) := by
  simp [openNew, h]

/-- Settles O36: the close by the four cases of the covered, stored and dirty OPEN segment, the opening by its one. -/
theorem segmentOpening : Obligations.SegmentOpening := by
  refine ⟨fun s i h => ?_, fun s tail j h => ?_⟩
  · obtain ⟨htimer, hothers, hsram⟩ := closeOpen_leaves h
    refine ⟨htimer, hothers, hsram, closeOpen_units h, closeOpen_uncovered h, closeOpen_inStore h, fun hc hs => ?_⟩
    obtain ⟨hfree, hqueue, hchain⟩ := closeOpen_freed h hc hs
    exact ⟨hfree, hqueue, hchain, closeOpen_answers h hc hs⟩
  · refine ⟨fun a h1 h2 => ?_, fun a ha => ?_, by rw [openNew_seg h, if_pos rfl],
      fun i hi => by rw [openNew_seg h, if_neg hi], by simp [openNew, h], ?_⟩
    · rw [openNew_sram h, Memory.read_clear, if_pos ⟨h1, h2⟩]
    · rw [openNew_sram h, Memory.read_clear, if_neg (by omega)]
    · unfold SameUnits
      simp

end Sys2Proof.Machine

namespace Sys2Proof.Machine

/-! ### The commit of an entry (R31 to R34) -/

/-- The staged payload is what the commit places (R30). -/
theorem payloadOf_stagePayload {c : ChanId} {s : State} (n : Nat) (bytes : List Byte)
    (h : ∃ b ∈ s.staging.buffers, b.chan = c) : (stagePayload c n bytes s).payloadOf c = fitBytes n bytes := by
  obtain ⟨b, hb, hc⟩ := h
  have hfind : ∃ d, (stagePayload c n bytes s).staging.buffers.find? (fun b => b.chan == c) = some d ∧
      d.data = fitBytes n bytes := by
    simp only [stagePayload, List.find?_map]
    have hsome : (s.staging.buffers.find? (fun b => b.chan == c)).isSome :=
      List.find?_isSome.mpr ⟨b, hb, by simp [hc]⟩
    obtain ⟨d, hd⟩ := Option.isSome_iff_exists.mp hsome
    have hdc : (d.chan == c) = true := by simpa using List.find?_some hd
    refine ⟨{ d with data := fitBytes n bytes }, ?_, rfl⟩
    have hsame : (fun b : StagingBuffer => b.chan == c) ∘
        (fun b => if (b.chan == c) = true then { b with data := fitBytes n bytes } else b) = fun b => b.chan == c := by
      funext b
      simp only [Function.comp]
      split <;> rfl
    rw [hsame, hd, Option.map_some, if_pos hdc]
  obtain ⟨d, hd, hdata⟩ := hfind
  rw [State.payloadOf, hd]
  exact hdata

/-- The check value covers neither the state byte nor itself, so it stands in the header whose bytes it checks (R3). -/
theorem entryCrc_headerBytes (h : Header) (payload : List Byte) :
    entryCrc h.bytes payload = entryCrc h.bodyBytes payload := by
  have hlen := length_bodyBytes h
  rw [entryCrc, entryCrc, Header.bytes, List.take_append_of_le_length (by omega),
    List.drop_append_of_le_length (by omega), List.take_append_of_le_length (by rw [List.length_drop]; omega)]

/-- The header of an entry committed now carries what R1 and R33 give it, and its check value. -/
theorem entryHeader_spec (c : ChanId) (r : Request) (payload : List Byte) (s : State) :
    Stamped c r (s.entrySerial c r).1 (s.entrySerial c r).2 (s.entryHeader c r payload) s ∧
      (s.entryHeader c r payload).crc = entryCrc (s.entryHeader c r payload).bytes payload :=
  ⟨⟨rfl, rfl, rfl, rfl, rfl, rfl, rfl, rfl, rfl, rfl, rfl⟩, (entryCrc_headerBytes _ payload).symm⟩

/-- An entry that fits in the dirty OPEN segment needs neither a new segment nor a clean one dirtied (R32). -/
theorem needsClean_dirty {s : State} {i : SegId} {fp : Nat} (h : s.openSegment = some i)
    (hd : (s.seg i).dirty = true) (hfit : (s.seg i).fill + fp ≤ 4096) :
    s.needsNew fp = false ∧ s.needsClean fp = false := by
  have hn : s.needsNew fp = false := by
    simp only [State.needsNew, h, decide_eq_false_iff_not]
    omega
  exact ⟨hn, by simp [State.needsClean, hn, h, hd]⟩

/-- A standalone attempt of an ACTIVE channel that no test of R31 refuses, whose entry fits in the dirty OPEN segment,
commits there. -/
theorem commitAttempt_dirty {c : ChanId} {r : Executing} {s : State} {i : SegId} (grant : Bool)
    (hactive : (s.chan c).state = .active) (hhost : r.req.hostId = 0) (hmedia : s.mediaFault = false)
    (hseq : s.journal.nextSeq ≠ 2 ^ 48 - 1) (h : s.openSegment = some i) (hd : (s.seg i).dirty = true)
    (hfit : (s.seg i).fill + footprint r.req.length ≤ 4096) : commitAttempt grant c r s = commit c r.req s := by
  have hrefusal : refusalAt c r s = none := by
    rw [refusalAt, if_neg (fun h => by rw [hactive] at h; exact nomatch h.1), if_neg hseq, if_neg (by simp [hmedia]),
      if_pos hhost]
  have hreserve : takeTxnReservation c r s = s := by
    rw [takeTxnReservation, if_neg (fun h => h.1 hhost)]
  simp only [commitAttempt, hrefusal, hreserve]
  rw [if_neg (by simp [(needsClean_dirty h hd hfit).2])]

/-- A commit into the dirty OPEN segment while the journal is not EXPOSED, without STORED: the entry is recorded and its
completion follows at once (R33, R41). -/
theorem commit_dirty {c : ChanId} {r : Request} {s : State} {i : SegId} (h : s.openSegment = some i)
    (hd : (s.seg i).dirty = true) (hfit : (s.seg i).fill + footprint r.length ≤ 4096) (hstored : r.storedFlag = false)
    (hexposed : s.budget.exposed = false) (hkind : r.kind = .append) :
    commit c r s = completeExec c
      (r.completion .ok s.journal.nextSeq s.clock.reading
        (entryDetail (s.entrySerial c r).1 (s.entrySerial c r).2))
      (recordEntry i c r (s.entryHeader c r (s.payloadOf c)) (s.payloadOf c) s) := by
  have hprepare : prepareSegment (footprint r.length) s = s := by
    rw [prepareSegment, if_neg (by simp [(needsClean_dirty h hd hfit).1])]
  simp only [commit, hprepare, h, hkind, if_true]
  rw [decideCompletion, if_neg (by simp [hstored]), if_neg (by simp [hexposed])]
  rfl

/-- Recording an entry in a dirty segment reports no fall or rise of D, so the budget unit is left alone (R33). -/
theorem recordEntry_budget {s : State} {i : SegId} (c : ChanId) (r : Request) (h : Header) (payload : List Byte)
    (hd : (s.seg i).dirty = true) : (recordEntry i c r h payload s).budget = s.budget := by
  simp [recordEntry, reportDirtied, hd]

theorem reportStore_idleTimer (i : SegId) (s : State) :
    (reportStore i s).store.idleTimer =
      if (s.seg i).state = .openS then some (s.now + s.store.idleDelay * 1000) else none := by
  simp only [reportStore]
  (repeat' split) <;> simp

/-- The idle timer starts afresh while the segment stays OPEN, and stops when the entry fills it (R74). -/
theorem recordEntry_idleTimer {s : State} {i : SegId} (c : ChanId) (r : Request) (h : Header) (payload : List Byte)
    (hi : (s.seg i).state = .openS) :
    (recordEntry i c r h payload s).store.idleTimer =
      if (s.seg i).fill + footprint h.length = 4096 then none else some (s.now + s.store.idleDelay * 1000) := by
  have hseg : (reportTxn c r h.seq (reportDirtied (s.seg i).dirty (placeEntry i h payload (takeSeq s)))).seg i =
      (placeEntry i h payload (takeSeq s)).seg i := by simp [State.seg]
  have htake : (takeSeq s).seg i = s.seg i := by simp [State.seg]
  rw [recordEntry, reportStore_idleTimer, hseg, (placeEntry_seg i h payload (takeSeq s)).1, htake]
  by_cases hfull : (s.seg i).fill + footprint h.length = 4096
  · simp [hfull]
  · simp [hfull, hi]

/-- What recording a standalone entry leaves of the other units: the clock keeps last stamp, and the shadow may have taken
bytes meanwhile (R33, R34). -/
theorem recordEntry_units {s : State} {i : SegId} {c : ChanId} {r : Request} (h : Header) (payload : List Byte)
    (hd : (s.seg i).dirty = true) (hhost : r.hostId = 0) :
    SameUnits { s with
      clock.lastStamp := some s.clock.reading, array.shadow := (recordEntry i c r h payload s).array.shadow }
      (recordEntry i c r h payload s) := by
  have hbudget := recordEntry_budget c r h payload hd
  have htxns : (recordEntry i c r h payload s).txns = s.txns := by simp [recordEntry, reportTxn, hhost]
  have hclock : (recordEntry i c r h payload s).clock = { s.clock with lastStamp := some s.clock.reading } := by
    simp [recordEntry, takeSeq]
  have harray : (recordEntry i c r h payload s).array =
      { s.array with shadow := (recordEntry i c r h payload s).array.shadow } := by
    have ha : (recordEntry i c r h payload s).array.slotA = s.array.slotA := by simp
    have hb : (recordEntry i c r h payload s).array.slotB = s.array.slotB := by simp
    have hm : (recordEntry i c r h payload s).array.closing = s.array.closing := by simp
    dsimp only
    rw [← ha, ← hb, ← hm]
  unfold SameUnits
  rw [hbudget, htxns, hclock]
  refine ⟨rfl, harray, rfl, ?_⟩
  simp

/-- The event at the end of a payload read that commits into the dirty OPEN segment: the staged payload is recorded, then
the APPEND completes. -/
theorem exec_payloadReadEnd_dirty {s : State} {c : ChanId} {r : Executing} {i : SegId} (bytes : List Byte)
    (hx : Executes c .append .staging r s) (hbuf : ∃ b ∈ s.staging.buffers, b.chan = c) (hhost : r.req.hostId = 0)
    (hstored : r.req.storedFlag = false) (hexposed : s.budget.exposed = false) (hmedia : s.mediaFault = false)
    (hseq : s.journal.nextSeq ≠ 2 ^ 48 - 1) (hi : s.openSegment = some i) (hd : (s.seg i).dirty = true)
    (hfit : (s.seg i).fill + footprint r.req.length ≤ 4096) :
    exec (.payloadReadEnd c (.data bytes)) s = .next (settle false (completeExec c
      (r.req.completion .ok s.journal.nextSeq s.clock.reading 0)
      (recordEntry i c r.req
        ((stagePayload c r.req.length bytes s).entryHeader c r.req (fitBytes r.req.length bytes))
        (fitBytes r.req.length bytes) (stagePayload c r.req.length bytes s)))) := by
  obtain ⟨hactive, hexec, hkind, hstage⟩ := hx
  have hid : (stagePayload c r.req.length bytes s).entrySerial c r.req = (0, 0) := by
    rw [State.entrySerial, if_pos hhost]
  simp only [exec, execPayloadReadEnd]
  rw [withExec_eq hexec hkind (by simp [hstage])]
  rw [commitAttempt_dirty (s := stagePayload c r.req.length bytes s) false hactive hhost hmedia hseq hi hd hfit,
    commit_dirty (s := stagePayload c r.req.length bytes s) hi hd hfit hstored hexposed hkind, hid,
    payloadOf_stagePayload _ _ hbuf]
  rfl

/-- A staged payload whose entry is recorded in the dirty OPEN segment changes nothing of a channel but what its request
holds. -/
theorem recordEntry_apart {s : State} {i : SegId} {c : ChanId} {r : Request} (n : Nat) (bytes : List Byte) (h : Header)
    (payload : List Byte) (hd : (s.seg i).dirty = true) :
    ApartFrom c s (recordEntry i c r h payload (stagePayload c n bytes s)) := by
  have hbuffers : (s.staging.buffers.map (fun b => if b.chan == c then { b with data := fitBytes n bytes } else b)).filter
      (fun b => b.chan != c) = s.staging.buffers.filter (fun b => b.chan != c) := by
    induction s.staging.buffers with
    | nil => rfl
    | cons b l ih => by_cases hb : b.chan = c <;> simpa [hb] using ih
  have hbudget := recordEntry_budget (s := stagePayload c n bytes s) c r h payload hd
  exact ⟨by simp, hbudget, by simp, by simpa [stagePayload] using hbuffers, by simp [stagePayload],
    by simp, by simp, by simp⟩

/-- Settles O23: the attempt passes every test, its commit records the entry in the dirty OPEN segment, and the APPEND
completes in the same event. -/
theorem standaloneCommit : Obligations.StandaloneCommit := by
  intro s c r bytes i hx hbuf hhost hstored hexposed hmedia hseq hi hd hfit
  have hexec := exec_payloadReadEnd_dirty bytes hx hbuf hhost hstored hexposed hmedia hseq hi hd hfit
  generalize hp : fitBytes r.req.length bytes = payload at *
  have hid : (stagePayload c r.req.length bytes s).entrySerial c r.req = (0, 0) := by
    rw [State.entrySerial, if_pos hhost]
  obtain ⟨hstamped, hcrc⟩ := entryHeader_spec c r.req payload (stagePayload c r.req.length bytes s)
  rw [hid] at hstamped
  generalize hh : (stagePayload c r.req.length bytes s).entryHeader c r.req payload = h at *
  have hlen : h.length = r.req.length := hstamped.2.2.2.2.2.1
  have hplaced := recordEntry_placed i c r.req h payload (stagePayload c r.req.length bytes s)
  have htimer := recordEntry_idleTimer (s := stagePayload c r.req.length bytes s) c r.req h payload (openSegment_spec hi).2
  have hunits := recordEntry_units (s := stagePayload c r.req.length bytes s) (c := c) h payload hd hhost
  have hapart := recordEntry_apart (c := c) (r := r.req) r.req.length bytes h payload hd
  generalize recordEntry i c r.req h payload (stagePayload c r.req.length bytes s) = t at *
  have hactive : (t.chan c).state = .active := by
    rw [show t.chan c = s.chan c by simp [State.chan, hapart.1]]
    exact hx.1
  obtain ⟨hlog, hrest⟩ := (completeExec_contents c (r.req.completion .ok s.journal.nextSeq s.clock.reading 0) t).trans
    (settle_contents false _)
  refine ⟨_, h, hexec, hstamped, hcrc, hplaced.trans hlog, (completed_settle _ false hactive).of_apart hapart, ?_, ?_⟩
  · rw [← hlen]
    exact Eq.trans (b := t.store.idleTimer) (by simp) htimer
  · rw [hrest.2.1]
    exact hunits.trans hrest

end Sys2Proof.Machine

namespace Sys2Proof.Machine

/-! ### The limits of the buffers, the alert waiters and the alert list (R22, R29, R171, R173)

Three operations claim: a staging buffer, a read buffer, a place among the alert waiters; each tests its limit first. One
adds to the alert list. Every other operation returns what is claimed or leaves it alone. -/

/-- No two records of one kind, each counting 1 to 255 occurrences (R171). -/
def AlertListLaw (l : List AlertRecord) : Prop :=
  (l.map AlertRecord.kind).Nodup ∧ ∀ a ∈ l, 1 ≤ a.count ∧ a.count ≤ 255

theorem withinLimits_iff (s : State) :
    s.WithinLimits ↔ s.staging.buffers.length ≤ 4 ∧ s.journal.readBuffers.length ≤ 2 ∧
      s.cc.alertWaiters.length ≤ 4 ∧ AlertListLaw s.cc.alerts := Iff.rfl

/-- An occurrence folded into the alert list: counted by the record of its kind, which holds at 255, or a new record. -/
theorem AlertListLaw.foldAlert {l : List AlertRecord} (h : AlertListLaw l) (kind : AlertKind) (n d : Nat)
    (stamp : Stamp) : AlertListLaw (foldAlert kind n d stamp l) := by
  obtain ⟨hkinds, hcounts⟩ := h
  simp only [Machine.foldAlert]
  split
  · refine ⟨?_, fun a ha => ?_⟩
    · rw [List.map_map, List.map_congr_left (g := AlertRecord.kind)]
      · exact hkinds
      · intro a _
        simp only [Function.comp]
        split <;> rfl
    · obtain ⟨b, hb, rfl⟩ := List.mem_map.mp ha
      have := hcounts b hb
      split
      · dsimp only
        omega
      · exact this
  · rename_i hnew
    refine ⟨?_, fun a ha => ?_⟩
    · rw [List.map_append, List.nodup_append]
      refine ⟨hkinds, by simp, fun k hk j hj => ?_⟩
      obtain ⟨a, ha, rfl⟩ := List.mem_map.mp hk
      obtain rfl : j = kind := by simpa using hj
      intro e
      exact hnew (List.any_eq_true.mpr ⟨a, ha, by simp [e]⟩)
    · rcases List.mem_append.mp ha with ha | ha
      · exact hcounts a ha
      · obtain rfl := List.mem_singleton.mp ha
        simp

/-- An operation that claims nothing and posts no alert. -/
theorem limits_of_le {s t : State} (h : s.WithinLimits)
    (e : t.staging.buffers.length ≤ s.staging.buffers.length ∧
      t.journal.readBuffers.length ≤ s.journal.readBuffers.length ∧
      t.cc.alertWaiters.length ≤ s.cc.alertWaiters.length ∧ t.cc.alerts = s.cc.alerts) : t.WithinLimits := by
  obtain ⟨hbuffers, hreads, hwaiters, hlist⟩ := (withinLimits_iff s).mp h
  obtain ⟨ebuffers, ereads, ewaiters, ealerts⟩ := e
  exact (withinLimits_iff t).mpr ⟨ebuffers.trans hbuffers, ereads.trans hreads, ewaiters.trans hwaiters, ealerts ▸ hlist⟩

/-- What is returned at the end of an execution (R22, R29). -/
@[simp] theorem endExecution_buffers (c : ChanId) (s : State) :
    (endExecution c s).staging.buffers = s.staging.buffers.filter (fun b => b.chan != c) ∧
      (endExecution c s).journal.readBuffers = s.journal.readBuffers.filter (fun b => b.chan != c) := by
  obtain ⟨hbuffers, -, hreads, -⟩ := endExecution_holdings c s
  exact ⟨hbuffers, hreads⟩

@[simp] theorem completeExec_buffers (c : ChanId) (x : Completion) (s : State) :
    (completeExec c x s).staging.buffers = s.staging.buffers.filter (fun b => b.chan != c) ∧
      (completeExec c x s).journal.readBuffers = s.journal.readBuffers.filter (fun b => b.chan != c) := by
  simp [completeExec]

theorem completeExec_limits {s : State} (h : s.WithinLimits) (c : ChanId) (x : Completion) :
    (completeExec c x s).WithinLimits := limits_of_le h (by simp [List.length_filter_le])

/-- An alert goes to the oldest waiter or into the alert list (R171, R173). -/
theorem postAlert_limits {s : State} (h : s.WithinLimits) (kind : AlertKind) (n d : Nat) :
    (postAlert kind n d s).WithinLimits := by
  obtain ⟨hbuffers, hreads, hwaiters, hlist⟩ := (withinLimits_iff s).mp h
  simp only [postAlert]
  split
  · rename_i tag rest hrest
    exact limits_of_le h (by simp [hrest])
  · exact (withinLimits_iff _).mpr ⟨hbuffers, hreads, hwaiters, hlist.foldAlert _ _ _ _⟩

theorem evalExposureBut_limits {s : State} (h : s.WithinLimits) (lost : Waiter → Bool) :
    (evalExposureBut lost s).WithinLimits := by
  simp only [evalExposureBut]
  split
  · split
    · split
      · have h' := postAlert_limits (s := { s with budget.exposed := false }) h .exposureEnded 0
          (exposureDetail s.dirtyCount s.budget.b)
        exact limits_of_le h' (by simp)
      · exact h
    · split
      · exact postAlert_limits (s := { s with budget.exposed := true }) h _ _ _
      · exact h
  · exact h

theorem noteSpace_limits {s : State} (h : s.WithinLimits) (fp : Nat) : (noteSpace fp s).WithinLimits := by
  simp only [noteSpace]
  split
  · exact h
  · exact postAlert_limits (s := { s with journal.full := true }) h _ _ _

theorem holdRequest_limits {s : State} (h : s.WithinLimits) (grant : Bool) (c : ChanId) (r : Executing)
    (reason : HoldReason) : (holdRequest grant c r reason s).WithinLimits := by
  cases reason with
  | budget => exact limits_of_le h (by simp [holdRequest])
  | space =>
    simp only [holdRequest]
    generalize (if grant = true then _ else _) = held
    have h' : (setStage c .held { s with budget.held := held }).WithinLimits := limits_of_le h (by simp)
    exact limits_of_le (noteSpace_limits h' (footprint r.req.length)) (by simp)

theorem commit_limits {s : State} (h : s.WithinLimits) (c : ChanId) (r : Request) : (commit c r s).WithinLimits := by
  simp only [commit]
  split
  · exact limits_of_le h (by simp)
  · simp only [decideCompletion]
    (repeat' split) <;> exact limits_of_le h (by simp [List.length_filter_le])

theorem commitAttempt_limits {s : State} (h : s.WithinLimits) (grant : Bool) (c : ChanId) (r : Executing) :
    (commitAttempt grant c r s).WithinLimits := by
  have h' : (takeTxnReservation c r s).WithinLimits := limits_of_le h (by simp)
  simp only [commitAttempt]
  split
  · refine completeExec_limits (limits_of_le h ?_) _ _
    split <;> simp
  · split
    · split
      · exact holdRequest_limits h' _ _ _ _
      · exact commit_limits h' c r.req
    · exact commit_limits h' c r.req

theorem grantLoop_limits (n : Nat) {s : State} (h : s.WithinLimits) : (grantLoop n s).WithinLimits := by
  induction n generalizing s with
  | zero => exact h
  | succ n ih =>
    simp only [grantLoop]
    split
    · exact h
    · split
      · split
        · exact h
        · split
          · exact commitAttempt_limits h _ _ _
          · exact ih (commitAttempt_limits h _ _ _)
      · exact h

theorem grantRun_limits {s : State} (h : s.WithinLimits) : (grantRun s).WithinLimits := grantLoop_limits _ h

theorem grantAfter_limits {s : State} (h : s.WithinLimits) (b : Bool) : (grantAfter b s).WithinLimits := by
  cases b with
  | false => exact h
  | true => exact grantRun_limits h

theorem onReliefBut_limits {s : State} (h : s.WithinLimits) (lost : Waiter → Bool) :
    (onReliefBut lost s).WithinLimits := by
  simp only [onReliefBut]
  split
  · exact grantRun_limits (limits_of_le (evalExposureBut_limits h lost) (by simp))
  · exact h

theorem onFreed_limits {s : State} (h : s.WithinLimits) : (onFreed s).WithinLimits := by
  simp only [onFreed]
  split
  · exact grantRun_limits h
  · exact h

theorem settle_limits {s : State} (h : s.WithinLimits) (test : Bool) : (settle test s).WithinLimits :=
  limits_of_le h (by simp)

/-! #### The link -/

theorem beginFault_limits {s : State} (h : s.WithinLimits) (c : ChanId) (reason : FaultReason) :
    (beginFault c reason s).WithinLimits := by
  simp only [beginFault]
  split <;> exact limits_of_le h (by simp [dropWork, controlFault, List.length_filter_le])

theorem faultChannel_limits {s : State} (h : s.WithinLimits) (c : ChanId) (reason : FaultReason) :
    (faultChannel c reason s).WithinLimits := by
  have hreport : ∀ {t : State}, t.WithinLimits → (reportFault c reason t).WithinLimits := fun {t} ht => by
    simp only [reportFault]
    refine postAlert_limits (limits_of_le ht ?_) _ _ _
    split <;> simp
  simp only [faultChannel]
  split
  · have h' : (endTxns (fun d => d == c) (beginFault c reason s)).WithinLimits :=
      limits_of_le (beginFault_limits h c reason) (by simp)
    exact grantAfter_limits (limits_of_le (hreport h') (by simp)) _
  · exact h

theorem hostReset_limits {s : State} (h : s.WithinLimits) : (hostReset s).WithinLimits := by
  simp only [hostReset]
  split
  · exact h
  · exact limits_of_le h (by simp [dropHostWork])

theorem enableWrite_limits {s : State} (h : s.WithinLimits) : (enableWrite s).WithinLimits := by
  simp only [enableWrite]
  split
  · exact h
  · split
    · split
      · exact limits_of_le h (by simp)
      · exact limits_of_le h (by simp)
    · exact h

theorem notifyWrite_limits {s : State} (h : s.WithinLimits) (c : ChanId) (p : Nat) :
    (notifyWrite c p s).WithinLimits := by
  simp only [notifyWrite]
  split
  · refine settle_limits ?_ _
    split
    · exact faultChannel_limits h _ _
    · exact limits_of_le h (by simp)
  · exact h

theorem retireWrite_limits {s : State} (h : s.WithinLimits) (c : ChanId) (r : Nat) :
    (retireWrite c r s).WithinLimits := by
  simp only [retireWrite]
  split
  · refine settle_limits ?_ _
    split
    · exact faultChannel_limits h _ _
    · exact limits_of_le h (by simp)
  · exact h

theorem windowWrite_limits {s : State} (h : s.WithinLimits) (off : BitVec 12) (v : BitVec 32) :
    (windowWrite off v s).WithinLimits := by
  simp only [windowWrite]
  split
  · split
    · exact enableWrite_limits h
    · exact hostReset_limits h
  · split
    · exact h
    · split
      · exact h
      · split
        · exact notifyWrite_limits h _ _
        · split
          · exact retireWrite_limits h _ _
          · exact h

theorem endStatusWrite_limits {s : State} (h : s.WithinLimits) (c : ChanId) (w : StatusPurpose) (ok : Bool) :
    (endStatusWrite c w ok s).WithinLimits := by
  have hfault := settle_limits (faultChannel_limits h c .statusWrite) false
  cases w with
  | ignored => exact h
  | becameActive => cases ok with
    | true => exact h
    | false => exact hfault
  | post => cases ok with
    | true => exact limits_of_le h (by simp [endStatusWrite])
    | false => exact hfault
  | postDetached => cases ok <;> exact limits_of_le h (by simp [endStatusWrite])

theorem execFetchEnd_limits {s : State} (h : s.WithinLimits) (result : ReadResult) :
    NextHolds State.WithinLimits (execFetchEnd result s) := by
  refine .next ?_
  split
  · exact h
  · refine settle_limits ?_ _
    cases result with
    | error => exact faultChannel_limits (limits_of_le h (by simp)) _ _
    | data bytes => exact limits_of_le h (by simp)

theorem execCompletionRecordWriteEnd_limits {s : State} (h : s.WithinLimits) (c : ChanId) (ok : Bool) :
    NextHolds State.WithinLimits (execCompletionRecordWriteEnd c ok s) := by
  refine .next ?_
  split
  · exact h
  · split
    · split
      · exact limits_of_le h (by simp)
      · split
        · exact settle_limits (faultChannel_limits h _ _) _
        · exact limits_of_le h (by simp)
    · exact h

theorem execStatusBlockWriteEnd_limits {s : State} (h : s.WithinLimits) (c : ChanId) (ok : Bool) :
    NextHolds State.WithinLimits (execStatusBlockWriteEnd c ok s) := by
  refine .next ?_
  split
  · exact h
  · exact endStatusWrite_limits (limits_of_le h (by simp)) _ _ _

theorem execHoldoffExpiry_limits {s : State} (h : s.WithinLimits) (c : ChanId) :
    NextHolds State.WithinLimits (execHoldoffExpiry c s) := by
  refine .next ?_
  split
  · exact h
  · dsimp only
    split <;> exact limits_of_le h (by simp)

/-! #### The requests of the data channels -/

/-- A request that its owning block takes, and the end of the event. -/
theorem settleWithExec_limits {s : State} (h : s.WithinLimits) (test : Bool) (c : ChanId) (k : Kind) (p : Stage → Bool)
    (f : Executing → State → State) (hf : ∀ r, (f r s).WithinLimits) :
    NextHolds State.WithinLimits (.next (settle test (withExec c k p f s))) :=
  .next (settle_limits (Steady.withExec h c k p f hf) test)

/-- A staging buffer is claimed while fewer than four are (R29). -/
theorem takeStaging_limits {s : State} (h : s.WithinLimits) (c : ChanId) (r : Executing)
    (hfree : s.staging.buffers.length < 4) : (takeStaging c r s).WithinLimits := by
  obtain ⟨-, hreads, hwaiters, hlist⟩ := (withinLimits_iff s).mp h
  exact (withinLimits_iff _).mpr
    ⟨by simpa [takeStaging] using hfree, by simpa using hreads, by simpa using hwaiters, by simpa using hlist⟩

theorem claimStaging_limits {s : State} (h : s.WithinLimits) (c : ChanId) (r : Executing) :
    (claimStaging c r s).WithinLimits := by
  simp only [claimStaging]
  split
  · rename_i hfree
    exact takeStaging_limits h c r hfree.1
  · exact limits_of_le h (by simp)

theorem flushExecute_limits {s : State} (h : s.WithinLimits) (c : ChanId) (r : Executing) :
    (flushExecute c r s).WithinLimits := by
  simp only [flushExecute]
  (repeat' split) <;> exact limits_of_le h (by simp [List.length_filter_le])

theorem takeReservation_limits {s : State} (h : s.WithinLimits) (c : ChanId) (r : Executing) :
    (takeReservation c r s).WithinLimits := by
  have h' : (setExec c { r with waitReserved := true } s).WithinLimits := limits_of_le h (by simp)
  simp only [takeReservation, afterReservation]
  split
  · exact claimStaging_limits h' _ _
  · exact commitAttempt_limits h' _ _ _
  · exact flushExecute_limits h' _ _
  · exact h'

theorem beginDurable_limits {s : State} (h : s.WithinLimits) (c : ChanId) (r : Executing) :
    (beginDurable c r s).WithinLimits := by
  simp only [beginDurable]
  split
  · exact completeExec_limits h _ _
  · split
    · exact takeReservation_limits h _ _
    · exact limits_of_le h (by simp)

theorem execWaitListReservation_limits {s : State} (h : s.WithinLimits) :
    NextHolds State.WithinLimits (execWaitListReservation s) := by
  refine .next ?_
  split
  · exact h
  · split
    · exact h
    · split
      · exact settle_limits (takeReservation_limits (limits_of_le h (by simp)) _ _) _
      · exact h

theorem execStagingBufferClaim_limits {s : State} (h : s.WithinLimits) :
    NextHolds State.WithinLimits (execStagingBufferClaim s) := by
  refine .next ?_
  split
  · exact h
  · split
    · exact h
    · split
      · rename_i hfree
        exact takeStaging_limits (limits_of_le h (by simp)) _ _ hfree
      · exact h

theorem execPayloadReadEnd_limits {s : State} (h : s.WithinLimits) (c : ChanId) (result : ReadResult) :
    NextHolds State.WithinLimits (execPayloadReadEnd c result s) := by
  refine settleWithExec_limits h _ _ _ _ _ (fun r => ?_)
  cases result with
  | error => exact completeExec_limits h _ _
  | data bytes => exact commitAttempt_limits (limits_of_le h (by simp [stagePayload])) _ _ _

theorem abortExecute_limits {s : State} (h : s.WithinLimits) (c : ChanId) (r : Executing) :
    (abortExecute c r s).WithinLimits := by
  simp only [abortExecute]
  (repeat' split) <;> exact completeExec_limits (limits_of_le h (by simp)) _ _

theorem execTxnExpiry_limits {s : State} (h : s.WithinLimits) (c : ChanId) (n : Nat) :
    NextHolds State.WithinLimits (execTxnExpiry c n s) := by
  have hexpire : ∀ {t : State}, t.WithinLimits → (expireHeld c n t).WithinLimits := fun {t} ht => by
    simp only [expireHeld]
    split
    · split
      · exact grantAfter_limits (completeExec_limits (limits_of_le ht (by simp)) _ _) _
      · exact ht
    · exact ht
  refine .next ?_
  split
  · exact h
  · split
    · exact h
    · split
      · exact settle_limits (hexpire (limits_of_le h (by simp))) _
      · exact h

/-- The lookup of a READ completes it or copies the entry into the buffer that it holds. -/
theorem readLookup_limits {s : State} (h : s.WithinLimits) (c : ChanId) (r : Executing) :
    (readLookup c r s).WithinLimits := by
  have hrefuse : ∀ status detail, (refuseRead c r status detail s).WithinLimits :=
    fun _ _ => completeExec_limits h c _
  simp only [readLookup]
  split
  · exact hrefuse _ _
  · split
    · exact hrefuse _ _
    · split
      · exact hrefuse _ _
      · split
        · exact hrefuse _ _
        · split
          · exact hrefuse _ _
          · split
            · exact hrefuse _ _
            · exact limits_of_le h (by simp [copyEntry])

/-- A read buffer is claimed while fewer than two are (R22). -/
theorem takeReadBuffer_limits {s : State} (h : s.WithinLimits) (c : ChanId) (r : Executing)
    (hfree : s.journal.readBuffers.length < 2) : (takeReadBuffer c r s).WithinLimits := by
  obtain ⟨hbuffers, -, hwaiters, hlist⟩ := (withinLimits_iff s).mp h
  have h' : (withReadBuffer c s).WithinLimits :=
    (withinLimits_iff _).mpr ⟨hbuffers, by simpa [withReadBuffer] using hfree, hwaiters, hlist⟩
  rw [takeReadBuffer_eq]
  exact readLookup_limits h' c r

theorem beginRead_limits {s : State} (h : s.WithinLimits) (c : ChanId) (r : Executing) :
    (beginRead c r s).WithinLimits := by
  simp only [beginRead]
  split
  · exact completeExec_limits h _ _
  · split
    · rename_i hfree
      exact takeReadBuffer_limits h c r hfree.1
    · exact limits_of_le h (by simp)

theorem execReadBufferClaim_limits {s : State} (h : s.WithinLimits) :
    NextHolds State.WithinLimits (execReadBufferClaim s) := by
  refine .next ?_
  split
  · exact h
  · split
    · exact h
    · split
      · rename_i c rest hwait _ r _ hfree
        have h' : ({ s with journal.readWaiters := rest } : State).WithinLimits := h
        exact settle_limits (takeReadBuffer_limits h' c r hfree) _
      · exact h

theorem endRead_limits {s : State} (h : s.WithinLimits) (c : ChanId) (ok : Bool) (r : Executing) :
    (endRead c ok r s).WithinLimits := by
  simp only [endRead]
  split
  · split <;> exact completeExec_limits h c _
  · exact h

/-! #### RELEASE and FORMAT -/

theorem reportRetired_limits {s : State} (h : s.WithinLimits) (l : List (SegId × Segment)) :
    (reportRetired l s).WithinLimits :=
  foldl_invariant (P := State.WithinLimits) _
    (fun _ x hs => postAlert_limits (limits_of_le hs (by simp)) _ _ _) l h

theorem reportRelief_limits {s : State} (h : s.WithinLimits) (falls freed : Nat) :
    (reportRelief falls freed s).WithinLimits :=
  foldl_invariant (P := State.WithinLimits) _ (fun _ _ hs => onFreed_limits hs) _
    (foldl_invariant (P := State.WithinLimits) _ (fun _ _ hs => onReliefBut_limits hs _) _ h)

theorem applyRelease_limits {s : State} (h : s.WithinLimits) (n : Nat) : (applyRelease n s).WithinLimits := by
  have h' : ((s.coveredMembers n).foldl releaseMember { s with journal.head := n }).WithinLimits :=
    foldl_invariant (P := State.WithinLimits) _ (fun _ _ hs => limits_of_le hs (by simp)) _ (limits_of_le h (by simp))
  simp only [applyRelease]
  generalize (s.coveredMembers n).foldl releaseMember { s with journal.head := n } = t at h' ⊢
  have hrelief := reportRelief_limits h' (s.dirtyCount - t.dirtyCount) ((s.coveredMembers n).countP s.relieves)
  exact reportRetired_limits (limits_of_le hrelief (by simp)) _

theorem releaseExecute_limits {s : State} (h : s.WithinLimits) (c : ChanId) (r : Executing) :
    (releaseExecute c r s).1.WithinLimits := by
  simp only [releaseExecute]
  split
  · exact completeExec_limits h _ _
  · split
    · exact completeExec_limits h _ _
    · split
      · exact completeExec_limits h _ _
      · split
        · exact completeExec_limits h _ _
        · dsimp only
          exact completeExec_limits (applyRelease_limits h r.req.seq) c _

theorem execRelease_limits {s : State} (h : s.WithinLimits) (c : ChanId) :
    NextHolds State.WithinLimits (execRelease c s) := by
  refine .next ?_
  split
  · exact h
  · split
    · exact settle_limits (releaseExecute_limits h _ _) _
    · exact h

theorem retireFailed_limits {s : State} (h : s.WithinLimits) : (retireFailed s).WithinLimits := by
  have h' : (((s.segsIn .failed).map (fun i => (i, s.seg i))).foldl (fun s x => retireSegment x.1 s)
      { s with store.queue := [], store.idleTimer := none }).WithinLimits :=
    foldl_invariant (P := State.WithinLimits) _ (fun _ _ hs => limits_of_le hs (by simp)) _ (by exact h)
  exact reportRetired_limits h' ((s.segsIn .failed).map (fun i => (i, s.seg i)))

theorem execFormatReset_limits {s : State} (h : s.WithinLimits) :
    NextHolds State.WithinLimits (execFormatReset s) := by
  refine .next ?_
  split
  · have h' : (setMetadataDirty (clearJournal (retireFailed s))).WithinLimits :=
      limits_of_le (retireFailed_limits h) (by simp [clearJournal])
    exact settle_limits (limits_of_le (onReliefBut_limits h' (fun _ => false)) (by simp [resetJournal])) _
  · exact h

theorem formatExecute_limits {s : State} (h : s.WithinLimits) (r : Executing) : (formatExecute r s).WithinLimits := by
  simp only [formatExecute]
  split
  · exact limits_of_le h (by simp)
  · exact completeExec_limits h _ _

/-! #### The control requests and the clock -/

theorem openExecute_limits {s : State} (h : s.WithinLimits) (r : Executing) : (openExecute r s).WithinLimits := by
  simp only [openExecute]
  split <;> exact completeExec_limits (limits_of_le h (by simp)) _ _

theorem beginDrain_limits {s : State} (h : s.WithinLimits) (d : ChanId) (tag : Tag) (force : Bool) :
    (beginDrain d tag force s).WithinLimits := by
  have hcancel : ∀ {t : State}, t.WithinLimits → (cancelHeld d t).WithinLimits := fun {t} ht => by
    simp only [cancelHeld]
    split
    · split
      · exact completeExec_limits ht _ _
      · exact ht
    · exact ht
  simp only [beginDrain]
  refine grantAfter_limits ?_ _
  have h' : ∀ n, (cancelHeld d (endTxns (fun x => x == d) (markDraining d tag n s))).WithinLimits :=
    fun n => hcancel (limits_of_le h (by simp [markDraining, List.length_filter_le]))
  split
  · exact limits_of_le (h' (s.waitersOf d)) (by simp)
  · exact limits_of_le (h' 0) (by simp)

theorem closeExecute_limits {s : State} (h : s.WithinLimits) (r : Executing) : (closeExecute r s).WithinLimits := by
  simp only [closeExecute]
  split
  · exact completeExec_limits h _ _
  · exact beginDrain_limits h _ _ _
  · split <;> exact completeExec_limits (limits_of_le h (by simp)) _ _
  · exact completeExec_limits (limits_of_le h (by simp)) _ _

theorem recomputeBudget_limits {s : State} (h : s.WithinLimits) : (recomputeBudget s).WithinLimits := by
  simp only [recomputeBudget]
  split
  · have h' : (evalExposure { s with budget.b := min s.monitor.c s.budget.limit }).WithinLimits :=
      evalExposureBut_limits (by exact h) _
    exact grantAfter_limits (limits_of_le h' (by simp)) _
  · exact h

theorem configureExecute_limits {s : State} (h : s.WithinLimits) (r : Executing) :
    (configureExecute r s).WithinLimits := by
  have h' : (configureBlocks r.req (configureNamed r.req s)).WithinLimits := limits_of_le h (by simp)
  have happly : (applyConfigure r.req s).WithinLimits := by
    simp only [applyConfigure]
    split
    · exact recomputeBudget_limits h'
    · split
      · exact limits_of_le h' (by simp)
      · exact h'
  simp only [configureExecute]
  split
  · exact completeExec_limits h _ _
  · exact completeExec_limits happly _ _

theorem queryExecute_limits {s : State} (h : s.WithinLimits) (r : Executing) : (queryExecute r s).WithinLimits := by
  simp only [queryExecute]
  split
  · exact completeExec_limits h _ _
  · exact limits_of_le h (by simp)

theorem endQuery_limits {s : State} (h : s.WithinLimits) (ok : Bool) (r : Executing) :
    (endQuery ok r s).WithinLimits := by
  simp only [endQuery]
  split
  · split <;> exact completeExec_limits h _ _
  · exact h

theorem reportExecute_limits {s : State} (h : s.WithinLimits) (r : Executing) : (reportExecute r s).WithinLimits := by
  simp only [reportExecute]
  split
  · exact completeExec_limits h _ _
  · exact limits_of_le h (by simp)

/-- An ALERT_WAIT takes the oldest record, or a place among the waiters while fewer than four wait (R173). -/
theorem alertWaitExecute_limits {s : State} (h : s.WithinLimits) (r : Executing) :
    (alertWaitExecute r s).WithinLimits := by
  obtain ⟨hbuffers, hreads, hwaiters, hlist⟩ := (withinLimits_iff s).mp h
  cases hs : s.cc.alerts with
  | cons a rest =>
    rw [hs] at hlist
    have h' : ({ s with cc.alerts := rest } : State).WithinLimits :=
      (withinLimits_iff _).mpr ⟨hbuffers, hreads, hwaiters, (List.nodup_cons.mp hlist.1).2,
        fun b hb => hlist.2 b (List.mem_cons_of_mem a hb)⟩
    simp only [alertWaitExecute, hs]
    exact completeExec_limits h' _ _
  | nil =>
    simp only [alertWaitExecute, hs]
    split
    · rename_i hfree
      have h' : ({ s with cc.alertWaiters := s.cc.alertWaiters ++ [r.req.tag] } : State).WithinLimits :=
        (withinLimits_iff _).mpr ⟨hbuffers, hreads, by simpa using hfree, hlist⟩
      exact limits_of_le h' (by simp [hs, List.length_filter_le])
    · exact completeExec_limits h _ _

theorem setClockExecute_limits {s : State} (h : s.WithinLimits) (r : Executing) :
    (setClockExecute r s).WithinLimits := by
  simp only [setClockExecute]
  split
  · exact h
  · split
    · exact completeExec_limits h _ _
    · split
      · exact completeExec_limits h _ _
      · exact limits_of_le h (by simp)

theorem completeSetClock_limits {s : State} (h : s.WithinLimits) (status : Status) (stamp : Stamp) :
    (completeSetClock status stamp s).WithinLimits :=
  Steady.withExec h _ _ _ _ (fun _ => completeExec_limits h _ _)

theorem execClockTransferApplication_limits {s : State} (h : s.WithinLimits) :
    NextHolds State.WithinLimits (execClockTransferApplication s) := by
  refine .next ?_
  split
  · exact h
  · split
    · exact settle_limits (completeSetClock_limits (limits_of_le h (by simp)) _ _) _
    · refine settle_limits (completeSetClock_limits (limits_of_le h ?_) _ _) _
      split <;> simp

theorem execClockTick_limits {s : State} (h : s.WithinLimits) : NextHolds State.WithinLimits (execClockTick s) := by
  refine .next ?_
  split <;> exact h

theorem execOscillatorStop_limits {s : State} (h : s.WithinLimits) :
    NextHolds State.WithinLimits (execOscillatorStop s) := by
  refine .next ?_
  split
  · exact h
  · split
    · exact postAlert_limits (limits_of_le h (by simp)) _ _ _
    · exact h

theorem execOscillatorRestart_limits {s : State} (h : s.WithinLimits) :
    NextHolds State.WithinLimits (execOscillatorRestart s) := by
  refine .next ?_
  split <;> exact h

theorem execBatteryCrossing_limits {s : State} (h : s.WithinLimits) (good : Bool) :
    NextHolds State.WithinLimits (execBatteryCrossing good s) := by
  refine .next ?_
  (repeat' split) <;> exact limits_of_le h (by simp)

theorem execBatteryDomainLoss_limits {s : State} (h : s.WithinLimits) :
    NextHolds State.WithinLimits (execBatteryDomainLoss s) := by
  refine .next ?_
  split <;> exact limits_of_le h (by simp)

/-! #### The store engine -/

theorem endHeld_limits {s : State} (h : s.WithinLimits) (status : Status) (x : HeldRecord) :
    (endHeld status s x).WithinLimits := by
  simp only [endHeld]
  split
  · exact completeExec_limits h _ _
  · exact limits_of_le h (by simp)

theorem failureEffects_limits {s : State} (h : s.WithinLimits) (i : SegId) (u : Nat) :
    (failureEffects i u s).WithinLimits := by
  have hrelief : (finishWaiters (fun w => u ≤ w.target) .nvFault
      (setMetadataDirty (onReliefBut (s.lostWith i u) s))).WithinLimits :=
    limits_of_le (onReliefBut_limits h (s.lostWith i u)) (by simp)
  have hheld := foldl_invariant (P := State.WithinLimits) (endHeld .nvFault)
    (fun _ x hs => endHeld_limits hs .nvFault x)
    (finishWaiters (fun w => u ≤ w.target) .nvFault
      (setMetadataDirty (onReliefBut (s.lostWith i u) s))).budget.held hrelief
  exact postAlert_limits (limits_of_le hheld (by simp [endAllHeld])) _ _ _

theorem passEnd_limits {s : State} (h : s.WithinLimits) (i : SegId) (agree : Bool) :
    (passEnd i agree s).WithinLimits := by
  have hfreeing : (endFreeing i s).WithinLimits := limits_of_le h (by simp)
  have hjob : (endJob i s).WithinLimits := limits_of_le h (by simp)
  simp only [passEnd]
  split
  · exact limits_of_le (onReliefBut_limits hfreeing (fun _ => false)) (by simp)
  · split
    · split
      · exact limits_of_le hjob (by simp)
      · exact limits_of_le (onReliefBut_limits hjob (fun _ => false)) (by simp)
    · split
      · exact limits_of_le h (by simp)
      · exact failureEffects_limits (limits_of_le h (by simp)) _ _

theorem emergencyPassEnd_limits {s : State} (h : s.WithinLimits) (i : SegId) (agree : Bool) :
    (emergencyPassEnd i agree s).WithinLimits := by
  have hfailure : (emergencyFailure i ((s.seg i).unstoredFrom.getD 0) (failSegment i s)).WithinLimits := by
    simp only [emergencyFailure]
    split
    · exact limits_of_le h (by simp)
    · exact postAlert_limits (limits_of_le h (by simp)) _ _ _
  simp only [emergencyPassEnd]
  split
  · exact limits_of_le h (by simp)
  · split
    · exact limits_of_le h (by simp)
    · split
      · exact limits_of_le h (by simp)
      · exact limits_of_le hfailure (by simp)

theorem execStorePassEnd_limits {s : State} (h : s.WithinLimits) (agree : Bool) :
    NextHolds State.WithinLimits (execStorePassEnd agree s) := by
  refine .next ?_
  split
  · rename_i i written _
    have h' : (passBytes i written agree s).WithinLimits := limits_of_le h (by simp)
    dsimp only
    split
    · exact emergencyPassEnd_limits h' i agree
    · exact settle_limits (passEnd_limits h' i agree) _
  · exact h

theorem execIdleTimerExpiry_limits {s : State} (h : s.WithinLimits) :
    NextHolds State.WithinLimits (execIdleTimerExpiry s) := by
  refine .next ?_
  split <;> exact limits_of_le h (by simp)

theorem afterCheckpoint_limits {s : State} (h : s.WithinLimits) (ok : Bool) : (afterCheckpoint ok s).WithinLimits := by
  have hformat : (completeFormat ok s).WithinLimits :=
    Steady.withExec h _ _ _ _ (fun _ => completeExec_limits h _ _)
  simp only [afterCheckpoint]
  split
  · exact limits_of_le h (by simp)
  · split
    · exact settle_limits (limits_of_le h (by simp)) _
    · refine settle_limits ?_ _
      simp only [backgroundEnd]
      split
      · exact limits_of_le hformat (by simp)
      · exact hformat

theorem execCheckpointWriteEnd_limits {s : State} (h : s.WithinLimits) (verified : Bool) :
    NextHolds State.WithinLimits (execCheckpointWriteEnd verified s) := by
  have hlost : ∀ slot x, (checkpointLost slot x s).WithinLimits := fun slot x => by
    simp only [checkpointLost, checkpointAlert]
    split
    · exact limits_of_le h (by simp)
    · exact postAlert_limits (limits_of_le h (by simp)) _ _ _
  refine .next ?_
  split
  · split
    · exact afterCheckpoint_limits (limits_of_le h (by simp)) _
    · split
      · exact limits_of_le h (by simp)
      · exact afterCheckpoint_limits (hlost _ _) _
  · exact h

theorem execPstoreRequest_limits {s : State} (h : s.WithinLimits) (low : Nat) :
    NextHolds State.WithinLimits (execPstoreRequest low s) := by
  refine .next ?_
  (repeat' split) <;> exact limits_of_le h (by simp)

/-! #### The monitor and the power controller -/

theorem sagWatch_limits {s : State} (h : s.WithinLimits) (v : Nat) : (sagWatch v s).WithinLimits := by
  simp only [sagWatch]
  split
  · split
    · exact h
    · split
      · exact h
      · split
        · exact postAlert_limits (limits_of_le h (by simp)) _ _ _
        · exact h
  · exact h

theorem powerDecision_limits {s : State} (h : s.WithinLimits) (v : Nat) : (powerDecision v s).WithinLimits :=
  limits_of_le h (by simp)

theorem execMeasurement_limits {s : State} (h : s.WithinLimits) (v : Nat) :
    NextHolds State.WithinLimits (execMeasurement v s) := by
  refine .next ?_
  split
  · exact h
  · have h' : (recomputeBudget (recordMeasurement v s)).WithinLimits := recomputeBudget_limits (limits_of_le h (by simp))
    exact settle_limits (powerDecision_limits (sagWatch_limits h' v) v) _

theorem execCharged_limits {s : State} (h : s.WithinLimits) : NextHolds State.WithinLimits (execCharged s) := by
  refine .next ?_
  split <;> exact h

theorem execNotCharged_limits {s : State} (h : s.WithinLimits) : NextHolds State.WithinLimits (execNotCharged s) := by
  refine .next ?_
  split
  · exact postAlert_limits (limits_of_le h (by simp)) _ _ _
  · exact h

theorem endLearning_limits {s : State} (h : s.WithinLimits) (twelfths : Nat) :
    (endLearning twelfths s).WithinLimits := by
  simp only [endLearning]
  split
  · exact h
  · exact postAlert_limits (limits_of_le h (by simp)) _ _ _

theorem execLearnStart_limits {s : State} (h : s.WithinLimits) (time : Nat) :
    NextHolds State.WithinLimits (execLearnStart time s) := by
  refine .next ?_
  split <;> exact h

theorem execLearnEnd_limits {s : State} (h : s.WithinLimits) (time : Nat) :
    NextHolds State.WithinLimits (execLearnEnd time s) := by
  refine .next ?_
  split
  · exact endLearning_limits (limits_of_le h (by simp)) _
  · exact h

theorem execLearnTimeout_limits {s : State} (h : s.WithinLimits) :
    NextHolds State.WithinLimits (execLearnTimeout s) := by
  refine .next ?_
  split
  · exact endLearning_limits (limits_of_le h (by simp)) _
  · exact h

theorem execSupplyFail_limits {s : State} (h : s.WithinLimits) : NextHolds State.WithinLimits (execSupplyFail s) := by
  refine .next ?_
  split
  · exact h
  · dsimp only
    split
    · exact limits_of_le h (by simp [enterEmergency, emergencyBlocks])
    · split <;> exact limits_of_le h (by simp [abandonStart])

/-- At entry to RECALL nothing is claimed and the alert list is empty (R132). -/
theorem enterRecall_limits (s : State) (v : Nat) : (enterRecall v s).WithinLimits := by
  have h : (powerOn v s).WithinLimits := by simp [State.WithinLimits, powerOn, State.reset]
  simp only [enterRecall]
  split
  · exact postAlert_limits h _ _ _
  · exact h

theorem execSupplyReturn_limits {s : State} (h : s.WithinLimits) (v : Nat) :
    NextHolds State.WithinLimits (execSupplyReturn v s) := by
  refine .next ?_
  split
  · exact enterRecall_limits s v
  · split
    · exact h
    · split
      · exact enterRecall_limits s v
      · exact h

theorem execClosingMarkWriteEnd_limits {s : State} (h : s.WithinLimits) (verified : Bool) (v : Nat) :
    NextHolds State.WithinLimits (execClosingMarkWriteEnd verified v s) := by
  have hend : ∀ {t : State}, t.WithinLimits → (endSequence v t).WithinLimits := fun {t} ht => by
    simp only [endSequence]
    split
    · exact enterRecall_limits _ v
    · exact ht
  refine .next ?_
  split
  · split
    · exact hend (limits_of_le h (by simp))
    · split
      · exact h
      · exact hend (limits_of_le h (by simp))
  · exact h

theorem execEndOfScan_limits {s : State} (h : s.WithinLimits) : NextHolds State.WithinLimits (execEndOfScan s) := by
  refine .next ?_
  split
  · have h' : (markDiscarded s.recovery.restored.head s.foundEntries s).WithinLimits :=
      foldl_invariant (P := State.WithinLimits) _ (fun _ _ hs => limits_of_le hs (by simp)) _ h
    exact limits_of_le h' (by simp [endScan, decideAndReport, rebuildJournal, State.foundEntries])
  · exact h

/-! #### Every command -/

theorem exec_limits {s : State} (h : s.WithinLimits) (i : Instr) : NextHolds State.WithinLimits (exec i s) := by
  cases i with
  | hostReset cause => exact .next (hostReset_limits h)
  | enable => exact .next (enableWrite_limits h)
  | notify chan index => exact .next (notifyWrite_limits h _ _)
  | retire chan index => exact .next (retireWrite_limits h _ _)
  | registerWrite offset width value =>
    refine .next ?_
    split
    · exact windowWrite_limits h _ _
    · exact h
  | fetchEnd result => exact execFetchEnd_limits h _
  | append chan => exact settleWithExec_limits h _ _ _ _ _ (fun r => beginDurable_limits h _ r)
  | sealTxn chan => exact settleWithExec_limits h _ _ _ _ _ (fun r => beginDurable_limits h _ r)
  | flush chan => exact settleWithExec_limits h _ _ _ _ _ (fun r => beginDurable_limits h _ r)
  | abort chan => exact settleWithExec_limits h _ _ _ _ _ (fun r => abortExecute_limits h _ r)
  | read chan => exact settleWithExec_limits h _ _ _ _ _ (fun r => beginRead_limits h _ r)
  | release chan => exact execRelease_limits h _
  | format => exact settleWithExec_limits h _ _ _ _ _ (fun r => formatExecute_limits h r)
  | setClock => exact settleWithExec_limits h _ _ _ _ _ (fun r => setClockExecute_limits h r)
  | recoveryReport => exact settleWithExec_limits h _ _ _ _ _ (fun r => reportExecute_limits h r)
  | openChannel => exact settleWithExec_limits h _ _ _ _ _ (fun r => openExecute_limits h r)
  | closeChannel => exact settleWithExec_limits h _ _ _ _ _ (fun r => closeExecute_limits h r)
  | configure => exact settleWithExec_limits h _ _ _ _ _ (fun r => configureExecute_limits h r)
  | query => exact settleWithExec_limits h _ _ _ _ _ (fun r => queryExecute_limits h r)
  | alertWait => exact settleWithExec_limits h _ _ _ _ _ (fun r => alertWaitExecute_limits h r)
  | waitListReservation => exact execWaitListReservation_limits h
  | stagingBufferClaim => exact execStagingBufferClaim_limits h
  | payloadReadEnd chan result => exact execPayloadReadEnd_limits h _ _
  | txnExpiry chan hostId => exact execTxnExpiry_limits h _ _
  | readBufferClaim => exact execReadBufferClaim_limits h
  | readDataWriteEnd chan ok => exact settleWithExec_limits h _ _ _ _ _ (fun r => endRead_limits h _ _ r)
  | formatReset => exact execFormatReset_limits h
  | storePassEnd agree => exact execStorePassEnd_limits h _
  | idleTimerExpiry => exact execIdleTimerExpiry_limits h
  | checkpointWriteEnd verified => exact execCheckpointWriteEnd_limits h _
  | measurement millivolts => exact execMeasurement_limits h _
  | charged => exact execCharged_limits h
  | notCharged => exact execNotCharged_limits h
  | learnStart time => exact execLearnStart_limits h _
  | learnEnd time => exact execLearnEnd_limits h _
  | learnTimeout => exact execLearnTimeout_limits h
  | supplyFail => exact execSupplyFail_limits h
  | supplyReturn millivolts => exact execSupplyReturn_limits h _
  | closingMarkWriteEnd verified millivolts => exact execClosingMarkWriteEnd_limits h _ _
  | recallCompletion =>
    refine .next ?_
    split <;> exact h
  | endOfScan => exact execEndOfScan_limits h
  | pstoreRequest lowNanoseconds => exact execPstoreRequest_limits h _
  | clockTick => exact execClockTick_limits h
  | clockTransferApplication => exact execClockTransferApplication_limits h
  | oscillatorStop => exact execOscillatorStop_limits h
  | oscillatorRestart => exact execOscillatorRestart_limits h
  | batteryCrossing good => exact execBatteryCrossing_limits h _
  | batteryDomainLoss => exact execBatteryDomainLoss_limits h
  | completionRecordWriteEnd chan ok => exact execCompletionRecordWriteEnd_limits h _ _
  | statusBlockWriteEnd chan ok => exact execStatusBlockWriteEnd_limits h _ _
  | holdoffExpiry chan => exact execHoldoffExpiry_limits h _
  | reportWriteEnd ok => exact settleWithExec_limits h _ _ _ _ _ (fun r => completeExec_limits h _ _)
  | snapshotWriteEnd ok => exact settleWithExec_limits h _ _ _ _ _ (fun r => endQuery_limits h _ r)

/-- Settles O6: each claim tests its limit first, a posted alert is folded into its kind's record, and every other
operation claims nothing. -/
theorem stepKeepsLimits : Obligations.StepKeepsLimits := by
  intro s t h hstep
  unfold step at hstep
  split at hstep
  · exact Host.Outcome.next.inj hstep ▸ limits_of_le h (by simp)
  · exact exec_limits (limits_of_le h (by simp)) _ t hstep

end Sys2Proof.Machine


namespace Sys2Proof.Machine

/-! ### The record of an executing request -/

theorem setChan_setChan (s : State) (c : ChanId) (x y : Channel) : (s.setChan c x).setChan c y = s.setChan c y := by
  simp [State.setChan]

theorem setChan_self (s : State) (c : ChanId) : s.setChan c (s.chan c) = s := by
  simp [State.setChan, State.chan]

/-- Putting the request that the channel already executes changes nothing. -/
theorem setExec_self {c : ChanId} {r : Executing} {s : State} (h : (s.chan c).exec = some r) : setExec c r s = s := by
  have e : ({ s.chan c with exec := some r } : Channel) = s.chan c := by rw [← h]
  rw [setExec, State.modChan, e, setChan_self]

theorem setExec_setExec (c : ChanId) (r q : Executing) (s : State) : setExec c q (setExec c r s) = setExec c q s := by
  simp only [setExec, State.modChan, State.chan_setChan_same, setChan_setChan]

theorem setExec_chan_same (c : ChanId) (r : Executing) (s : State) :
    (setExec c r s).chan c = { s.chan c with exec := some r } := State.chan_modChan_same _ _ _

theorem setExec_chan_other {c d : ChanId} (r : Executing) (s : State) (h : d ≠ c) :
    (setExec c r s).chan d = s.chan d := State.chan_modChan_other _ _ h

/-- A request moves on to a stage with all else that it holds. -/
theorem setStage_eq_setExec {c : ChanId} {r : Executing} {s : State} (st : Stage) (h : (s.chan c).exec = some r) :
    setStage c st s = setExec c { r with stage := st } s := by
  simp only [setStage, setExec, State.modChan, h, Option.map_some]

theorem setStage_setExec (c : ChanId) (st : Stage) (r : Executing) (s : State) :
    setStage c st (setExec c r s) = setExec c { r with stage := st } s := by
  rw [setStage_eq_setExec st (by rw [setExec_chan_same]), setExec_setExec]

/-- An event that puts the channel's request, and otherwise leaves the channel controller alone. -/
theorem movedTo_of_cc {c : ChanId} {r : Executing} {s t : State} (h : t.cc = (setExec c r s).cc) : MovedTo c r s t := by
  have hc : ∀ d, t.chan d = (setExec c r s).chan d := fun d => by simp only [State.chan, h]
  refine ⟨by rw [hc, setExec_chan_same], taken_of_posts (by rw [h]; simp), fun d hd => ?_⟩
  rw [hc, setExec_chan_other r s hd, fetchBegun_same d (by rw [h]; simp)]
  rfl

/-- A request that has moved on stays where it is at the end of the event. -/
theorem MovedTo.settle {c : ChanId} {r : Executing} {s t : State} (h : MovedTo c r s t) (hf : t.cc.fetch = s.cc.fetch)
    (test : Bool) : MovedTo c r s (settle test t) := by
  obtain ⟨hchan, htaken, hothers⟩ := h
  exact ⟨by rw [settle_chan_busy test (by rw [hchan]; simp), hchan], by rw [settle_taken, htaken],
    hothers.trans (settle_channels _ test t) hf⟩

/-! ### Reservation and staging (R27 to R30, R84) -/

/-- The event of APPEND, SEAL or FLUSH as its owning block takes it. -/
def startsDurable (c : ChanId) : Kind → Instr
  | .sealTxn => .sealTxn c
  | .flush => .flush c
  | _ => .append c

theorem exec_startsDurable {c : ChanId} {k : Kind} {r : Executing} {s : State}
    (hk : k = .append ∨ k = .sealTxn ∨ k = .flush) (h : Executes c k .handed r s) (hf : s.journal.formatted = true) :
    exec (startsDurable c k) s = .next (settle false
      (if s.waitRecordFree ∧ s.store.reservationWaiters = [] then takeReservation c r s
       else setStage c .waitReservation { s with store.reservationWaiters := s.store.reservationWaiters ++ [c] })) := by
  obtain ⟨-, hexec, hkind, hstage⟩ := h
  have hhanded : Stage.isHanded r.stage = true := by simp [hstage, Stage.isHanded]
  have hbegin : beginDurable c r s =
      if s.waitRecordFree ∧ s.store.reservationWaiters = [] then takeReservation c r s
      else setStage c .waitReservation { s with store.reservationWaiters := s.store.reservationWaiters ++ [c] } := by
    rw [beginDurable, if_neg (by simp [hf])]
  rcases hk with rfl | rfl | rfl
  · simp only [startsDurable, exec, execAppend, withExec_eq hexec hkind hhanded, hbegin]
  · simp only [startsDurable, exec, execSeal, withExec_eq hexec hkind hhanded, hbegin]
  · simp only [startsDurable, exec, execFlush, withExec_eq hexec hkind hhanded, hbegin]

/-- The head of the reservation waiters is handed a free record (R84). -/
theorem exec_waitListReservation {c : ChanId} {r : Executing} {s : State} {rest : List ChanId}
    (hw : s.store.reservationWaiters = c :: rest) (h : (s.chan c).exec = some r) (hfree : s.waitRecordFree = true) :
    exec .waitListReservation s =
      .next (settle false (takeReservation c r { s with store.reservationWaiters := rest })) := by
  simp only [exec, execWaitListReservation, hw, h, hfree, if_true]

/-- An APPEND with its reservation goes on to staging. -/
theorem takeReservation_append {c : ChanId} {r : Executing} {s : State} (h : r.req.kind = .append) :
    takeReservation c r s = claimStaging c { r with waitReserved := true } (setExec c { r with waitReserved := true } s) := by
  simp only [takeReservation, afterReservation, h]

/-- What the claim of a staging buffer leaves, before the end of the event (R29, R30). -/
theorem takeStaging_eq {c : ChanId} {r q : Executing} {s : State} (h : (s.chan c).exec = some q) :
    takeStaging c r s = State.emit
      { setExec c { q with stage := .staging } s with
        staging.buffers := s.staging.buffers ++ [{ chan := c, data := [] }] } (.read r.req.addr r.req.length) := by
  rw [← setStage_eq_setExec _ h]
  rfl

/-- The claim of a staging buffer stages the request, also through the end of an event. -/
theorem staged_takeStaging {c : ChanId} {r q : Executing} {s t : State} (h : (t.chan c).exec = some q)
    (hreq : q.req = r.req) (hq : { q with stage := .staging } = { r with stage := .staging, waitReserved := true })
    (ht : setExec c q s = t) :
    Staged c r s (takeStaging c q t) ∧ Staged c r s (settle false (takeStaging c q t)) := by
  have hmoved : MovedTo c { r with stage := .staging, waitReserved := true } s (takeStaging c q t) := by
    refine movedTo_of_cc ?_
    rw [takeStaging_eq h, ← ht, setExec_setExec, hq]
    rfl
  have hcontents : SameContents s (takeStaging c q t) := by
    rw [← ht]
    refine ⟨⟨by simp, by simp, by simp, by simp, by simp, by simp, SameSegments.of_segs (by simp)⟩, ?_⟩
    unfold SameUnits
    simp
  have hstaging : (takeStaging c q t).staging =
      { s.staging with buffers := s.staging.buffers ++ [{ chan := c, data := [] }] } := by
    rw [takeStaging_eq h, ← ht]
    simp [State.emit]
  have hout : (takeStaging c q t).out = .read r.req.addr r.req.length :: s.out := by
    rw [takeStaging_eq h, ← ht, hreq]
    simp [State.emit]
  have hrest : (takeStaging c q t).budget = s.budget ∧
      (takeStaging c q t).store.reservationWaiters = s.store.reservationWaiters := by
    rw [← ht]
    simp
  have hfetch : (takeStaging c q t).cc.fetch = s.cc.fetch := by
    rw [← ht]
    simp
  exact ⟨⟨hmoved, hstaging, ⟨[], hout⟩, hcontents, hrest.1, hrest.2⟩,
    hmoved.settle hfetch false, by simpa using hstaging, emitted_settle false hout,
    hcontents.trans (settle_contents _ _), by simpa using hrest.1, by simpa using hrest.2⟩

/-- With a free buffer and nobody before it, an APPEND that has its reservation is staged. -/
theorem staged_takeReservation {c : ChanId} {r : Executing} {s : State} (hkind : r.req.kind = .append)
    (hb : s.staging.buffers.length < 4) (hw : s.staging.waiters = []) :
    Staged c r s (settle false (takeReservation c r s)) := by
  rw [takeReservation_append hkind, claimStaging, if_pos (by simp [hb, hw])]
  exact (staged_takeStaging (r := r) (q := { r with waitReserved := true }) (by rw [setExec_chan_same]) rfl rfl rfl).2

/-- Without a free buffer, or behind others, it joins the staging waiters (R29). -/
theorem waits_takeReservation {c : ChanId} {r : Executing} {s : State} (hkind : r.req.kind = .append)
    (hb : 4 ≤ s.staging.buffers.length ∨ s.staging.waiters ≠ []) :
    MovedTo c { r with stage := .waitStaging, waitReserved := true } s (settle false (takeReservation c r s)) ∧
      (settle false (takeReservation c r s)).staging = { s.staging with waiters := s.staging.waiters ++ [c] } ∧
      SameContents s (settle false (takeReservation c r s)) ∧
      (settle false (takeReservation c r s)).store.reservationWaiters = s.store.reservationWaiters := by
  have hn : ¬(s.staging.buffers.length < 4 ∧ s.staging.waiters = []) := fun ⟨h1, h2⟩ =>
    hb.elim (fun h => absurd h1 (Nat.not_lt.mpr h)) (fun h => h h2)
  have e : takeReservation c r s = setStage c .waitStaging
      { setExec c { r with waitReserved := true } s with staging.waiters := s.staging.waiters ++ [c] } := by
    rw [takeReservation_append hkind, claimStaging, if_neg (by simpa using hn)]
    simp
  rw [e]
  refine ⟨MovedTo.settle (movedTo_of_cc ?_) (by simp) false, by simp, ?_, by simp⟩
  · exact Eq.trans (b := (setStage c .waitStaging (setExec c { r with waitReserved := true } s)).cc) rfl
      (congrArg State.cc (setStage_setExec c .waitStaging { r with waitReserved := true } s))
  · refine SameContents.trans ⟨?_, ?_⟩ (settle_contents _ _)
    · exact ⟨by simp, by simp, by simp, by simp, by simp, by simp, SameSegments.of_segs (by simp)⟩
    · unfold SameUnits
      simp

/-- A request without a free record, or behind others, joins the reservation waiters (R84). -/
theorem waits_reservation {c : ChanId} {r : Executing} {s : State} (h : (s.chan c).exec = some r) :
    let u := settle false
      (setStage c .waitReservation { s with store.reservationWaiters := s.store.reservationWaiters ++ [c] })
    MovedTo c { r with stage := .waitReservation } s u ∧ u.staging = s.staging ∧
      u.store.reservationWaiters = s.store.reservationWaiters ++ [c] ∧ SameContents s u := by
  refine ⟨movedTo_settle false h rfl, by simp, by simp, SameContents.trans ⟨?_, ?_⟩ (settle_contents _ _)⟩
  · exact ⟨by simp, by simp, by simp, by simp, by simp, by simp, SameSegments.of_segs (by simp)⟩
  · unfold SameUnits
    simp

/-- Settles O22: the reservation taken at once or handed over, each followed by a staging buffer or the wait for one. -/
theorem appendStages : Obligations.AppendStages := by
  intro s c r hf
  refine ⟨fun hx hfree hnone hb hw => ?_, fun hx hfree hnone hb => ?_, fun hwait i hi => ?_,
    fun rest hrest hfree hx hb hw => ?_, fun rest hrest hfree hx hb => ?_, fun rest hrest hx hreserved hb => ?_⟩
  · refine ⟨_, (exec_startsDurable (.inl rfl) hx hf).trans (by rw [if_pos ⟨hfree, hnone⟩]), ?_⟩
    exact staged_takeReservation hx.2.2.1 hb hw
  · refine ⟨_, (exec_startsDurable (.inl rfl) hx hf).trans (by rw [if_pos ⟨hfree, hnone⟩]), ?_⟩
    obtain ⟨hmoved, hstaging, hcontents, hwaiters⟩ := waits_takeReservation (c := c) hx.2.2.1 hb
    exact ⟨hmoved, hstaging, hcontents, hwaiters.trans hnone⟩
  · have hn : ¬(s.waitRecordFree = true ∧ s.store.reservationWaiters = []) := fun ⟨h1, h2⟩ =>
      hwait.elim (fun h => by rw [h1] at h; cases h) (fun h => h h2)
    rcases hi with ⟨rfl, hx⟩ | ⟨rfl, hx⟩ | ⟨rfl, hx⟩
    · exact ⟨_, (exec_startsDurable (.inl rfl) hx hf).trans (by rw [if_neg hn]), waits_reservation hx.2.1⟩
    · exact ⟨_, (exec_startsDurable (.inr (.inl rfl)) hx hf).trans (by rw [if_neg hn]), waits_reservation hx.2.1⟩
    · exact ⟨_, (exec_startsDurable (.inr (.inr rfl)) hx hf).trans (by rw [if_neg hn]), waits_reservation hx.2.1⟩
  · exact ⟨_, exec_waitListReservation hrest hx.2.1 hfree,
      staged_takeReservation (s := { s with store.reservationWaiters := rest }) hx.2.2.1 hb hw⟩
  · refine ⟨_, exec_waitListReservation hrest hx.2.1 hfree, ?_⟩
    exact waits_takeReservation (c := c) (s := { s with store.reservationWaiters := rest }) hx.2.2.1 hb
  · refine ⟨takeStaging c r { s with staging.waiters := rest }, ?_, ?_⟩
    · simp only [exec, execStagingBufferClaim, hrest, hx.2.1]
      rw [if_pos hb]
    · have hq : { r with stage := .staging } = { r with stage := .staging, waitReserved := true } := by rw [← hreserved]
      exact (staged_takeStaging (r := r) (t := { s with staging.waiters := rest }) hx.2.1 rfl hq
        (setExec_self (s := { s with staging.waiters := rest }) hx.2.1)).1

end Sys2Proof.Machine


namespace Sys2Proof.Machine

/-! ### The entries of a transaction become VOID (R19, R51) -/

/-- The VOID marks of a transaction's entries, and no other byte of SRAM (R19, R20). -/
theorem voidTxn_voided (t : TxnRecord) (s : State) : Voided t s (voidTxn t s) :=
  ⟨fun e he => (markVoids_read _ s _).1 ⟨e, he, rfl⟩, fun a ha => (markVoids_read _ s a).2 ha⟩

theorem Voided.of_sram {t : TxnRecord} {s u v : State} (h : Voided t s u) (hs : v.journal.sram = u.journal.sram) :
    Voided t s v := by
  unfold Voided
  rw [hs]
  exact h

/-- VOID marks leave the segment records as they are. -/
theorem voidTxn_segments (t : TxnRecord) (s : State) : SameSegments s (voidTxn t s) := SameSegments.of_segs (by simp)

/-- Only the shadow may have taken bytes meanwhile (R34). -/
theorem voidTxn_array (t : TxnRecord) (s : State) :
    (voidTxn t s).array = { s.array with shadow := (voidTxn t s).array.shadow } := by
  have hslots : (voidTxn t s).array.slotA = s.array.slotA ∧ (voidTxn t s).array.slotB = s.array.slotB ∧
      (voidTxn t s).array.closing = s.array.closing := by simp
  dsimp only
  rw [← hslots.1, ← hslots.2.1, ← hslots.2.2]

theorem Journal.eq_but_sram {j k : Journal} (h : j.segs = k.segs ∧ j.chain = k.chain ∧ j.nextSeq = k.nextSeq ∧
    j.head = k.head ∧ j.format = k.format ∧ j.formatted = k.formatted ∧ j.full = k.full ∧
    j.readBuffers = k.readBuffers ∧ j.readWaiters = k.readWaiters) : j = { k with sram := j.sram } := by
  obtain ⟨h1, h2, h3, h4, h5, h6, h7, h8, h9⟩ := h
  rw [← h1, ← h2, ← h3, ← h4, ← h5, ← h6, ← h7, ← h8, ← h9]

theorem voidTxn_journal (t : TxnRecord) (s : State) :
    (voidTxn t s).journal = { s.journal with sram := (voidTxn t s).journal.sram } :=
  Journal.eq_but_sram (by simp)

theorem voidTxn_units (t : TxnRecord) (s : State) :
    SameUnits { s with array.shadow := (voidTxn t s).array.shadow } (voidTxn t s) := by
  have harray := voidTxn_array t s
  unfold SameUnits
  refine ⟨by simp, harray, ?_⟩
  simp

theorem removeTxn_txns (c : ChanId) (n : Nat) (s : State) :
    (removeTxn c n s).txns =
      { s.txns with table := s.txns.table.filter (fun x => !(x.chan == c && x.hostId == n)) } := rfl

/-- What the transaction unit changes is not what a request holds or waits for. -/
theorem removeTxn_apart (c d : ChanId) (n : Nat) {s t : State} (h : ApartFrom d s t) : ApartFrom d s (removeTxn c n t) := h

theorem voidTxn_apart (c : ChanId) (t : TxnRecord) (s : State) : ApartFrom c s (voidTxn t s) := by
  unfold ApartFrom
  simp

theorem exec_abort {c : ChanId} {r : Executing} {s : State} (h : Executes c .abort .handed r s) :
    exec (.abort c) s = .next (settle false (abortExecute c r s)) := by
  obtain ⟨-, hexec, hkind, hstage⟩ := h
  simp only [exec, execAbort]
  rw [withExec_eq hexec hkind (by simp [hstage, Stage.isHanded])]

/-- Settles O27: by the record that the key finds, with the VOID marks before the completion for an OPEN one. -/
theorem abortRule : Obligations.AbortRule := by
  intro s c r hx
  have hexec := exec_abort hx
  refine ⟨fun hnone => ?_, fun t ht => ⟨fun hexpired => ?_, fun hopen => ?_⟩⟩
  · rw [hexec, abortExecute, hnone]
    exact onlyCompletes_settle _ false hx.1
  · have e : abortExecute c r s = completeExec c (r.req.refusal .txnExpired 0) (removeTxn c r.req.hostId s) := by
      simp only [abortExecute, ht, hexpired, if_true]
    rw [hexec, e]
    obtain ⟨hlog, hunits⟩ := (completeExec_contents c (r.req.refusal .txnExpired 0) (removeTxn c r.req.hostId s)).trans
      (settle_contents false _)
    have hcompleted := completed_settle (s := removeTxn c r.req.hostId s) (r.req.refusal .txnExpired 0) false hx.1
    refine ⟨_, rfl, hcompleted.of_apart (removeTxn_apart c c _ ⟨rfl, rfl, rfl, rfl, rfl, rfl, rfl, rfl⟩), hlog,
      hunits.1.trans (removeTxn_txns c _ s), ?_⟩
    rw [hunits.1]
    exact hunits
  · have e : abortExecute c r s = completeExec c (r.req.completion .ok t.lastSeq Stamp.zero t.count)
        (removeTxn c r.req.hostId (voidTxn t s)) := by
      simp only [abortExecute, ht, hopen, Bool.false_eq_true, if_false]
    rw [hexec, e]
    have happart := removeTxn_apart c c r.req.hostId (voidTxn_apart c t s)
    have hactive : ((removeTxn c r.req.hostId (voidTxn t s)).chan c).state = .active := by
      rw [show (removeTxn c r.req.hostId (voidTxn t s)).chan c = s.chan c by simp [State.chan]]
      exact hx.1
    obtain ⟨⟨hsram, hchain, hseq, hhead, -, -, hsegs⟩, hunits⟩ := (completeExec_contents c
      (r.req.completion .ok t.lastSeq Stamp.zero t.count) (removeTxn c r.req.hostId (voidTxn t s))).trans
      (settle_contents false _)
    refine ⟨_, rfl, (completed_settle _ false hactive).of_apart happart, (voidTxn_voided t s).of_sram hsram,
      hunits.1.trans ?_, fun i _ => (voidTxn_segments t s i).trans (hsegs i), hchain.trans (by simp),
      hseq.trans (by simp), hhead.trans (by simp), ?_⟩
    · rw [removeTxn_txns]
      simp
    · rw [hunits.1, hunits.2.1]
      refine SameUnits.trans ?_ hunits
      obtain ⟨-, hrest⟩ := voidTxn_units t s
      exact ⟨rfl, hrest⟩

/-! ### The deadline of a transaction (R48, R49) -/

/-- A completion of an ACTIVE channel's request, before the end of the event. -/
theorem completed_completeExec {c : ChanId} {s : State} (x : Completion) (h : (s.chan c).state = .active) :
    Completed c x s (completeExec c x s) := by
  obtain ⟨htaken, hchan, hothers, hreturned⟩ := completeExec_completed x h
  have hf : (completeExec c x s).cc.fetch = s.cc.fetch := by simp
  refine ⟨htaken, ?_, hreturned, fun d hd => ?_⟩
  · rw [hchan, fetchBegun_same c hf]
    rfl
  · rw [hothers d hd, fetchBegun_same d hf]
    rfl

/-- The key of the record that a search finds (R43). -/
theorem findTxn_key {s : State} {c : ChanId} {n : Nat} {t : TxnRecord} (h : s.findTxn c n = some t) :
    t.chan = c ∧ t.hostId = n := by
  simpa using List.find?_some h

/-- The record of a key reads EXPIRED (R49). -/
def expireRecord (c : ChanId) (n : Nat) (x : TxnRecord) : TxnRecord :=
  if x.chan == c && x.hostId == n then { x with expired := true } else x

/-- The state at the deadline, its record EXPIRED and its entries not yet VOID (R49, log entry 3). -/
def atDeadline (c : ChanId) (n d : Nat) (s : State) : State :=
  { s.reachTime d with txns.table := s.txns.table.map (expireRecord c n) }

theorem expireTxn_eq {s : State} {c : ChanId} {n d : Nat} {t : TxnRecord} (h : t.chan = c ∧ t.hostId = n) :
    expireTxn t (s.reachTime d) = voidTxn t (atDeadline c n d s) := by
  obtain ⟨rfl, rfl⟩ := h
  rfl

/-- Without the record of the key it does not matter whether that record had become EXPIRED. -/
theorem filter_expireRecord (c : ChanId) (n : Nat) (l : List TxnRecord) :
    (l.map (expireRecord c n)).filter (fun x => !(x.chan == c && x.hostId == n)) =
      l.filter (fun x => !(x.chan == c && x.hostId == n)) := by
  induction l with
  | nil => rfl
  | cons x l ih =>
    cases hx : (x.chan == c && x.hostId == n) with
    | true =>
      rw [List.map_cons, expireRecord, if_pos hx, List.filter_cons_of_neg (by simp [hx]),
        List.filter_cons_of_neg (by simp [hx]), ih]
    | false =>
      rw [List.map_cons, expireRecord, if_neg (by simp [hx]), List.filter_cons_of_pos (by simp [hx]),
        List.filter_cons_of_pos (by simp [hx]), ih]

/-- What the deadline and the VOID marks leave as it is. -/
theorem atDeadline_leaves (c : ChanId) (n d : Nat) (t : TxnRecord) (s : State) :
    (voidTxn t (atDeadline c n d s)).cc = s.cc ∧ (voidTxn t (atDeadline c n d s)).staging = s.staging ∧
      (voidTxn t (atDeadline c n d s)).budget = s.budget ∧
      (voidTxn t (atDeadline c n d s)).store.reservationWaiters = s.store.reservationWaiters ∧
      (voidTxn t (atDeadline c n d s)).txns = (atDeadline c n d s).txns ∧
      ∃ sram, (voidTxn t (atDeadline c n d s)).journal = { s.journal with sram := sram } :=
  ⟨by simp [atDeadline], by simp [atDeadline], by simp [atDeadline], by simp [atDeadline], by simp,
    _, voidTxn_journal t (atDeadline c n d s)⟩

/-- What the deadline changes of the other units: the device time, the record, and the shadow (log entry 3, R34). -/
theorem atDeadline_units (c : ChanId) (n d : Nat) (t : TxnRecord) (s : State) :
    SameUnits { s with
      txns := (atDeadline c n d s).txns, array.shadow := (voidTxn t (atDeadline c n d s)).array.shadow,
      now := max s.now d } (voidTxn t (atDeadline c n d s)) := by
  have h := voidTxn_units t (atDeadline c n d s)
  unfold SameUnits at *
  exact h

theorem exec_txnExpiry {s : State} {c : ChanId} {n d : Nat} {t : TxnRecord} (ht : s.findTxn c n = some t)
    (hd : t.deadline = some d) (hopen : t.expired = false) (hw : s.working = true) :
    exec (.txnExpiry c n) s = .next (settle false (expireHeld c n (voidTxn t (atDeadline c n d s)))) := by
  simp only [exec, execTxnExpiry, ht, hd, hopen, hw]
  rw [if_pos (by simp), expireTxn_eq (findTxn_key ht)]

/-- Settles O28: without a held request of the key the event is the VOID marks alone; a held one completes after them, and
a grant run may follow. -/
theorem txnExpiryRule : Obligations.TxnExpiryRule := by
  intro s c n d t ht hd hopen hw
  have hexec := exec_txnExpiry ht hd hopen hw
  have hunits := atDeadline_units c n d t s
  have hvoided : Voided t s (voidTxn t (atDeadline c n d s)) := voidTxn_voided t (atDeadline c n d s)
  have hsegs : SameSegments s (voidTxn t (atDeadline c n d s)) := voidTxn_segments t (atDeadline c n d s)
  have happart : ApartFrom c s (voidTxn t (atDeadline c n d s)) := voidTxn_apart c t (atDeadline c n d s)
  obtain ⟨hcc, hstaging, hbudget, hreservations, htxns, sram, hjournal⟩ := atDeadline_leaves c n d t s
  generalize voidTxn t (atDeadline c n d s) = v at *
  have hchan : v.chan c = s.chan c := by simp [State.chan, hcc]
  refine ⟨findTxn_key ht, fun hnot => ?_, fun r hx hhost => ?_⟩
  · have hnone : expireHeld c n v = v := by
      simp only [expireHeld, hchan]
      split
      · rename_i r hr
        rw [if_neg (hnot r hr)]
      · rfl
    rw [hexec, hnone]
    obtain ⟨⟨esram, echain, eseq, ehead, eformat, eformatted, esegs⟩, eunits⟩ := settle_contents false v
    have hothers : SameChannelsBut (fun _ => False) s v := SameChannelsBut.of_chans (by rw [hcc]) (by rw [hcc])
    refine ⟨_, rfl, hvoided.of_sram esram, eunits.1.trans htxns, fun i _ => (hsegs i).trans (esegs i),
      echain.trans (by rw [hjournal]), eseq.trans (by rw [hjournal]), ehead.trans (by rw [hjournal]),
      eformat.trans (by rw [hjournal]), eformatted.trans (by rw [hjournal]), by simp [hjournal],
      (settle_taken false v).trans (taken_of_posts (by rw [hcc])), hothers.trans (settle_channels _ false v) (by rw [hcc]),
      by simp [hstaging], by simp [hbudget], by simp [hjournal], by simp [hjournal], by simp [hreservations], ?_⟩
    rw [eunits.1, eunits.2.1]
    exact SameUnits.trans (t := v) ⟨rfl, hunits.2⟩ eunits
  · obtain ⟨hactive, hr, -, hstage⟩ := hx
    have hoccurs : expireHeld c n v =
        grantAfter (s.oldestIs c) (completeExec c (r.req.refusal .txnExpired 0) (removeTxn c n v)) := by
      simp only [expireHeld, hchan, hr]
      rw [if_pos ⟨hstage, hhost⟩, State.oldestIs, hbudget]
      rfl
    rw [hexec, hoccurs]
    have hstate : ((removeTxn c n v).chan c).state = .active := by
      rw [show (removeTxn c n v).chan c = s.chan c from hchan]
      exact hactive
    obtain ⟨⟨esram, echain, eseq, ehead, eformat, eformatted, esegs⟩, eunits⟩ :=
      completeExec_contents c (r.req.refusal .txnExpired 0) (removeTxn c n v)
    refine ⟨_, rfl, hvoided.of_sram esram, (completed_completeExec _ hstate).of_apart (removeTxn_apart c c n happart),
      by simp [hcc], ?_, fun i _ => (hsegs i).trans (esegs i), echain.trans (by simp [hjournal]),
      eseq.trans (by simp [hjournal]), ehead.trans (by simp [hjournal]), eformat.trans (by simp [hjournal]),
      eformatted.trans (by simp [hjournal]), ?_⟩
    · rw [eunits.1, removeTxn_txns, htxns]
      exact congrArg (fun l => ({ s.txns with table := l } : TxnUnit)) (filter_expireRecord c n s.txns.table)
    · rw [eunits.1, eunits.2.1]
      exact SameUnits.trans (t := removeTxn c n v) ⟨rfl, hunits.2⟩ eunits

end Sys2Proof.Machine


namespace Sys2Proof.Machine

/-! ### The state in which an APPEND or a SEAL makes its attempt (R26, R30, R31, R84) -/

/-- `s` with the request of channel `c` as it stands, and with these staging buffers and reservation waiters. -/
def withRequest (c : ChanId) (r : Executing) (buffers : List StagingBuffer) (waiters : List ChanId) (s : State) : State :=
  { setExec c r s with staging.buffers := buffers, store.reservationWaiters := waiters }

/-- The staging buffers at the attempt: an APPEND's holds its payload (R30). -/
def attemptBuffers (c : ChanId) (r : Executing) (payload : List Byte) (s : State) : List StagingBuffer :=
  s.staging.buffers.map (fun b => if b.chan = c ∧ r.req.kind = .append then { b with data := payload } else b)

/-- The reservation waiters at the attempt: the head has been handed its record (R84). -/
def attemptWaiters (i : Instr) (s : State) : List ChanId :=
  if i = .waitListReservation then s.store.reservationWaiters.tail else s.store.reservationWaiters

/-- The request at the attempt: a SEAL holds its wait-list record by now (R28). -/
def attemptExec (r : Executing) : Executing := { r with waitReserved := r.waitReserved || r.req.kind == .sealTxn }

/-- The state in which command `i` makes the attempt of `r`. -/
def attemptState (c : ChanId) (r : Executing) (payload : List Byte) (i : Instr) (s : State) : State :=
  withRequest c (attemptExec r) (attemptBuffers c r payload s) (attemptWaiters i s) s

theorem attemptBuffers_seal {c : ChanId} {r : Executing} {payload : List Byte} {s : State} (h : r.req.kind = .sealTxn) :
    attemptBuffers c r payload s = s.staging.buffers := by
  simp [attemptBuffers, h]

theorem takeReservation_seal {c : ChanId} {r : Executing} {payload : List Byte} {i : Instr} {s : State} {ws : List ChanId}
    (hk : r.req.kind = .sealTxn) (hw : ws = attemptWaiters i s) :
    takeReservation c r { s with store.reservationWaiters := ws } =
      commitAttempt false c (attemptExec r) (attemptState c r payload i s) := by
  have hr : attemptExec r = { r with waitReserved := true } := by simp [attemptExec, hk]
  simp only [takeReservation, afterReservation, hk, attemptState, hr, attemptBuffers_seal hk, ← hw]
  rfl

/-- The end of the event in which an APPEND or a SEAL makes its attempt is all that follows the attempt. -/
theorem exec_attempt {c : ChanId} {r : Executing} {payload : List Byte} {i : Instr} {s : State}
    (h : Attempts c r payload i s) :
    exec i s = .next (settle false (commitAttempt false c (attemptExec r) (attemptState c r payload i s))) := by
  obtain ⟨hexec, ⟨bytes, rfl, hkind, hstage, hbuf, rfl⟩ | ⟨hkind, rfl, hfree, ⟨rfl, hstage, hformatted, hnone⟩ |
    ⟨rfl, hstage, hhead⟩⟩⟩ := h
  · have hr : attemptExec r = r := by
      rw [attemptExec, hkind, show (Kind.append == Kind.sealTxn) = false from rfl, Bool.or_false]
    have hs : attemptState c r (fitBytes r.req.length bytes) (.payloadReadEnd c (.data bytes)) s =
        stagePayload c r.req.length bytes s := by
      simp only [attemptState, withRequest, hr, setExec_self hexec, attemptBuffers, hkind, and_true, stagePayload,
        beq_iff_eq]
      rfl
    simp only [exec, execPayloadReadEnd]
    rw [withExec_eq hexec hkind (by simp [hstage]), hr, hs]
  · have hbegin : beginDurable c r s = takeReservation c r { s with store.reservationWaiters := s.store.reservationWaiters } := by
      rw [beginDurable, if_neg (by simp [hformatted]), if_pos ⟨hfree, hnone⟩]
    simp only [exec, execSeal]
    rw [withExec_eq hexec hkind (by simp [hstage, Stage.isHanded]), hbegin,
      takeReservation_seal (payload := []) (i := .sealTxn c) hkind (by simp [attemptWaiters])]
  · obtain ⟨rest, hrest⟩ : ∃ rest, s.store.reservationWaiters = c :: rest := by
      cases hw : s.store.reservationWaiters with
      | nil => simp [hw] at hhead
      | cons d rest => exact ⟨rest, by simpa [hw] using hhead⟩
    rw [exec_waitListReservation hrest hexec hfree,
      takeReservation_seal (payload := []) (i := .waitListReservation) hkind (by simp [attemptWaiters, hrest])]

/-! ### A request that stands elsewhere leaves the rest as it was -/

/-- `t` is `s` for every other channel, and for what channel `c`'s request does not hold or wait for. -/
def RequestApart (c : ChanId) (s t : State) : Prop :=
  t.cc.posts = s.cc.posts ∧ t.cc.fetch = s.cc.fetch ∧
    ({ t.chan c with exec := none } : Channel) = { s.chan c with exec := none } ∧ (∀ d, d ≠ c → t.chan d = s.chan d) ∧
    t.budget.held = s.budget.held ∧ t.journal.full = s.journal.full ∧
    t.staging.buffers.filter (fun b => b.chan != c) = s.staging.buffers.filter (fun b => b.chan != c) ∧
    t.staging.waiters.filter (fun x => x != c) = s.staging.waiters.filter (fun x => x != c) ∧
    t.journal.readBuffers.filter (fun b => b.chan != c) = s.journal.readBuffers.filter (fun b => b.chan != c) ∧
    t.journal.readWaiters.filter (fun x => x != c) = s.journal.readWaiters.filter (fun x => x != c) ∧
    t.store.reservationWaiters.filter (fun x => x != c) = s.store.reservationWaiters.filter (fun x => x != c)

/-- What the end of an execution returns is the same seen from either state. -/
theorem HoldingsReturned.of_requestApart {c : ChanId} {s t u : State} (h : HoldingsReturned c t u)
    (ht : RequestApart c s t)
    (hp : (∀ x ∈ s.budget.held, x.chan ≠ c) → u.budget.pressure = s.budget.pressure) : HoldingsReturned c s u := by
  obtain ⟨-, -, -, -, hheld, hfull, hbuffers, hwaiters, hreadBuffers, hreadWaiters, hreservations⟩ := ht
  unfold HoldingsReturned at *
  rw [hbuffers, hwaiters, hreadBuffers, hreadWaiters, hreservations, hheld, hfull] at h
  obtain ⟨h1, h2, h3, h4, h5, h6, h7⟩ := h
  exact ⟨h1, h2, h3, h4, h5, h6, fun hne => ⟨hp hne, (h7 hne).2⟩⟩

theorem SameChannelsBut.of_requestApart {c : ChanId} {s t u : State} (h : SameChannelsBut (fun d => d = c) t u)
    (ht : RequestApart c s t) : SameChannelsBut (fun d => d = c) s u := by
  obtain ⟨-, hfetch, -, hothers, -⟩ := ht
  exact fun d hd => by rw [h d hd, hothers d hd, fetchBegun_congr d hfetch]

/-- A channel without its execution is the same in both states, so it is the same after any end of the execution. -/
theorem Completed.of_requestApart {c : ChanId} {x : Completion} {s t u : State} (h : Completed c x t u)
    (ht : RequestApart c s t)
    (hp : (∀ x ∈ s.budget.held, x.chan ≠ c) → u.budget.pressure = s.budget.pressure) : Completed c x s u := by
  obtain ⟨htaken, hchan, hreturned, hothers⟩ := h
  have hsame := ht
  obtain ⟨hposts, hfetch, hc, -⟩ := hsame
  refine ⟨?_, ?_, hreturned.of_requestApart ht hp, hothers.of_requestApart ht⟩
  · have hnext : (t.chan c).cplNext = (s.chan c).cplNext := (congrArg Channel.cplNext hc :)
    rw [htaken, hnext, taken_of_posts hposts]
  · rw [hchan, fetchBegun_congr c hfetch]
    exact congrArg (fun ch : Channel => { ch with
      cplNext := (ch.cplNext + 1) % ch.cplSlots, inFlight := ch.inFlight - 1 + fetchBegun c s u }) hc

theorem Deferred.of_requestApart {c : ChanId} {s t u : State} (h : Deferred c t u) (ht : RequestApart c s t)
    (hp : (∀ x ∈ s.budget.held, x.chan ≠ c) → u.budget.pressure = s.budget.pressure) : Deferred c s u := by
  obtain ⟨htaken, hchan, hreturned, hothers⟩ := h
  have hsame := ht
  obtain ⟨hposts, hfetch, hc, -⟩ := hsame
  refine ⟨by rw [htaken, taken_of_posts hposts], ?_, hreturned.of_requestApart ht hp, hothers.of_requestApart ht⟩
  rw [hchan, fetchBegun_congr c hfetch]
  exact congrArg (fun ch : Channel => { ch with inFlight := ch.inFlight + fetchBegun c s u }) hc

/-- A request that stands elsewhere, with its own buffers and places in the waits. -/
theorem withRequest_apart {c : ChanId} {r : Executing} {buffers : List StagingBuffer} {waiters : List ChanId} {s : State}
    (hb : buffers.filter (fun b => b.chan != c) = s.staging.buffers.filter (fun b => b.chan != c))
    (hw : waiters.filter (fun x => x != c) = s.store.reservationWaiters.filter (fun x => x != c)) :
    RequestApart c s (withRequest c r buffers waiters s) := by
  have hchan : ∀ d, (withRequest c r buffers waiters s).chan d = (setExec c r s).chan d := fun _ => rfl
  refine ⟨by simp [withRequest], by simp [withRequest], by rw [hchan, setExec_chan_same],
    fun d hd => by rw [hchan, setExec_chan_other r s hd], by simp [withRequest], by simp [withRequest], hb,
    by simp [withRequest], by simp [withRequest], by simp [withRequest], hw⟩

theorem attemptBuffers_filter (c : ChanId) (r : Executing) (payload : List Byte) (s : State) :
    (attemptBuffers c r payload s).filter (fun b => b.chan != c) = s.staging.buffers.filter (fun b => b.chan != c) := by
  unfold attemptBuffers
  induction s.staging.buffers with
  | nil => rfl
  | cons b l ih => by_cases hb : b.chan = c <;> by_cases hk : r.req.kind = .append <;> simp_all

theorem attemptWaiters_filter {c : ChanId} {r : Executing} {payload : List Byte} {i : Instr} {s : State}
    (h : Attempts c r payload i s) :
    (attemptWaiters i s).filter (fun x => x != c) = s.store.reservationWaiters.filter (fun x => x != c) := by
  unfold attemptWaiters
  split
  · next hi =>
    subst hi
    obtain ⟨-, ⟨_, hi, -⟩ | ⟨-, -, -, ⟨hi, -⟩ | ⟨-, -, hhead⟩⟩⟩ := h
    · cases hi
    · cases hi
    · cases hw : s.store.reservationWaiters with
      | nil => rfl
      | cons d rest =>
        obtain rfl : d = c := by simpa [hw] using hhead
        simp
  · rfl

/-- The attempt is made in a state that differs in the request alone. -/
theorem attemptState_apart {c : ChanId} {r : Executing} {payload : List Byte} {i : Instr} {s : State}
    (h : Attempts c r payload i s) : RequestApart c s (attemptState c r payload i s) :=
  withRequest_apart (attemptBuffers_filter c r payload s) (attemptWaiters_filter h)

/-! ### A completion on a channel that stays open (R156, R160) -/

/-- A channel that takes a completion and stays open by it. -/
def State.staysOpen (s : State) (c : ChanId) : Prop :=
  (s.chan c).state = .active ∨ ((s.chan c).state = .draining ∧ 1 < (s.chan c).inFlight)

/-- The request of a channel that stays open completes. -/
theorem completed_settle_open {c : ChanId} {s : State} (x : Completion) (test : Bool) (h : s.staysOpen c) :
    Completed c x s (settle test (completeExec c x s)) := by
  have hend : (endExecution c s).staysOpen c := by
    unfold State.staysOpen
    rwa [endExecution_chan_same]
  obtain ⟨htake, hlive⟩ := handCompletion_keeps_open x hend
  have he : completeExec c x s = takeSlot c x (endExecution c s) := htake
  have hfetch : (completeExec c x s).cc.fetch = s.cc.fetch := by simp
  refine ⟨?_, ?_, ?_, fun d hd => ?_⟩
  · rw [settle_taken, he, takeSlot_taken x hlive, taken_of_posts (s := s) (by simp), endExecution_chan_same]
  · rw [settle_channels (fun _ => False) test (completeExec c x s) c (by simp), fetchBegun_congr c hfetch, he,
      takeSlot_chan_same x hlive, endExecution_chan_same]
    rfl
  · rw [he]
    exact (endExecution_holdings c s).of_eq (by simp) (by simp) (by simp) (by simp) (by simp) (by simp)
  · rw [settle_channels (fun _ => False) test (completeExec c x s) d (by simp), fetchBegun_congr d hfetch, he,
      takeSlot_chan_other x _ hd, endExecution_chan_other s hd]

/-- The request of a channel ends its execution and waits to be answered (R84). -/
theorem deferred_settle (c : ChanId) (w : Waiter) (test : Bool) (s : State) :
    Deferred c s (settle test (fillWaiter w (endExecution c s))) := by
  have hchan : ∀ d, (fillWaiter w (endExecution c s)).chan d = (endExecution c s).chan d := fun d => by simp [State.chan]
  have hfetch : (fillWaiter w (endExecution c s)).cc.fetch = s.cc.fetch := by simp
  refine ⟨?_, ?_, ?_, fun d hd => ?_⟩
  · rw [settle_taken, taken_of_posts (s := s) (by simp)]
  · rw [settle_channels (fun _ => False) test (fillWaiter w (endExecution c s)) c (by simp),
      fetchBegun_congr c hfetch, hchan, endExecution_chan_same]
  · exact (endExecution_holdings c s).of_eq (by simp) (by simp) (by simp) (by simp) (by simp) (by simp)
  · rw [settle_channels (fun _ => False) test (fillWaiter w (endExecution c s)) d (by simp),
      fetchBegun_congr d hfetch, hchan, endExecution_chan_other s hd]

end Sys2Proof.Machine


namespace Sys2Proof.Machine

/-! ### The tests of R31 do not see how the request stands -/

theorem withRequest_chan_same (c : ChanId) (r : Executing) (buffers : List StagingBuffer) (waiters : List ChanId)
    (s : State) : (withRequest c r buffers waiters s).chan c = { s.chan c with exec := some r } :=
  setExec_chan_same c r s

theorem withRequest_chan_other {c d : ChanId} (r : Executing) (buffers : List StagingBuffer) (waiters : List ChanId)
    (s : State) (h : d ≠ c) : (withRequest c r buffers waiters s).chan d = s.chan d :=
  setExec_chan_other r s h

/-- A list's count is the same when an element gives way to one that counts as it did. -/
theorem countP_set_same {α : Type} {p : α → Bool} {l : List α} {i : Nat} {x : α} (hi : i < l.length)
    (h : p x = p l[i]) : (l.set i x).countP p = l.countP p := by
  have hmap : (l.set i x).map p = l.map p := by
    have hget : p l[i] = (l.map p)[i]'(by simpa using hi) := by simp
    rw [List.map_set, h, hget, List.set_getElem_self]
  have hcount : ∀ m : List α, m.countP p = (m.map p).countP id := fun m => by simp [List.countP_map]
  rw [hcount, hmap, ← hcount]

/-- The transaction reservations are as many while the channel's request has the same part in them. -/
theorem txnReservations_withRequest {c : ChanId} {r q : Executing} {buffers : List StagingBuffer}
    {waiters : List ChanId} {s : State} (hq : (s.chan c).exec = some q) (h : r.txnReserved = q.txnReserved) :
    (withRequest c r buffers waiters s).txnReservations = s.txnReservations := by
  simp only [State.txnReservations, State.countExec, withRequest, setExec, State.modChan, State.setChan,
    Vector.toList_set]
  refine countP_set_same (by simp) ?_
  have hget : s.cc.chans.toList[c.val]'(by simp) = s.chan c := by simp [State.chan]
  rw [hget, hq]
  exact h

theorem txnCheck_withRequest {c : ChanId} {r q : Executing} (buffers : List StagingBuffer) (waiters : List ChanId)
    {s : State} (hq : (s.chan c).exec = some q) (hreq : r.req = q.req) (h : r.txnReserved = q.txnReserved) :
    txnCheck c r (withRequest c r buffers waiters s) = txnCheck c q s := by
  have hfind : (withRequest c r buffers waiters s).findTxn c q.req.hostId = s.findTxn c q.req.hostId := rfl
  have htable : (withRequest c r buffers waiters s).txns = s.txns := rfl
  simp only [txnCheck, txnReservations_withRequest hq h, hreq, h, hfind, htable]

theorem refusalAt_withRequest {c : ChanId} {r q : Executing} (buffers : List StagingBuffer) (waiters : List ChanId)
    {s : State} (hq : (s.chan c).exec = some q) (hreq : r.req = q.req) (h : r.txnReserved = q.txnReserved) :
    refusalAt c r (withRequest c r buffers waiters s) = refusalAt c q s := by
  have hstate : ((withRequest c r buffers waiters s).chan c).state = (s.chan c).state := by rw [withRequest_chan_same]
  have hmedia : (withRequest c r buffers waiters s).mediaFault = s.mediaFault := rfl
  have hseq : (withRequest c r buffers waiters s).journal = s.journal := rfl
  simp only [refusalAt, txnCheck_withRequest buffers waiters hq hreq h, hstate, hmedia, hseq, hreq]

theorem refusalAt_attemptState {c : ChanId} {r : Executing} {payload : List Byte} {i : Instr} {s : State}
    (h : Attempts c r payload i s) :
    refusalAt c (attemptExec r) (attemptState c r payload i s) = refusalAt c r s :=
  refusalAt_withRequest _ _ h.1 rfl rfl

/-- An attempt that a test refuses completes with the test's status, and an EXPIRED record is removed (R31, R45). -/
theorem commitAttempt_refused {grant : Bool} {c : ChanId} {r : Executing} {s : State} {status : Status}
    (h : refusalAt c r s = some status) :
    commitAttempt grant c r s = completeExec c (r.req.refusal status 0)
      (if status = .txnExpired then removeTxn c r.req.hostId s else s) := by
  simp only [commitAttempt, h]

/-- The transaction records that a refusal leaves (R45). -/
def tableAfterRefusal (c : ChanId) (hostId : Nat) (status : Status) (s : State) : List TxnRecord :=
  if status = .txnExpired then s.txns.table.filter (fun x => !(x.chan == c && x.hostId == hostId)) else s.txns.table

theorem removeTxn_of_refusal (c : ChanId) (hostId : Nat) (status : Status) (s : State) :
    (if status = .txnExpired then removeTxn c hostId s else s) =
      { s with txns.table := tableAfterRefusal c hostId status s } := by
  unfold tableAfterRefusal
  split <;> rfl

theorem staysOpen_withRequest {c : ChanId} (r : Executing) (buffers : List StagingBuffer) (waiters : List ChanId)
    {s : State} (h : s.staysOpen c) : (withRequest c r buffers waiters s).staysOpen c := by
  unfold State.staysOpen
  rwa [withRequest_chan_same]

/-- What a refused attempt starts from: the request apart, only the removal of an EXPIRED record has changed. -/
theorem refusedState_spec {c : ChanId} {r : Executing} {payload : List Byte} {i : Instr} {s t : State}
    {table : List TxnRecord} (h : Attempts c r payload i s)
    (ht : t = { attemptState c r payload i s with txns.table := table }) :
    RequestApart c s t ∧ t.budget = s.budget ∧ (s.staysOpen c → t.staysOpen c) ∧
      SameLog s t ∧ SameUnits { s with txns.table := table } t := by
  subst ht
  refine ⟨attemptState_apart h, rfl, fun hopen =>
    staysOpen_withRequest (attemptExec r) (attemptBuffers c r payload s) (attemptWaiters i s) hopen, ?_, ?_⟩
  · refine ⟨?_, ?_, ?_, ?_, ?_, ?_, SameSegments.of_segs ?_⟩ <;> simp [attemptState, withRequest]
  · unfold SameUnits
    simp [attemptState, withRequest]

/-- A refused attempt of a channel that stays open (R31). -/
theorem attemptRefused_exec {c : ChanId} {r : Executing} {payload : List Byte} {i : Instr} {s : State} {status : Status}
    (h : Attempts c r payload i s) (hopen : s.staysOpen c) (href : Refused c r s status) :
    ∃ u, exec i s = .next u ∧ AttemptRefused c r status s u := by
  have hrefusal : refusalAt c (attemptExec r) (attemptState c r payload i s) = some status := by
    rw [refusalAt_attemptState h]
    exact (refusalAt_iff c r s status).mpr href
  have hexec := exec_attempt h
  rw [commitAttempt_refused hrefusal, removeTxn_of_refusal] at hexec
  generalize ht : ({ attemptState c r payload i s with
    txns.table := tableAfterRefusal c (attemptExec r).req.hostId status (attemptState c r payload i s) } : State) = t
    at hexec
  obtain ⟨happart, hbudget, hstays, hlogs, hunits⟩ := refusedState_spec h ht.symm
  have hcompleted : Completed c (r.req.refusal status 0) t (settle false (completeExec c (r.req.refusal status 0) t)) :=
    completed_settle_open (r.req.refusal status 0) false (hstays hopen)
  obtain ⟨hlog', hunits'⟩ :=
    (completeExec_contents c (r.req.refusal status 0) t).trans (settle_contents false _)
  refine ⟨_, hexec, hcompleted.of_requestApart happart (fun hne => ?_), hlogs.trans hlog', hunits.trans hunits'⟩
  obtain ⟨-, -, ⟨-, -, -, -, -, -, hpressure⟩, -⟩ := hcompleted
  obtain ⟨-, -, -, -, hheld, -⟩ := happart
  have hpressure' := (hpressure (by rwa [hheld])).1
  rwa [hbudget] at hpressure'

end Sys2Proof.Machine


namespace Sys2Proof.Machine

/-! ### The transaction reservation of an attempt (R45) -/

/-- The request after the tests of R31: a key without a record reserves one. -/
def reservedExec (c : ChanId) (r : Executing) (s : State) : Executing :=
  { attemptExec r with txnReserved := r.txnReserved ||
      (r.req.hostId != 0 && !r.req.sealFlag && (s.findTxn c r.req.hostId).isNone) }

/-- An attempt that no test refuses passes the transaction check, with a reservation exactly when the request then holds
one that it did not hold. -/
theorem txnCheck_unrefused {c : ChanId} {r : Executing} {s : State} (h : ∀ status, ¬ Refused c r s status)
    (hkey : r.req.hostId ≠ 0) :
    (txnCheck c r s = .passReserve ↔
      r.txnReserved = false ∧ r.req.sealFlag = false ∧ s.findTxn c r.req.hostId = none) := by
  have hnot : ∀ status, txnCheck c r s ≠ .refuse status := fun status he => by
    have hnone := (refusalAt_none_iff c r s).mpr h
    rw [refusalAt] at hnone
    simp only [hkey, he, if_false] at hnone
    (repeat' split at hnone) <;> cases hnone
  cases hfind : s.findTxn c r.req.hostId with
  | some t =>
    simp only [txnCheck, hfind]
    (repeat' split) <;> simp
  | none =>
    simp only [txnCheck, hfind] at hnot ⊢
    by_cases hseal : r.req.kind = .sealTxn
    · exact absurd (if_pos hseal) (hnot _)
    by_cases hflag : r.req.sealFlag = true
    · simp [hseal, hflag]
    by_cases hres : r.txnReserved = true
    · simp [hseal, hflag, hres]
    by_cases hroom : s.txns.table.length + s.txnReservations < 64
    · simp [hseal, hflag, hres, hroom]
    · exact absurd (by simp [hseal, hflag, hres, hroom]) (hnot .txnLimit)

theorem modChan_withRequest (c : ChanId) (r q : Executing) (buffers : List StagingBuffer) (waiters : List ChanId)
    (s : State) (f : Executing → Executing) (hf : f r = q) :
    (withRequest c r buffers waiters s).modChan c (fun ch => { ch with exec := ch.exec.map f }) =
      withRequest c q buffers waiters s := by
  have h : (setExec c r s).modChan c (fun ch => { ch with exec := ch.exec.map f }) = setExec c q s := by
    simp only [setExec, State.modChan, State.chan_setChan_same, setChan_setChan, Option.map_some, hf]
  unfold withRequest
  rw [← h]
  rfl

/-- The reservation is all that the tests of R31 leave behind when none of them refuses (R45). -/
theorem takeTxnReservation_attemptState {c : ChanId} {r : Executing} {payload : List Byte} {i : Instr} {s : State}
    (hx : (s.chan c).exec = some r) (h : ∀ status, ¬ Refused c r s status) :
    takeTxnReservation c (attemptExec r) (attemptState c r payload i s) =
      withRequest c (reservedExec c r s) (attemptBuffers c r payload s) (attemptWaiters i s) s := by
  have hcheck : txnCheck c (attemptExec r) (attemptState c r payload i s) = txnCheck c r s :=
    txnCheck_withRequest _ _ hx rfl rfl
  have hhost : (attemptExec r).req.hostId = r.req.hostId := rfl
  have hsame : ∀ b : Bool, b = r.txnReserved → ({ attemptExec r with txnReserved := b } : Executing) = attemptExec r :=
    fun b hb => by rw [hb]; rfl
  rw [takeTxnReservation, hcheck, hhost]
  split
  · next hres =>
    obtain ⟨hkey, hpass⟩ := hres
    obtain ⟨-, hflag, hnone⟩ := (txnCheck_unrefused h hkey).mp hpass
    exact modChan_withRequest c _ _ _ _ s _ (by simp [reservedExec, hkey, hflag, hnone])
  · next hres =>
    have hexec : reservedExec c r s = attemptExec r := by
      refine hsame _ ?_
      by_cases hkey : r.req.hostId = 0
      · simp [hkey]
      · have hpass := mt (txnCheck_unrefused h hkey).mpr fun hp => hres ⟨hkey, hp⟩
        rw [Bool.or_eq_left_iff_imp]
        intro htakes
        by_contra hr
        obtain ⟨⟨-, hflag⟩, hnone⟩ : (r.req.hostId ≠ 0 ∧ r.req.sealFlag = false) ∧ s.findTxn c r.req.hostId = none := by
          simpa using htakes
        exact hpass ⟨by simpa using hr, hflag, hnone⟩
    rw [hexec]
    rfl

/-! ### The admission test (R62, R63) -/

theorem admission_of_refused {fp : Nat} {reason : HoldReason} {s : State} (h : AdmissionRefused fp reason s) :
    s.admission false fp = some reason := by
  have hown : ∀ x, s.ownRefusal fp = some x → s.admission false fp = some x := fun x hx => by
    simp only [State.admission]
    split <;> simp_all
  rcases h with ⟨hnew, hfree, rfl⟩ | ⟨hroom, hb, rfl⟩ | ⟨hroom, hb, oldest, rest, hheld, rfl⟩
  · exact hown _ (by simp [State.ownRefusal, hnew, hfree])
  · refine hown _ ?_
    rw [State.ownRefusal, if_neg (by rcases hroom with h | h <;> simp [h]), if_pos hb]
  · have hnone : s.ownRefusal fp = none := by
      rw [State.ownRefusal, if_neg (by rcases hroom with h | h <;> simp [h]), if_neg (by omega)]
    simp [State.admission, hheld, hnone]

/-- With no request held, a FREE segment when it opens one, and room in the budget, an attempt passes. -/
theorem admission_of_room {fp : Nat} {s : State} (hheld : s.budget.held = [])
    (hfree : s.needsNew fp = true → s.freeExists = true) (hb : s.dirtyCount + 1 ≤ s.budget.b) :
    s.admission false fp = none := by
  have hspace : ¬ (s.needsNew fp && !s.freeExists) = true := by
    cases hn : s.needsNew fp <;> simp_all
  simp only [State.admission, hheld]
  rw [State.ownRefusal, if_neg hspace, if_neg (by omega)]

end Sys2Proof.Machine


namespace Sys2Proof.Machine

/-! ### Pressure and the journal-full flag (R68, R101) -/

/-- After its recomputation the pressure signal stands at its level. -/
theorem recomputePressure_pressure {s : State} (h : s.budgetLive = true) :
    (recomputePressure s).budget.pressure = s.pressureLevel := by
  simp only [recomputePressure, h, if_true]
  (repeat' split) <;> simp_all

theorem clearFull_full (s : State) :
    (clearFull s).journal.full = (s.journal.full && s.budget.held.any (fun x => x.reason == .space)) := by
  simp only [clearFull]
  split <;> simp_all

theorem heldChanged_full (s : State) :
    (heldChanged s).journal.full = (s.journal.full && s.budget.held.any (fun x => x.reason == .space)) := by
  rw [← clearFull_full]
  simp [heldChanged]

/-- A change of the held set leaves pressure at the level that the new set and D give (R68). -/
theorem heldChanged_pressure {s : State} (h : s.budgetLive = true) :
    (heldChanged s).budget.pressure = (decide (s.budget.b ≤ s.dirtyCount + s.budget.headroom) ||
      s.budget.held.any (fun x => x.reason == .budget)) := by
  have hlive : (clearFull s).budgetLive = true := by simpa [State.budgetLive] using h
  rw [heldChanged, recomputePressure_pressure hlive]
  simp [State.pressureLevel, State.dirtyCount, State.countSegs]

/-- The alert of a journal that becomes full (R101, R172). -/
theorem noteSpace_full (fp : Nat) (s : State) : (noteSpace fp s).journal.full = true := by
  simp only [noteSpace]
  split
  · assumption
  · simp

theorem noteSpace_clear {fp : Nat} {s : State} (hfull : s.journal.full = false) (hw : s.cc.alertWaiters = []) :
    (noteSpace fp s).cc.alerts = foldAlert .journalFull s.journal.head
      (s.journal.chain.length + s.countSegs (fun g => g.state == .retired) * 2 ^ 16 + fp * 2 ^ 32)
      s.clock.reading s.cc.alerts := by
  simp [noteSpace, hfull, postAlert, hw]

theorem noteSpace_set {fp : Nat} {s : State} (hfull : s.journal.full = true) : noteSpace fp s = s := by
  simp [noteSpace, hfull]

/-- An alert may complete an alert request, whose channel goes on executing what it executes (R172). -/
theorem noteSpace_exec (fp : Nat) (s : State) (d : ChanId) : ((noteSpace fp s).chan d).exec = (s.chan d).exec := by
  have htake : ∀ (x : Completion) (t : State), ((takeSlot 0 x t).chan d).exec = (t.chan d).exec := fun x t => by
    by_cases hd : d = 0
    · subst hd
      cases hlive : (t.chan 0).live with
      | true => rw [takeSlot_chan_same x hlive]
      | false => rw [takeSlot_not_live x hlive]
    · rw [takeSlot_chan_other x t hd]
  simp only [noteSpace, postAlert]
  split
  · rfl
  · split
    · exact htake _ _
    · rfl

/-! ### A request is held (R35, R64) -/

/-- The held set's new record. -/
def heldRecord (c : ChanId) (r : Request) (reason : HoldReason) : HeldRecord :=
  { chan := c, tag := r.tag, reason := reason, footprint := footprint r.length,
    key := if r.hostId = 0 then none else some r.hostId }

/-- The state in which the held set has changed, before what follows the change. -/
def withHeld (c : ChanId) (r : Executing) (reason : HoldReason) (buffers : List StagingBuffer) (waiters : List ChanId)
    (s : State) : State :=
  { withRequest c { r with stage := .held } buffers waiters s with
    budget.held := s.budget.held ++ [heldRecord c r.req reason] }

/-- What follows the taking of a reason (R68, R101). -/
def afterReason (fp : Nat) (s : State) : HoldReason → State
  | .space => heldChanged (noteSpace fp s)
  | .budget => heldChanged s

theorem holdRequest_eq (c : ChanId) (r q : Executing) (reason : HoldReason) (buffers : List StagingBuffer)
    (waiters : List ChanId) (s : State) (hreq : q.req = r.req) :
    holdRequest false c q reason (withRequest c r buffers waiters s) =
      afterReason (footprint r.req.length) (withHeld c r reason buffers waiters s) reason := by
  have hstage : setStage c .held { withRequest c r buffers waiters s with
      budget.held := s.budget.held ++ [heldRecord c r.req reason] } = withHeld c r reason buffers waiters s := by
    have h := setStage_setExec c .held r s
    unfold withHeld withRequest
    rw [← h]
    rfl
  rw [← hstage]
  cases reason <;> simp only [holdRequest, afterReason, hreq] <;> rfl

theorem afterReason_exec (fp : Nat) (s : State) (reason : HoldReason) (d : ChanId) :
    ((afterReason fp s reason).chan d).exec = (s.chan d).exec := by
  have hchanged : ∀ t : State, (heldChanged t).chan d = t.chan d := fun t => by simp [State.chan]
  cases reason with
  | space => simp only [afterReason, hchanged, noteSpace_exec]
  | budget => simp only [afterReason, hchanged]

/-- What a reason brings about leaves everything but the alerts, pressure, the full flag and what they reach. -/
theorem afterReason_leaves (fp : Nat) (s : State) (reason : HoldReason) :
    SameLog s (afterReason fp s reason) ∧ (afterReason fp s reason).staging = s.staging ∧
      (afterReason fp s reason).budget.held = s.budget.held ∧
      (afterReason fp s reason).store.reservationWaiters = s.store.reservationWaiters ∧
      (afterReason fp s reason).txns = s.txns ∧
      (afterReason fp s reason).store.storedThrough = s.store.storedThrough ∧
      (afterReason fp s reason).store.waiting = s.store.waiting ∧ (afterReason fp s reason).clock = s.clock := by
  refine ⟨⟨?_, ?_, ?_, ?_, ?_, ?_, SameSegments.of_segs ?_⟩, ?_⟩ <;> cases reason <;> simp [afterReason]

theorem afterReason_pressure {s : State} (fp : Nat) (reason : HoldReason) (h : s.budgetLive = true) :
    (afterReason fp s reason).budget.pressure = (decide (s.budget.b ≤ s.dirtyCount + s.budget.headroom) ||
      s.budget.held.any (fun x => x.reason == .budget)) := by
  cases reason with
  | space =>
    have hlive : (noteSpace fp s).budgetLive = true := by simpa [State.budgetLive] using h
    rw [afterReason, heldChanged_pressure hlive]
    simp [State.dirtyCount, State.countSegs]
  | budget => rw [afterReason, heldChanged_pressure h]

end Sys2Proof.Machine


namespace Sys2Proof.Machine

/-- The alert and the full flag follow the reason that a held record takes (R101). -/
theorem afterReason_fullNoted {fp : Nat} {reason : HoldReason} {s : State}
    (h : s.budget.held.any (fun x => x.reason == reason) = true) : FullNoted fp reason s (afterReason fp s reason) := by
  cases reason with
  | space =>
    have hfull : (afterReason fp s .space).journal.full = true := by
      rw [afterReason, heldChanged_full, noteSpace_full]
      simpa using h
    have halerts : (afterReason fp s .space).cc.alerts = (noteSpace fp s).cc.alerts := by simp [afterReason]
    have htaken : (afterReason fp s .space).taken = (noteSpace fp s).taken := taken_of_posts (by simp [afterReason])
    exact ⟨fun _ => ⟨hfull, fun hclear hw => by rw [halerts, noteSpace_clear hclear hw],
      fun hset => by rw [halerts, htaken, noteSpace_set hset]; exact ⟨rfl, rfl⟩⟩, nofun⟩
  | budget =>
    refine ⟨nofun, fun _ => ⟨?_, by simp [afterReason], taken_of_posts (by simp [afterReason])⟩⟩
    obtain ⟨-, -, hheld, -⟩ := afterReason_leaves fp s .budget
    rw [hheld]
    exact heldChanged_full s

theorem FullNoted.of_eq {fp : Nat} {reason : HoldReason} {s t u v : State} (h : FullNoted fp reason t u)
    (hj : t.journal = s.journal) (hcc : t.cc.alerts = s.cc.alerts ∧ t.cc.alertWaiters = s.cc.alertWaiters ∧
      t.cc.posts = s.cc.posts) (hclock : t.clock = s.clock)
    (hu : v.journal.full = u.journal.full ∧ v.cc.alerts = u.cc.alerts ∧ v.cc.posts = u.cc.posts ∧
      v.budget.held = u.budget.held) : FullNoted fp reason s v := by
  obtain ⟨halerts, hwaiters, hposts⟩ := hcc
  obtain ⟨hfull, hualerts, huposts, hheld⟩ := hu
  have hcount : t.countSegs (fun g => g.state == .retired) = s.countSegs (fun g => g.state == .retired) := by
    rw [State.countSegs, hj, ← State.countSegs]
  unfold FullNoted at *
  rw [hj, halerts, hwaiters, hclock, hcount, taken_of_posts hposts] at h
  rw [hfull, hualerts, hheld, taken_of_posts huposts]
  exact h

/-- A record that takes reason BUDGET reaches no other unit (R68, R101). -/
theorem afterReason_units (fp : Nat) (s : State) : SameUnits s (afterReason fp s .budget) := by
  unfold SameUnits
  simp [afterReason]

/-- The held set has a record more, and the request stands as the held one (R64). -/
theorem withHeld_spec {c : ChanId} {r : Executing} {reason : HoldReason} {buffers : List StagingBuffer}
    {waiters : List ChanId} {s t : State} (ht : t = withHeld c r reason buffers waiters s) :
    (t.chan c).exec = some { r with stage := .held } ∧
      t.staging = { s.staging with buffers := buffers } ∧
      t.budget = { s.budget with held := s.budget.held ++ [heldRecord c r.req reason] } ∧
      t.store = { s.store with reservationWaiters := waiters } ∧ t.journal = s.journal ∧ t.txns = s.txns ∧
      t.clock = s.clock ∧ t.device = s.device ∧
      (t.cc.alerts = s.cc.alerts ∧ t.cc.alertWaiters = s.cc.alertWaiters ∧ t.cc.posts = s.cc.posts) ∧
      SameUnits s t := by
  have hchan : (withHeld c r reason buffers waiters s).chan c = { s.chan c with exec := some { r with stage := .held } } :=
    withRequest_chan_same c { r with stage := .held } buffers waiters s
  subst ht
  refine ⟨by rw [hchan], by simp [withHeld, withRequest], by simp [withHeld, withRequest],
    by simp [withHeld, withRequest], by simp [withHeld, withRequest], by simp [withHeld, withRequest],
    by simp [withHeld, withRequest], by simp [withHeld, withRequest], by simp [withHeld, withRequest], ?_⟩
  unfold SameUnits
  simp [withHeld, withRequest]

/-- What a held request leaves, through the end of the event (R35, R64). -/
theorem attemptHeld_settle {c : ChanId} {r : Executing} {payload : List Byte} {i : Instr} {reason : HoldReason} {s t : State}
    (ht : t = withHeld c (reservedExec c r s) reason (attemptBuffers c r payload s) (attemptWaiters i s) s) :
    AttemptHeld c r payload i reason s (settle false (afterReason (footprint r.req.length) t reason)) := by
  obtain ⟨hexec, hstaging, hbudget, hstore, hjournal, htxns, hclock, hdevice, hcc, hunits⟩ := withHeld_spec ht
  have hnoted : FullNoted (footprint r.req.length) reason t (afterReason (footprint r.req.length) t reason) :=
    afterReason_fullNoted (by simp [hbudget, heldRecord])
  obtain ⟨hlog, hstaging', hheld', hwaiters', htxns', hstored', hwaiting', hclock'⟩ :=
    afterReason_leaves (footprint r.req.length) t reason
  have hexec' := (afterReason_exec (footprint r.req.length) t reason c).trans hexec
  have hunits' : reason = .budget → SameUnits t (afterReason (footprint r.req.length) t reason) := fun h => by
    subst h
    exact afterReason_units _ t
  have hpressure : s.budgetLive = true → _ := fun h => afterReason_pressure (s := t) (footprint r.req.length) reason
    (by simpa [State.budgetLive, hdevice] using h)
  generalize afterReason (footprint r.req.length) t reason = v at *
  have hdirty : t.dirtyCount = s.dirtyCount := by rw [State.dirtyCount, State.countSegs, hjournal]; rfl
  obtain ⟨hslog, hsunits⟩ := settle_contents false v
  have hchan : (settle false v).chan c = v.chan c := settle_chan_busy false (by rw [hexec']; simp)
  have hlogs : SameLog s t := by
    refine ⟨?_, ?_, ?_, ?_, ?_, ?_, SameSegments.of_segs ?_⟩ <;> rw [hjournal]
  refine ⟨by rw [hchan]; exact hexec', ?_, ?_, ?_, (hlogs.trans hlog).trans hslog, ?_, ?_, ?_, ?_, ?_, ?_, ?_⟩
  · rw [show (settle false v).staging = v.staging by simp, hstaging', hstaging]
    rfl
  · rw [show (settle false v).budget = v.budget by simp, hheld', hbudget]
    rfl
  · rw [show (settle false v).store.reservationWaiters = v.store.reservationWaiters by simp, hwaiters', hstore]
    rfl
  · rw [show (settle false v).txns = v.txns by simp, htxns', htxns]
  · rw [show (settle false v).store.storedThrough = v.store.storedThrough by simp, hstored', hstore]
  · rw [show (settle false v).store.waiting = v.store.waiting by simp, hwaiting', hstore]
  · rw [show (settle false v).clock = v.clock by simp, hclock', hclock]
  · exact hnoted.of_eq hjournal hcc hclock (by simp)
  · exact fun hb => (hunits.trans (hunits' hb)).trans hsunits
  · intro hlive
    rw [show (settle false v).budget = v.budget by simp, hpressure hlive, hdirty, hheld', hbudget]

/-- An attempt that the admission test refuses is held (R35, R62, R63). -/
theorem attemptHeld_exec {c : ChanId} {r : Executing} {payload : List Byte} {i : Instr} {s : State} {reason : HoldReason}
    (h : Attempts c r payload i s) (hnot : ∀ status, ¬ Refused c r s status)
    (hclean : s.needsClean (footprint r.req.length) = true)
    (hreason : AdmissionRefused (footprint r.req.length) reason s) :
    ∃ u, exec i s = .next u ∧ AttemptHeld c r payload i reason s u := by
  have hrefusal : refusalAt c (attemptExec r) (attemptState c r payload i s) = none := by
    rw [refusalAt_attemptState h]
    exact (refusalAt_none_iff c r s).mpr hnot
  have hattempt : commitAttempt false c (attemptExec r) (attemptState c r payload i s) =
      afterReason (footprint r.req.length)
        (withHeld c (reservedExec c r s) reason (attemptBuffers c r payload s) (attemptWaiters i s) s) reason := by
    have hadmission := admission_of_refused hreason
    have hreq : (attemptExec r).req = r.req := rfl
    have hclean' : (withRequest c (reservedExec c r s) (attemptBuffers c r payload s) (attemptWaiters i s) s).needsClean
        (footprint r.req.length) = true := hclean
    have hadmission' : (withRequest c (reservedExec c r s) (attemptBuffers c r payload s) (attemptWaiters i s)
        s).admission false (footprint r.req.length) = some reason := hadmission
    simp only [commitAttempt, hrefusal, takeTxnReservation_attemptState h.1 hnot, hreq]
    rw [if_pos hclean', hadmission']
    exact holdRequest_eq c (reservedExec c r s) (attemptExec r) reason _ _ s rfl
  rw [exec_attempt h, hattempt]
  exact ⟨_, rfl, attemptHeld_settle rfl⟩

end Sys2Proof.Machine


namespace Sys2Proof.Machine

/-! ### What a completion does to a channel's record (R156, R160) -/

theorem closed_not_live : Channel.closed.live = false := rfl

/-- A completion leaves a channel's state and its age limit. -/
theorem takeSlot_keeps (d c : ChanId) (x : Completion) (s : State) :
    ((takeSlot d x s).chan c).live = (s.chan c).live ∧ ((takeSlot d x s).chan c).ageLimit = (s.chan c).ageLimit := by
  by_cases h : c = d
  · subst h
    cases hlive : (s.chan c).live with
    | true => rw [takeSlot_chan_same x hlive]; exact ⟨hlive, rfl⟩
    | false => rw [takeSlot_not_live x hlive]; exact ⟨hlive, rfl⟩
  · rw [takeSlot_chan_other x s h]
    exact ⟨rfl, rfl⟩

/-- The state of a drain's end before the waiting close completes. -/
def drained (d : ChanId) (s : State) : State :=
  (detachPosts d (if 0 < (s.chan d).pendingInt then
      sendInterrupt d (beginStatusWrite d .ignored (s.chan d).statusAddr
        (statusBytes (s.chan d).reqConsumer (s.chan d).published .closed (s.chan d).faultReason) s)
    else beginStatusWrite d .ignored (s.chan d).statusAddr
        (statusBytes (s.chan d).reqConsumer (s.chan d).published .closed (s.chan d).faultReason) s)).setChan d
    Channel.closed

theorem closeDrained_eq (d : ChanId) (s : State) : closeDrained d s = match (s.chan d).pendingClose with
    | some pc => takeSlot 0 { tag := pc.tag, kindCode := BitVec.ofNat 8 Kind.closeChannel.code, status := .ok,
                              deferred := false, alertCode := 0, alertCount := 0, seq := 0, stamp := Stamp.zero,
                              detail := closeDetail d .draining none pc.cancelled } (drained d s)
    | none => drained d s := rfl

theorem drained_chan_same (d : ChanId) (s : State) : (drained d s).chan d = Channel.closed :=
  State.chan_setChan_same _ _ _

theorem drained_chan_other {c d : ChanId} (s : State) (h : c ≠ d) : (drained d s).chan c = s.chan c := by
  rw [drained, State.chan_setChan_other _ _ h]
  split
  · have hsend : ∀ t : State, (sendInterrupt d t).chan c = t.chan c := fun t => by
      simp only [sendInterrupt]
      exact State.chan_setChan_other _ _ h
    have hdetach : ∀ t : State, (detachPosts d t).chan c = t.chan c := fun t => by simp [State.chan]
    rw [hdetach, hsend]
    simp [State.chan]
  · simp [State.chan]

/-- A channel whose drain has ended is live no more. -/
theorem closeDrained_not_live (d : ChanId) (s : State) : ((closeDrained d s).chan d).live = false := by
  rw [closeDrained_eq]
  split
  · rw [(takeSlot_keeps _ _ _ _).1, drained_chan_same, closed_not_live]
  · rw [drained_chan_same, closed_not_live]

theorem closeDrained_keeps {c d : ChanId} (s : State) (h : c ≠ d) :
    ((closeDrained d s).chan c).live = (s.chan c).live ∧
      ((closeDrained d s).chan c).ageLimit = (s.chan c).ageLimit := by
  rw [closeDrained_eq]
  split
  · rw [(takeSlot_keeps _ _ _ _).1, (takeSlot_keeps _ _ _ _).2, drained_chan_other s h]
    exact ⟨rfl, rfl⟩
  · rw [drained_chan_other s h]
    exact ⟨rfl, rfl⟩

/-- A channel that is live after a completion was so before, and has kept its age limit. -/
theorem handCompletion_live {c d : ChanId} {x : Completion} {s : State}
    (h : ((handCompletion d x s).chan c).live = true) :
    (s.chan c).live = true ∧ ((handCompletion d x s).chan c).ageLimit = (s.chan c).ageLimit := by
  obtain ⟨hlive, hage⟩ := takeSlot_keeps d c x s
  rw [handCompletion, drainCheck] at h ⊢
  split at h
  · next hdrain =>
    by_cases hd : c = d
    · subst hd
      rw [closeDrained_not_live] at h
      cases h
    · obtain ⟨hlive', hage'⟩ := closeDrained_keeps (takeSlot d x s) hd
      rw [if_pos hdrain, hage', hage]
      exact ⟨by rw [← hlive, ← hlive', h], rfl⟩
  · next hdrain =>
    rw [if_neg hdrain, hage]
    exact ⟨by rw [← hlive, h], rfl⟩

/-! ### The close of the OPEN segment does not see how the request stands -/

theorem setChan_comm {c d : ChanId} (s : State) (x y : Channel) (h : d ≠ c) :
    (s.setChan c x).setChan d y = (s.setChan d y).setChan c x := by
  simp only [State.setChan]
  rw [Vector.set_comm]
  exact fun e => h (Fin.ext e.symm)

section
variable (c : ChanId) (r : Executing) (buffers : List StagingBuffer) (waiters : List ChanId)

theorem withRequest_setChan_same (s : State) (x : Channel) :
    (withRequest c r buffers waiters s).setChan c { x with exec := some r } =
      withRequest c r buffers waiters (s.setChan c x) := by
  have h : (setExec c r s).setChan c { x with exec := some r } = setExec c r (s.setChan c x) := by
    simp only [setExec, State.modChan, setChan_setChan, State.chan_setChan_same]
  unfold withRequest
  rw [← h]
  rfl

theorem withRequest_setChan_other {d : ChanId} (s : State) (x : Channel) (h : d ≠ c) :
    (withRequest c r buffers waiters s).setChan d x = withRequest c r buffers waiters (s.setChan d x) := by
  have hx : (setExec c r s).setChan d x = setExec c r (s.setChan d x) := by
    simp only [setExec, State.modChan]
    rw [setChan_comm s _ _ h, State.chan_setChan_other _ _ h.symm]
  unfold withRequest
  rw [← hx]
  rfl

theorem withRequest_beginRecordWrite (d : ChanId) (s : State) :
    beginRecordWrite d (withRequest c r buffers waiters s) = withRequest c r buffers waiters (beginRecordWrite d s) := by
  have hfirst : (withRequest c r buffers waiters s).firstPost d = s.firstPost d := rfl
  simp only [beginRecordWrite, hfirst]
  split
  · split <;> rfl
  · rfl

/-- The channel's next completion slot. -/
def nextPost (d : ChanId) (x : Completion) (ch : Channel) : Post :=
  { chan := d, slot := ch.cplNext, addr := ch.cplAddr + BitVec.ofNat 64 (32 * ch.cplNext), completion := x,
    phase := .queued, detached := none }

/-- The channel's record once a completion has taken its next slot. -/
def slotTaken (ch : Channel) : Channel :=
  { ch with cplNext := (ch.cplNext + 1) % ch.cplSlots, inFlight := ch.inFlight - 1 }

theorem takeSlot_live {d : ChanId} {s t : State} (x : Completion) (h : (s.chan d).live = true)
    (ht : t = s.setChan d (slotTaken (s.chan d))) :
    takeSlot d x s = beginRecordWrite d { t with cc.posts := t.cc.posts ++ [nextPost d x (s.chan d)] } := by
  subst ht
  simp only [takeSlot, h, if_true]
  rfl

/-- A completion's slot does not depend on what the channel's request does. -/
theorem withRequest_takeSlot (d : ChanId) (x : Completion) (s : State) :
    takeSlot d x (withRequest c r buffers waiters s) = withRequest c r buffers waiters (takeSlot d x s) := by
  have hlive' : ((withRequest c r buffers waiters s).chan d).live = (s.chan d).live := by
    by_cases h : d = c
    · rw [h, withRequest_chan_same]
      rfl
    · rw [withRequest_chan_other r buffers waiters s h]
  have hpost : nextPost d x ((withRequest c r buffers waiters s).chan d) = nextPost d x (s.chan d) := by
    by_cases h : d = c
    · rw [h, withRequest_chan_same]
      rfl
    · rw [withRequest_chan_other r buffers waiters s h]
  cases hlive : (s.chan d).live with
  | false => rw [takeSlot_not_live x hlive, takeSlot_not_live x (hlive'.trans hlive)]
  | true =>
    have hset : withRequest c r buffers waiters (s.setChan d (slotTaken (s.chan d))) =
        (withRequest c r buffers waiters s).setChan d (slotTaken ((withRequest c r buffers waiters s).chan d)) := by
      by_cases h : d = c
      · subst h
        rw [← withRequest_setChan_same, withRequest_chan_same]
        rfl
      · rw [← withRequest_setChan_other _ _ _ _ _ _ h, withRequest_chan_other r buffers waiters s h]
    rw [takeSlot_live x hlive rfl, ← withRequest_beginRecordWrite, takeSlot_live x (hlive'.trans hlive) hset, hpost]
    rfl

theorem withRequest_drained {d : ChanId} (s : State) (h : d ≠ c) :
    drained d (withRequest c r buffers waiters s) = withRequest c r buffers waiters (drained d s) := by
  have hbegin : ∀ (t : State) a b, beginStatusWrite d .ignored a b (withRequest c r buffers waiters t) =
      withRequest c r buffers waiters (beginStatusWrite d .ignored a b t) := fun _ _ _ => rfl
  have hsend : ∀ t : State, sendInterrupt d (withRequest c r buffers waiters t) =
      withRequest c r buffers waiters (sendInterrupt d t) := fun t => by
    simp only [sendInterrupt, State.modChan, withRequest_chan_other r buffers waiters t h,
      withRequest_setChan_other c r buffers waiters t _ h]
    rfl
  have hdetach : ∀ t : State, detachPosts d (withRequest c r buffers waiters t) =
      withRequest c r buffers waiters (detachPosts d t) := fun t => by
    simp only [detachPosts, withRequest_chan_other r buffers waiters t h]
    rfl
  simp only [drained, withRequest_chan_other r buffers waiters s h, hbegin, hsend, ← apply_ite, hdetach,
    withRequest_setChan_other c r buffers waiters _ _ h]

/-- While the channel stays live, a completion does not see how its request stands. -/
theorem withRequest_handCompletion (d : ChanId) (x : Completion) (s : State)
    (h : ((handCompletion d x s).chan c).live = true) :
    handCompletion d x (withRequest c r buffers waiters s) = withRequest c r buffers waiters (handCompletion d x s) := by
  rw [handCompletion, handCompletion, withRequest_takeSlot]
  rw [handCompletion] at h
  generalize takeSlot d x s = t at h ⊢
  have hchan : ((withRequest c r buffers waiters t).chan d).state = (t.chan d).state ∧
      ((withRequest c r buffers waiters t).chan d).inFlight = (t.chan d).inFlight := by
    by_cases hd : d = c
    · rw [hd, withRequest_chan_same]
      exact ⟨rfl, rfl⟩
    · rw [withRequest_chan_other r buffers waiters t hd]
      exact ⟨rfl, rfl⟩
  rw [drainCheck] at h
  rw [drainCheck, drainCheck, hchan.1, hchan.2]
  split at h
  · next hdrain =>
    rw [if_pos hdrain, if_pos hdrain]
    by_cases hd : d = c
    · subst hd
      rw [closeDrained_not_live] at h
      cases h
    · rw [closeDrained_eq, closeDrained_eq, withRequest_chan_other r buffers waiters t hd, withRequest_drained _ _ _ _ _ hd]
      split
      · rw [withRequest_takeSlot]
      · rfl
  · next hdrain => rw [if_neg hdrain, if_neg hdrain]

/-- The same of a run of completions. -/
theorem withRequest_completeWaiters (status : Status) (l : List Waiter) (s : State)
    (h : ((l.foldl (completeWaiter status) s).chan c).live = true) :
    l.foldl (completeWaiter status) (withRequest c r buffers waiters s) =
        withRequest c r buffers waiters (l.foldl (completeWaiter status) s) ∧
      (s.chan c).live = true ∧ ((l.foldl (completeWaiter status) s).chan c).ageLimit = (s.chan c).ageLimit := by
  induction l generalizing s with
  | nil => exact ⟨rfl, h, rfl⟩
  | cons w l ih =>
    obtain ⟨hrest, hlive, hage⟩ := ih (completeWaiter status s w) h
    obtain ⟨hlive', hage'⟩ := handCompletion_live hlive
    refine ⟨?_, hlive', hage.trans hage'⟩
    rw [List.foldl_cons, List.foldl_cons, ← hrest]
    congr 1
    exact withRequest_handCompletion c r buffers waiters w.chan _ s hlive

/-- The close of a covered OPEN segment recomputes S and answers waiting records (R82, R83, log entry 37). -/
theorem withRequest_recomputeS (s : State) (h : ((recomputeS s).chan c).live = true) :
    recomputeS (withRequest c r buffers waiters s) = withRequest c r buffers waiters (recomputeS s) ∧
      ((recomputeS s).chan c).ageLimit = (s.chan c).ageLimit := by
  have hnow : (withRequest c r buffers waiters s).storedThroughNow = s.storedThroughNow := rfl
  have hold : (withRequest c r buffers waiters s).store.storedThrough = s.store.storedThrough := rfl
  simp only [recomputeS, hnow, hold] at h ⊢
  split
  · next hrise =>
    rw [if_pos hrise] at h
    obtain ⟨hrun, -, hage⟩ := withRequest_completeWaiters c r buffers waiters .ok _ _ h
    exact ⟨hrun, hage⟩
  · exact ⟨rfl, rfl⟩

theorem withRequest_queueSeg (i : SegId) (s : State) :
    queueSeg i (withRequest c r buffers waiters s) = withRequest c r buffers waiters (queueSeg i s) := by
  have hseg : (withRequest c r buffers waiters s).seg i = s.seg i := rfl
  have hqueue : (withRequest c r buffers waiters s).store.queue = s.store.queue := rfl
  simp only [queueSeg, hseg, hqueue]
  split <;> rfl

theorem withRequest_closeOpen (s : State) (h : ((closeOpen s).chan c).live = true) :
    closeOpen (withRequest c r buffers waiters s) = withRequest c r buffers waiters (closeOpen s) ∧
      ((closeOpen s).chan c).ageLimit = (s.chan c).ageLimit := by
  have hopen : (withRequest c r buffers waiters s).openSegment = s.openSegment := rfl
  cases ho : s.openSegment with
  | none => rw [closeOpen_none ho, closeOpen_none (hopen.trans ho)]; exact ⟨rfl, rfl⟩
  | some i =>
    have ho' := hopen.trans ho
    have hseg : (withRequest c r buffers waiters s).seg i = s.seg i := rfl
    cases hc : (s.seg i).coveredBy s.journal.head with
    | false =>
      rw [closeOpen_full ho hc, closeOpen_full ho' hc]
      exact ⟨withRequest_queueSeg c r buffers waiters i
        (State.modSeg { s with store.idleTimer := none } i (fun g => { g with state := .full })), by simp [State.chan]⟩
    | true =>
      cases hs : (s.seg i).inStore with
      | true =>
        rw [closeOpen_freeing ho hc hs, closeOpen_freeing ho' hc hs]
        exact ⟨rfl, rfl⟩
      | false =>
        cases hd : (s.seg i).dirty with
        | true =>
          rw [closeOpen_freeDirty ho hc hs hd] at h ⊢
          rw [closeOpen_freeDirty ho' hc hs hd]
          exact withRequest_recomputeS c r buffers waiters _ h
        | false =>
          rw [closeOpen_freeClean ho hc hs hd, closeOpen_freeClean ho' hc hs hd]
          exact ⟨rfl, rfl⟩

theorem withRequest_openNew (tail : Option SegId) (s : State) :
    openNew tail (withRequest c r buffers waiters s) = withRequest c r buffers waiters (openNew tail s) := by
  have hallocate : (withRequest c r buffers waiters s).allocate tail = s.allocate tail := rfl
  simp only [openNew, hallocate]
  split <;> rfl

/-- While the channel stays live, the segment is prepared as it is without what the request has come to hold. -/
theorem withRequest_prepareSegment (fp : Nat) (s : State) (h : ((prepareSegment fp s).chan c).live = true) :
    prepareSegment fp (withRequest c r buffers waiters s) = withRequest c r buffers waiters (prepareSegment fp s) ∧
      ((prepareSegment fp s).chan c).ageLimit = (s.chan c).ageLimit := by
  have hneeds : (withRequest c r buffers waiters s).needsNew fp = s.needsNew fp := rfl
  have hchain : (withRequest c r buffers waiters s).journal = s.journal := rfl
  simp only [prepareSegment, hneeds, hchain] at h ⊢
  split
  · next hnew =>
    rw [if_pos hnew] at h
    have hchan : ∀ t tail, (openNew tail t).chan c = t.chan c := fun t tail => by simp [State.chan]
    rw [hchan] at h ⊢
    obtain ⟨hclose, hage⟩ := withRequest_closeOpen c r buffers waiters s h
    exact ⟨by rw [hclose, withRequest_openNew], hage⟩
  · exact ⟨rfl, rfl⟩

end

end Sys2Proof.Machine


namespace Sys2Proof.Machine

/-! ### The next transaction serial (R47) -/

theorem serialAfter_bounds (n : Nat) : 1 ≤ serialAfter n ∧ serialAfter n ≤ 2 ^ 32 - 1 := by
  unfold serialAfter
  split <;> omega

/-- The serials after `n`, one by one: they run through 1 to 2^32 - 1 and wrap. -/
theorem serialAfter_iterate (j n : Nat) :
    serialAfter^[j + 1] n = (serialAfter n - 1 + j) % (2 ^ 32 - 1) + 1 := by
  induction j with
  | zero =>
    have := serialAfter_bounds n
    rw [Function.iterate_one, Nat.mod_eq_of_lt (by omega)]
    omega
  | succ j ih =>
    rw [Function.iterate_succ_apply', ih, serialAfter]
    split <;> omega

/-- The search for the next serial stops at the first that no record holds, or when its fuel ends. -/
theorem advanceSerial_search (table : List TxnRecord) (k n : Nat) :
    ∃ j, j ≤ k ∧ advanceSerial table k n = serialAfter^[j + 1] n ∧
      (∀ i, i < j → serialAfter^[i + 1] n ∈ table.map TxnRecord.serial) ∧
      (j < k → serialAfter^[j + 1] n ∉ table.map TxnRecord.serial) := by
  induction k generalizing n with
  | zero => exact ⟨0, Nat.le_refl 0, rfl, nofun, nofun⟩
  | succ k ih =>
    have hstep : advanceSerial table (k + 1) n =
        if table.any (fun t => t.serial == serialAfter n) then advanceSerial table k (serialAfter n)
        else serialAfter n := rfl
    have hany : table.any (fun t => t.serial == serialAfter n) = true ↔
        serialAfter n ∈ table.map TxnRecord.serial := by simp
    rw [hstep]
    by_cases hused : serialAfter n ∈ table.map TxnRecord.serial
    · obtain ⟨j, hj, hm, hbefore, hfree⟩ := ih (serialAfter n)
      rw [if_pos (hany.mpr hused)]
      refine ⟨j + 1, Nat.succ_le_succ hj, hm, fun i hi => ?_, fun hlt => hfree (Nat.lt_of_succ_lt_succ hlt)⟩
      cases i with
      | zero => exact hused
      | succ i => exact hbefore i (Nat.lt_of_succ_lt_succ hi)
    · rw [if_neg (mt hany.mp hused)]
      exact ⟨0, Nat.zero_le _, rfl, nofun, fun _ => hused⟩

/-- Of 65 serials in a row a table of at most 64 records leaves one free. -/
theorem serials_not_all_used {table : List TxnRecord} (n : Nat) (h : table.length ≤ 64) :
    ¬ ∀ i, i < 65 → serialAfter^[i + 1] n ∈ table.map TxnRecord.serial := by
  intro hall
  have hnodup : ((List.range 65).map (fun i => serialAfter^[i + 1] n)).Nodup := by
    refine List.Nodup.map_on (fun i hi j hj e => ?_) List.nodup_range
    rw [serialAfter_iterate, serialAfter_iterate] at e
    simp only [List.mem_range] at hi hj
    omega
  have hsub : (List.range 65).map (fun i => serialAfter^[i + 1] n) ⊆ table.map TxnRecord.serial := by
    intro x hx
    obtain ⟨i, hi, rfl⟩ := List.mem_map.mp hx
    exact hall i (List.mem_range.mp hi)
  have hlen := (hnodup.subperm hsub).length_le
  simp at hlen
  omega

/-- The next serial advances past every serial that a record of the table holds (R47). -/
theorem advanceSerial_advanced (table : List TxnRecord) (n : Nat) : SerialAdvanced table n (advanceSerial table 64 n) := by
  obtain ⟨j, hj, hm, hbefore, hfree⟩ := advanceSerial_search table 64 n
  have hbounds := serialAfter_bounds (serialAfter^[j] n)
  rw [← Function.iterate_succ_apply' serialAfter j n, ← hm] at hbounds
  refine ⟨fun hlen t ht he => ?_, hbounds.1, hbounds.2, fun hunused => ?_⟩
  · have hused : serialAfter^[j + 1] n ∈ table.map TxnRecord.serial := by
      rw [← hm, ← he]
      exact List.mem_map_of_mem ht
    obtain rfl : j = 64 := Nat.le_antisymm hj (Nat.le_of_not_lt fun hlt => hfree hlt hused)
    refine serials_not_all_used n hlen fun i hi => ?_
    rcases Nat.lt_or_ge i 64 with hlt | hge
    · exact hbefore i hlt
    · obtain rfl : i = 64 := by omega
      exact hused
  · cases j with
    | zero => exact hm
    | succ j =>
      obtain ⟨t, ht, he⟩ := List.mem_map.mp (hbefore 0 (Nat.succ_pos j))
      exact absurd he (hunused t ht)

/-! ### What the transaction unit takes (R46 to R48) -/

/-- The serial and the index of an entry are its record's, or the next serial's first (R46). -/
theorem entrySerial_entryId (c : ChanId) (r : Request) (s : State) :
    EntryId c r s (s.entrySerial c r).1 (s.entrySerial c r).2 := by
  unfold EntryId State.entrySerial
  by_cases hkey : r.hostId = 0
  · simp [hkey]
  · cases hfind : s.findTxn c r.hostId <;> simp [hkey]

/-- The transaction unit's part of a commit, when it sees the records of `s` and the channel's age limit. -/
theorem reportTxn_taken {c : ChanId} {r : Request} {s t u : State} (htxns : t.txns = s.txns) (hnow : t.now = s.now)
    (hage : (t.chan c).ageLimit = (s.chan c).ageLimit)
    (hu : u.txns = (reportTxn c r s.journal.nextSeq t).txns) : TxnTaken c r s u := by
  have hfind : t.findTxn c r.hostId = s.findTxn c r.hostId := by rw [State.findTxn, htxns, State.findTxn]
  have hdeadline : t.deadlineFor c = if (s.chan c).ageLimit = 0 then none
      else some (s.now + (s.chan c).ageLimit * 1000) := by rw [State.deadlineFor, hage, hnow]
  refine ⟨fun hkey => ?_, fun hkey => ⟨fun x hx => ?_, fun hnone => ?_⟩⟩
  · rw [hu, reportTxn, if_pos hkey, htxns]
  · rw [hu, reportTxn, if_neg hkey, hfind, hx]
    dsimp only
    split
    · rw [removeTxn, htxns]
    · rw [htxns]
  · rw [hu, reportTxn, if_neg hkey, hfind, hnone]
    dsimp only
    split
    · rw [htxns]
      exact ⟨by simp, advanceSerial_advanced _ _⟩
    · rw [htxns, hdeadline]
      exact ⟨rfl, advanceSerial_advanced _ _⟩

end Sys2Proof.Machine


namespace Sys2Proof.Machine

/-! ### A segment that is queued or in store (R71 to R73) -/

/-- The segment stands in the store queue, or its job is in flight. -/
def Queued (i : SegId) (s : State) : Prop := i ∈ s.store.queue ∨ (s.seg i).inStore = true

theorem Queued.of_store {i : SegId} {s t : State} (h : Queued i s) (hq : s.store.queue ⊆ t.store.queue)
    (hs : t.journal.segs = s.journal.segs) : Queued i t := by
  have hseg : t.seg i = s.seg i := by rw [State.seg, hs, State.seg]
  exact h.imp (fun hm => hq hm) (fun hm => by rwa [hseg])

theorem queueSeg_queue (i : SegId) (s : State) : s.store.queue ⊆ (queueSeg i s).store.queue := by
  simp only [queueSeg]
  split
  · exact List.subset_append_left _ _
  · exact List.Subset.refl _

theorem queueOpen_queue (s : State) : s.store.queue ⊆ (queueOpen s).store.queue := by
  simp only [queueOpen]
  split
  · exact queueSeg_queue _ s
  · exact List.Subset.refl _

theorem recomputePressure_queue (s : State) : s.store.queue ⊆ (recomputePressure s).store.queue := by
  simp only [recomputePressure]
  (repeat' split)
  · exact List.Subset.refl _
  · exact queueOpen_queue { s with budget.pressure := s.pressureLevel }
  · exact List.Subset.refl _
  · exact List.Subset.refl _

theorem fillWaiter_queue (w : Waiter) (s : State) : s.store.queue ⊆ (fillWaiter w s).store.queue := by
  simp only [fillWaiter]
  split
  · split
    · exact queueSeg_queue _ { s with store.waiting := s.store.waiting ++ [w] }
    · exact List.Subset.refl _
  · exact List.Subset.refl _

theorem dropHeld_queue (c : ChanId) (s : State) : s.store.queue ⊆ (dropHeld c s).store.queue := by
  simp only [dropHeld]
  split
  · exact List.Subset.trans (by simp) (recomputePressure_queue
      (clearFull { s with budget.held := s.budget.held.filter (fun h => h.chan != c) }))
  · exact List.Subset.refl _

/-- A dirty segment that is OPEN or FULL is queued, unless its job is in flight (R71). -/
theorem queueSeg_queued {i : SegId} {s : State} (hst : (s.seg i).state = .openS ∨ (s.seg i).state = .full)
    (hd : (s.seg i).dirty = true) : Queued i (queueSeg i s) := by
  cases hs : (s.seg i).inStore with
  | true => exact Or.inr (by rw [queueSeg_seg]; exact hs)
  | false => exact Or.inl (mem_queueSeg hst hd hs)

theorem queueOpen_queued {i : SegId} {s : State} (h : s.openSegment = some i) (hd : (s.seg i).dirty = true) :
    Queued i (queueOpen s) := by
  rw [queueOpen, h]
  exact queueSeg_queued (Or.inl (openSegment_spec h).2) hd

/-- A rise of pressure queues the dirty OPEN segment (R73). -/
theorem recomputePressure_queued {i : SegId} {s : State} (h : s.openSegment = some i) (hd : (s.seg i).dirty = true)
    (hlow : s.budget.pressure = false) (hhigh : (recomputePressure s).budget.pressure = true) :
    Queued i (recomputePressure s) := by
  simp only [recomputePressure] at hhigh ⊢
  split at hhigh
  · next hlive =>
    rw [if_pos hlive]
    split at hhigh
    · rw [hlow] at hhigh
      cases hhigh
    · next hchange =>
      rw [if_neg hchange]
      have hlevel : s.pressureLevel = true := by simpa [hlow] using hchange
      rw [if_pos hlevel]
      exact queueOpen_queued (s := { s with budget.pressure := s.pressureLevel }) h hd
  · rw [hlow] at hhigh
    cases hhigh

/-- A waiting record queues the OPEN segment that its target lies in (R73, R84). -/
theorem fillWaiter_queued {i : SegId} {s : State} {w : Waiter} (h : s.openSegment = some i)
    (hd : (s.seg i).dirty = true)
    (hin : (s.seg i).firstSeq.getD 0 ≤ w.target ∧ w.target ≤ (s.seg i).lastSeq.getD 0) : Queued i (fillWaiter w s) := by
  have ho : State.openSegment { s with store.waiting := s.store.waiting ++ [w] } = some i := h
  simp only [fillWaiter, ho]
  exact (if_pos hin).symm ▸ queueSeg_queued (s := { s with store.waiting := s.store.waiting ++ [w] })
    (Or.inl (openSegment_spec h).2) hd

/-- A job that starts takes its segment from the queue into store (R75). -/
theorem Queued.startJob {i : SegId} {s : State} (h : Queued i s) : Queued i (startJob s) := by
  simp only [Machine.startJob]
  split
  · exact h
  · next j rest hq =>
    have hseg : (startJobOn j { s with store.queue := rest }).seg i =
        (s.modSeg j (fun g => { g with inStore := true, retry := 0, snapshot := g.lastSeq })).seg i := rfl
    by_cases hj : i = j
    · subst hj
      refine Or.inr ?_
      rw [hseg, State.seg_modSeg_same]
    · refine h.imp (fun hm => ?_) (fun hm => ?_)
      · rw [hq] at hm
        exact (List.mem_cons.mp hm).resolve_left hj
      · rw [hseg, State.seg_modSeg_other _ _ hj]
        exact hm

/-- The end of an event may take the segment out of the queue, to start its job (R75). -/
theorem Queued.settle {i : SegId} {s : State} (h : Queued i s) (test : Bool) : Queued i (settle test s) := by
  have hline : Queued i (lineStoreTest s) := h.of_store (by simp) (by simp)
  have hnext : Queued i (startNext test (lineStoreTest s)) := by
    simp only [startNext]
    split
    · split
      · exact hline.of_store (t := startCheckpoint (lineStoreTest s)) (by simp) (by simp)
      · exact hline.startJob
    · exact hline
  exact hnext.of_store (t := fetchArbiter (startNext test (lineStoreTest s))) (by simp) (by simp)

theorem fillWaiter_waiting (w : Waiter) (s : State) : (fillWaiter w s).store.waiting = s.store.waiting ++ [w] := by
  simp only [fillWaiter]
  (repeat' split) <;> simp

/-! ### D and the level of pressure (R12, R68) -/

theorem dirtyCount_congr {s u : State} (h : SameSegments s u) : u.dirtyCount = s.dirtyCount := by
  have hdirty : u.journal.segs.toList.map Segment.dirty = s.journal.segs.toList.map Segment.dirty := by
    refine List.ext_getElem (by simp) fun n h1 h2 => ?_
    obtain ⟨-, -, -, -, hunstored⟩ := h ⟨n, by simpa using h2⟩
    simp only [List.getElem_map, Segment.dirty]
    exact congrArg Option.isSome hunstored
  have hcount : ∀ l : List Segment, l.countP Segment.dirty = (l.map Segment.dirty).countP id := fun l => by
    simp [List.countP_map]
  rw [State.dirtyCount, State.countSegs, hcount, hdirty, ← hcount]
  rfl

theorem pressureLevel_congr {s u : State} (h : SameSegments s u) (hb : u.budget.b = s.budget.b)
    (hr : u.budget.headroom = s.budget.headroom) (hh : u.budget.held = s.budget.held) :
    u.pressureLevel = s.pressureLevel := by
  rw [State.pressureLevel, State.pressureLevel, dirtyCount_congr h, hb, hr, hh]

/-- What the request holds or waits for is returned, but for its held record (R22, R28, R29). -/
def released (c : ChanId) (s : State) : State :=
  { s.modChan c (fun ch => { ch with exec := none }) with
    staging.buffers := s.staging.buffers.filter (fun b => b.chan != c),
    staging.waiters := s.staging.waiters.filter (fun x => x != c),
    journal.readBuffers := s.journal.readBuffers.filter (fun b => b.chan != c),
    journal.readWaiters := s.journal.readWaiters.filter (fun x => x != c),
    store.reservationWaiters := s.store.reservationWaiters.filter (fun x => x != c) }

theorem endExecution_eq (c : ChanId) (s : State) : endExecution c s = dropHeld c (released c s) := rfl

/-- A held record that leaves takes pressure to its new level (R68). -/
theorem dropHeld_pressure {c : ChanId} {s : State} (hlive : s.budgetLive = true)
    (h : s.budget.pressure = s.pressureLevel) : (dropHeld c s).budget.pressure = (dropHeld c s).pressureLevel := by
  simp only [dropHeld]
  split
  · rw [heldChanged_pressure (s := { s with budget.held := s.budget.held.filter (fun h => h.chan != c) }) hlive]
    simp [State.pressureLevel, State.dirtyCount, State.countSegs]
  · exact h

/-- The end of an execution leaves pressure at its level (R68). -/
theorem endExecution_pressure {c : ChanId} {s : State} (hlive : s.budgetLive = true)
    (h : s.budget.pressure = s.pressureLevel) :
    (endExecution c s).budget.pressure = (endExecution c s).pressureLevel := by
  rw [endExecution_eq]
  exact dropHeld_pressure (s := released c s) hlive h

/-- A rise of pressure as a held record leaves queues the dirty OPEN segment (R68, R73). -/
theorem endExecution_queued {i : SegId} {c : ChanId} {s : State} (h : s.openSegment = some i)
    (hd : (s.seg i).dirty = true) (hlow : s.budget.pressure = false)
    (hhigh : (endExecution c s).budget.pressure = true) : Queued i (endExecution c s) := by
  rw [endExecution_eq, dropHeld] at hhigh ⊢
  split at hhigh
  · next hheld =>
    rw [if_pos hheld]
    generalize ht : ({ released c s with
      budget.held := (released c s).budget.held.filter (fun h => h.chan != c) } : State) = t at hhigh ⊢
    have hjournal : t.journal.chain = s.journal.chain ∧ t.journal.segs = s.journal.segs ∧
        t.budget.pressure = s.budget.pressure := by
      subst ht
      exact ⟨rfl, rfl, rfl⟩
    obtain ⟨hchain, hsegs, hpressure⟩ := hjournal
    have hseg : ∀ j, (clearFull t).seg j = s.seg j := fun j => by simp [State.seg, hsegs]
    have hopen : (clearFull t).openSegment = some i := by
      rw [← h]
      simp only [State.openSegment, hseg]
      simp [hchain]
    exact recomputePressure_queued hopen (by rw [hseg]; exact hd) (by simpa [hpressure] using hlow) hhigh
  · have hsame : (released c s).budget.pressure = s.budget.pressure := rfl
    rw [hsame, hlow] at hhigh
    cases hhigh

theorem endExecution_queue (c : ChanId) (s : State) : s.store.queue ⊆ (endExecution c s).store.queue :=
  dropHeld_queue c (released c s)

theorem endExecution_segs (c : ChanId) (s : State) :
    (endExecution c s).openSegment = s.openSegment ∧ ∀ j, (endExecution c s).seg j = s.seg j := by
  have hseg : ∀ j, (endExecution c s).seg j = s.seg j := fun j => by simp [State.seg]
  refine ⟨?_, hseg⟩
  simp only [State.openSegment, hseg]
  simp

end Sys2Proof.Machine


namespace Sys2Proof.Machine

/-! ### What the recording of an entry leaves (R33) -/

theorem recordEntry_seg (i j : SegId) (c : ChanId) (r : Request) (h : Header) (payload : List Byte) (s : State) :
    (recordEntry i c r h payload s).seg j = (placeEntry i h payload (takeSeq s)).seg j := by
  simp [recordEntry, State.seg]

/-- The record of the segment that the entry stands in. -/
theorem recordEntry_seg_same (i : SegId) (c : ChanId) (r : Request) (h : Header) (payload : List Byte) (s : State) :
    (recordEntry i c r h payload s).seg i = { s.seg i with
        fill := (s.seg i).fill + footprint h.length, lastSeq := some h.seq,
        firstSeq := some ((s.seg i).firstSeq.getD h.seq), unstoredFrom := some ((s.seg i).unstoredFrom.getD h.seq),
        state := if (s.seg i).fill + footprint h.length = 4096 then .full else (s.seg i).state } := by
  have htake : (takeSeq s).seg i = s.seg i := by simp [State.seg]
  rw [recordEntry_seg, (placeEntry_seg i h payload (takeSeq s)).1, htake]

/-- The segment stays the OPEN one until an entry fills it (R15). -/
theorem recordEntry_openSegment {i : SegId} {h : Header} {s : State} (c : ChanId) (r : Request) (payload : List Byte)
    (hi : s.openSegment = some i) (hroom : (s.seg i).fill + footprint h.length ≠ 4096) :
    (recordEntry i c r h payload s).openSegment = some i := by
  obtain ⟨hlast, hstate⟩ := openSegment_spec hi
  have hchain : (recordEntry i c r h payload s).journal.chain = s.journal.chain := by simp
  simp only [State.openSegment, hchain, hlast, recordEntry_seg_same, if_neg hroom, hstate, if_true]

/-- Under pressure, in a line store's SEGMENTS phase, and when an entry fills it, the segment is queued (R72, R73, R129). -/
theorem recordEntry_queued {i : SegId} {c : ChanId} {r : Request} {h : Header} {payload : List Byte} {s : State}
    (hstate : (s.seg i).state = .openS)
    (hwhy : (recordEntry i c r h payload s).budget.pressure = true ∨ s.store.lineStore = .segments ∨
      (s.seg i).fill + footprint h.length = 4096) : Queued i (recordEntry i c r h payload s) := by
  have hseg := recordEntry_seg_same i c r h payload s
  have hline : (recordEntry i c r h payload s).store.lineStore = s.store.lineStore := by simp
  rw [← hline] at hwhy
  rw [recordEntry] at hwhy hseg ⊢
  generalize reportTxn c r h.seq (reportDirtied (s.seg i).dirty (placeEntry i h payload (takeSeq s))) = t at *
  have hsame : (reportStore i t).seg i = t.seg i := by simp [State.seg]
  rw [hsame] at hseg
  have hdirty : (t.seg i).dirty = true := by rw [hseg]; rfl
  simp only [reportStore_frame] at hwhy
  by_cases hfull : (s.seg i).fill + footprint h.length = 4096
  · have hst : (t.seg i).state = .full := by rw [hseg, hstate, if_pos hfull]
    rw [reportStore, if_neg (by simp [hst])]
    exact queueSeg_queued (s := { t with store.idleTimer := none }) (Or.inr hst) hdirty
  · have hst : (t.seg i).state = .openS := by rw [hseg, hstate, if_neg hfull]
    have hpressure : t.budget.pressure = true ∨ t.store.lineStore = .segments :=
      hwhy.imp_right fun hx => hx.resolve_right hfull
    rw [reportStore, if_pos hst]
    exact (if_pos hpressure).symm ▸ queueSeg_queued
      (s := { t with store.idleTimer := some (t.now + t.store.idleDelay * 1000) }) (Or.inl hst) hdirty

/-- A segment that was clean raises D, and pressure takes its level (R68). -/
theorem recordEntry_pressure {i : SegId} (c : ChanId) (r : Request) (h : Header) (payload : List Byte) {s : State}
    (hlive : s.budgetLive = true) (hclean : (s.seg i).dirty = false) :
    (recordEntry i c r h payload s).budget.pressure = (recordEntry i c r h payload s).pressureLevel := by
  have hsegs : SameSegments (placeEntry i h payload (takeSeq s)) (recordEntry i c r h payload s) :=
    SameSegments.of_segs (by simp [recordEntry])
  have hlevel := pressureLevel_congr hsegs (by simp) (by simp) (by simp)
  have hplaced : (placeEntry i h payload (takeSeq s)).budgetLive = true := by simpa [State.budgetLive] using hlive
  have hpressure : (recordEntry i c r h payload s).budget.pressure =
      (recomputePressure (placeEntry i h payload (takeSeq s))).budget.pressure := by
    simp [recordEntry, reportDirtied, hclean]
  rw [hpressure, recomputePressure_pressure hplaced, hlevel]

/-- What recording an entry leaves of the other units: the clock keeps last stamp, the transaction unit takes the entry, and
the shadow may have taken bytes meanwhile (R33, R34). -/
theorem recordEntry_otherUnits {i : SegId} {c : ChanId} {r : Request} {h : Header} {payload : List Byte} {s t : State}
    (ht : t = recordEntry i c r h payload s) :
    SameUnits { s with
      clock.lastStamp := some s.clock.reading, array.shadow := t.array.shadow, txns := t.txns } t := by
  have hclock : t.clock = { s.clock with lastStamp := some s.clock.reading } := by
    rw [ht]
    simp [recordEntry, takeSeq]
  have harray : t.array = { s.array with shadow := t.array.shadow } := by
    have ha : t.array.slotA = s.array.slotA := by rw [ht]; simp
    have hb : t.array.slotB = s.array.slotB := by rw [ht]; simp
    have hm : t.array.closing = s.array.closing := by rw [ht]; simp
    dsimp only
    rw [← ha, ← hb, ← hm]
  refine ⟨rfl, harray, hclock, ?_⟩
  subst ht
  simp

theorem recordEntry_txns (i : SegId) (c : ChanId) (r : Request) (h : Header) (payload : List Byte) (s : State) :
    ∃ t, (recordEntry i c r h payload s).txns = (reportTxn c r h.seq t).txns ∧ t.txns = s.txns ∧ t.now = s.now ∧
      t.cc = s.cc :=
  ⟨reportDirtied (s.seg i).dirty (placeEntry i h payload (takeSeq s)), by simp [recordEntry], by simp, by simp, by simp⟩

/-- An entry's recording leaves the channels and what requests hold. -/
theorem RequestApart.recordEntry {c : ChanId} {s t : State} (ht : RequestApart c s t) (i : SegId) (r : Request)
    (h : Header) (payload : List Byte) : RequestApart c s (recordEntry i c r h payload t) := by
  have hchan : ∀ d, (Machine.recordEntry i c r h payload t).chan d = t.chan d := fun d => by simp [State.chan]
  unfold RequestApart at *
  simpa [hchan] using ht

/-! ### The decision of the completion (R39 to R41) -/

/-- The waiting record of a deferred entry is the one of R39 and R40. -/
theorem decideCompletion_deferred {c : ChanId} {r : Request} {h : Header} {s : State}
    (hd : r.storedFlag = true ∨ s.budget.exposed = true) :
    decideCompletion c r h s = fillWaiter (deferredEntry c r h) (endExecution c s) := by
  cases hr : r.storedFlag with
  | true => simp [decideCompletion, hr, deferredEntry, entryWaiter]
  | false =>
    have hexposed : s.budget.exposed = true := by simpa [hr] using hd
    simp [decideCompletion, hr, hexposed, deferredEntry, entryWaiter]

theorem decideCompletion_direct {c : ChanId} {r : Request} {h : Header} {s : State}
    (hd : r.storedFlag = false ∧ s.budget.exposed = false) :
    decideCompletion c r h s =
      completeExec c (r.completion .ok h.seq h.stamp (h.serial + h.index * 2 ^ 32)) s := by
  obtain ⟨hr, hexposed⟩ := hd
  simp [decideCompletion, hr, hexposed, entryDetail]

/-- Either way the execution ends, and the completion or the waiting record follows. -/
theorem decideCompletion_follows (c : ChanId) (r : Request) (h : Header) (s : State) :
    (decideCompletion c r h s).budget = (endExecution c s).budget ∧
      (decideCompletion c r h s).journal.segs = (endExecution c s).journal.segs ∧
      (endExecution c s).store.queue ⊆ (decideCompletion c r h s).store.queue := by
  by_cases hd : r.storedFlag = false ∧ s.budget.exposed = false
  · rw [decideCompletion_direct hd, completeExec]
    simp
  · have hd' : r.storedFlag = true ∨ s.budget.exposed = true := by
      cases hr : r.storedFlag <;> simp_all
    rw [decideCompletion_deferred hd']
    exact ⟨by simp, by simp, fillWaiter_queue _ _⟩

theorem decideCompletion_pressure {c : ChanId} {r : Request} {h : Header} {s : State} (hlive : s.budgetLive = true)
    (hlevel : s.budget.pressure = s.pressureLevel) :
    (decideCompletion c r h s).budget.pressure = (decideCompletion c r h s).pressureLevel := by
  obtain ⟨hbudget, hsegs, -⟩ := decideCompletion_follows c r h s
  rw [pressureLevel_congr (SameSegments.of_segs hsegs) (by rw [hbudget]) (by rw [hbudget]) (by rw [hbudget]), hbudget]
  exact endExecution_pressure hlive hlevel

/-- The completion's decision leaves a queued segment queued, and queues the OPEN one at a rise of pressure. -/
theorem decideCompletion_queued {i : SegId} {c : ChanId} {r : Request} {h : Header} {s : State}
    (hwhy : Queued i s ∨ (s.openSegment = some i ∧ (s.seg i).dirty = true ∧ s.budget.pressure = false ∧
      (decideCompletion c r h s).budget.pressure = true)) : Queued i (decideCompletion c r h s) := by
  obtain ⟨hbudget, hsegs, hqueue⟩ := decideCompletion_follows c r h s
  refine Queued.of_store (s := endExecution c s) ?_ hqueue hsegs
  rcases hwhy with hq | ⟨hopen, hdirty, hlow, hhigh⟩
  · exact hq.of_store (endExecution_queue c s) (by simp)
  · exact endExecution_queued hopen hdirty hlow (by rwa [← hbudget])

/-- A deferred entry queues the OPEN segment when the entry stands in it (R73, R84). -/
theorem decideCompletion_deferred_queued {i : SegId} {c : ChanId} {r : Request} {h : Header} {s : State}
    (hd : r.storedFlag = true ∨ s.budget.exposed = true) (hopen : s.openSegment = some i)
    (hdirty : (s.seg i).dirty = true)
    (hin : (s.seg i).firstSeq.getD 0 ≤ h.seq ∧ h.seq ≤ (s.seg i).lastSeq.getD 0) :
    Queued i (decideCompletion c r h s) := by
  obtain ⟨hopen', hseg⟩ := endExecution_segs c s
  rw [decideCompletion_deferred hd]
  exact fillWaiter_queued (hopen'.trans hopen) (by rw [hseg]; exact hdirty) (by rw [hseg]; exact hin)

theorem decideCompletion_contents {c : ChanId} {r : Request} {h : Header} {s t : State}
    (ht : t = decideCompletion c r h s) :
    SameLog s t ∧ SameUnits { s with store.waiting := t.store.waiting } t := by
  subst ht
  refine ⟨⟨by simp, by simp, by simp, by simp, by simp, by simp, SameSegments.of_segs (by simp)⟩, ?_⟩
  unfold SameUnits
  simp

end Sys2Proof.Machine


namespace Sys2Proof.Machine

/-! ### A commit on the prepared state (R33) -/

/-- What a commit reads of the other units is in `p` as it is in `s`: the close of the OPEN segment has changed none of it. -/
def SameForCommit (c : ChanId) (s p : State) : Prop :=
  p.txns = s.txns ∧ p.now = s.now ∧ p.clock = s.clock ∧ p.budget = s.budget ∧ p.device = s.device ∧
    p.journal.nextSeq = s.journal.nextSeq ∧ p.journal.format = s.journal.format ∧
    p.store.lineStore = s.store.lineStore ∧ p.store.idleDelay = s.store.idleDelay ∧
    (p.chan c).ageLimit = (s.chan c).ageLimit

theorem prepareSegment_sameForCommit {c : ChanId} {fp : Nat} {s : State}
    (hage : ((prepareSegment fp s).chan c).ageLimit = (s.chan c).ageLimit) : SameForCommit c s (prepareSegment fp s) :=
  ⟨by simp, by simp, by simp, by simp, by simp, by simp, by simp, by simp, by simp, hage⟩

section
variable {c : ChanId} {r : Request} {payload : List Byte} {s p t v : State} {i : SegId} {h : Header}

/-- The header of the entry, seen from the state that the command has met. -/
theorem entryHeader_sameForCommit (hsame : SameForCommit c s p) (ht : t.journal = p.journal ∧ t.clock = p.clock ∧ t.txns = p.txns)
    (hh : h = t.entryHeader c r payload) :
    EntryId c r s h.serial h.index ∧ Stamped c r h.serial h.index h s ∧ h.crc = entryCrc h.bytes payload := by
  obtain ⟨htxns, -, hclock, -, -, hseq, hformat, -, -, -⟩ := hsame
  obtain ⟨hjournal', hclock', htxns'⟩ := ht
  have hid : t.entrySerial c r = s.entrySerial c r := by
    simp only [State.entrySerial, State.findTxn, htxns', htxns]
  obtain ⟨hstamped, hcrc⟩ := entryHeader_spec c r payload t
  rw [← hh] at hstamped hcrc
  unfold Stamped at *
  rw [hid, hjournal', hclock', hseq, hformat, hclock] at hstamped
  obtain ⟨h1, h2, h3, h4, h5, h6, h7, h8, hserial, hindex, h11⟩ := hstamped
  refine ⟨?_, ⟨h1, h2, h3, h4, h5, h6, h7, h8, rfl, rfl, h11⟩, hcrc⟩
  rw [hserial, hindex]
  exact entrySerial_entryId c r s

/-- Why a commit queues its segment (R72, R73, R84, R129). -/
theorem committed_queued (hi : p.openSegment = some i) (hv : v = recordEntry i c r h payload p)
    (hwhy : (settle false (decideCompletion c r h v)).budget.pressure = true ∨ p.store.lineStore = .segments ∨
      (p.seg i).fill + footprint h.length = 4096 ∨
      ((r.storedFlag = true ∨ p.budget.exposed = true) ∧ ∀ f ∈ (p.seg i).firstSeq, f ≤ h.seq)) :
    Queued i (settle false (decideCompletion c r h v)) := by
  refine Queued.settle ?_ false
  have hstate := (openSegment_spec hi).2
  have hexposed : v.budget.exposed = p.budget.exposed := by rw [hv]; simp
  have hpressure : (settle false (decideCompletion c r h v)).budget.pressure =
      (decideCompletion c r h v).budget.pressure := by simp
  rw [hpressure] at hwhy
  by_cases hrecorded : v.budget.pressure = true ∨ p.store.lineStore = .segments ∨
      (p.seg i).fill + footprint h.length = 4096
  · exact decideCompletion_queued (Or.inl (by rw [hv] at hrecorded ⊢; exact recordEntry_queued hstate hrecorded))
  · simp only [not_or, Bool.not_eq_true] at hrecorded
    obtain ⟨hlow, hline, hroom⟩ := hrecorded
    have hopen : v.openSegment = some i := by rw [hv]; exact recordEntry_openSegment c r payload hi hroom
    have hseg := recordEntry_seg_same i c r h payload p
    rw [← hv] at hseg
    have hdirty : (v.seg i).dirty = true := by rw [hseg]; rfl
    rcases hwhy with hhigh | hline' | hfull | ⟨hdeferred, hfirst⟩
    · exact decideCompletion_queued (Or.inr ⟨hopen, hdirty, hlow, hhigh⟩)
    · exact absurd hline' hline
    · exact absurd hfull hroom
    · refine decideCompletion_deferred_queued (by rwa [hexposed]) hopen hdirty ?_
      rw [hseg]
      refine ⟨?_, Nat.le_refl _⟩
      cases hf : (p.seg i).firstSeq with
      | none => exact Nat.le_refl _
      | some f => exact hfirst f (by simp [hf])

/-- A segment that was clean leaves pressure at its level, through the end of the event (R68). -/
theorem committed_pressure (hlive : p.budgetLive = true) (hclean : (p.seg i).dirty = false)
    (hv : v = recordEntry i c r h payload p) :
    (settle false (decideCompletion c r h v)).budget.pressure =
      (settle false (decideCompletion c r h v)).pressureLevel := by
  have hlevel : v.budget.pressure = v.pressureLevel := by rw [hv]; exact recordEntry_pressure c r h payload hlive hclean
  have hlive' : v.budgetLive = true := by
    rw [hv]
    simpa [State.budgetLive] using hlive
  have hdecided := decideCompletion_pressure (c := c) (r := r) (h := h) hlive' hlevel
  rw [pressureLevel_congr (settle_segments false _) (by simp) (by simp) (by simp), ← hdecided]
  simp

/-- The completion takes its slot, seen from the prepared state. -/
theorem committed_completed (hapart : RequestApart c p t) (hopen : p.staysOpen c) (hv : v = recordEntry i c r h payload t)
    (hd : r.storedFlag = false ∧ t.budget.exposed = false) :
    Completed c (r.completion .ok h.seq h.stamp (h.serial + h.index * 2 ^ 32)) v
      (settle false (decideCompletion c r h v)) := by
  have hexposed : v.budget.exposed = t.budget.exposed := by rw [hv]; simp
  have hstays : v.staysOpen c := by
    have hchan : v.chan c = t.chan c := by rw [hv]; simp [State.chan]
    obtain ⟨-, -, hsame, -⟩ := hapart
    unfold State.staysOpen at *
    rw [hchan]
    exact (congrArg (fun ch : Channel => ch.state = .active ∨ (ch.state = .draining ∧ 1 < ch.inFlight)) hsame).mpr hopen
  rw [decideCompletion_direct (by rwa [hexposed])]
  exact completed_settle_open _ false hstays

end

end Sys2Proof.Machine


namespace Sys2Proof.Machine

/-! ### What a commit leaves, seen from the prepared state -/

section
variable {c : ChanId} {r : Request} {q : Executing} {payload : List Byte} {s p u v : State} {i : SegId} {h : Header}
  {buffers : List StagingBuffer} {waiters : List ChanId}

theorem withRequest_staysSame (hsame : SameForCommit c s p) : SameForCommit c s (withRequest c q buffers waiters p) := by
  obtain ⟨htxns, hnow, hclock, hbudget, hdevice, hseq, hformat, hline, hdelay, hage⟩ := hsame
  exact ⟨htxns, hnow, hclock, hbudget, hdevice, hseq, hformat, hline, hdelay, by rw [withRequest_chan_same]; exact hage⟩

/-- The transaction unit has taken the entry (R46 to R48). -/
theorem committed_txns (hsame : SameForCommit c s p) (hseq : h.seq = s.journal.nextSeq)
    (hv : v = recordEntry i c r h payload p) : TxnTaken c r s (settle false (decideCompletion c r h v)) := by
  obtain ⟨x, hx, hxtxns, hxnow, hxcc⟩ := recordEntry_txns i c r h payload p
  obtain ⟨htxns, hnow, -, -, -, -, -, -, -, hage⟩ := hsame
  have hchan : x.chan c = p.chan c := by rw [State.chan, hxcc, State.chan]
  refine reportTxn_taken (hxtxns.trans htxns) (hxnow.trans hnow) (by rw [hchan]; exact hage) ?_
  rw [← hseq, ← hx, ← hv]
  simp

/-- The other units, but for what an entry may change of them. -/
theorem committed_units (hv : v = recordEntry i c r h payload p) (hu : u = settle false (decideCompletion c r h v)) :
    SameUnits { p with
      clock.lastStamp := some p.clock.reading, array.shadow := u.array.shadow, txns := u.txns,
      store.waiting := u.store.waiting } u := by
  have hrecorded := recordEntry_otherUnits hv
  obtain ⟨-, hdecided⟩ := decideCompletion_contents (c := c) (r := r) (h := h) (s := v) rfl
  obtain ⟨-, hsettled⟩ := settle_contents false (decideCompletion c r h v)
  rw [← hu] at hsettled
  have harray : u.array.shadow = v.array.shadow ∧ u.txns = v.txns ∧
      u.store.waiting = (decideCompletion c r h v).store.waiting := by
    rw [hu]
    simp
  obtain ⟨hshadow, htxns, hwaiting⟩ := harray
  rw [hshadow, htxns, hwaiting]
  refine SameUnits.trans (t := { v with store.waiting := (decideCompletion c r h v).store.waiting }) ?_
    (hdecided.trans hsettled)
  obtain ⟨-, harray, hclock, hmonitor, hrecovery, hwindow, hdevice, hstored, -, hrest⟩ := hrecorded
  exact ⟨rfl, harray, hclock, hmonitor, hrecovery, hwindow, hdevice, hstored, rfl, hrest⟩

/-- The entry stands where it was placed (R33). -/
theorem committed_placed (hv : v = recordEntry i c r h payload p) :
    Placed i h payload p (settle false (decideCompletion c r h v)) := by
  obtain ⟨hlog, -⟩ := decideCompletion_contents (c := c) (r := r) (h := h) (s := v) rfl
  have hplaced := recordEntry_placed i c r h payload p
  rw [← hv] at hplaced
  exact (hplaced.trans hlog).trans (settle_contents false _).1

theorem committed_idleTimer (hi : p.openSegment = some i) (hv : v = recordEntry i c r h payload p) :
    (settle false (decideCompletion c r h v)).store.idleTimer =
      if (p.seg i).fill + footprint h.length = 4096 then none else some (p.now + p.store.idleDelay * 1000) := by
  rw [← recordEntry_idleTimer c r h payload (openSegment_spec hi).2, ← hv]
  simp

/-- With the STORED flag or while EXPOSED the request waits, its record at the wait list's tail (R39, R40). -/
theorem committed_deferred (hv : v = recordEntry i c r h payload p)
    (hd : r.storedFlag = true ∨ p.budget.exposed = true) :
    Deferred c v (settle false (decideCompletion c r h v)) ∧
      (settle false (decideCompletion c r h v)).store.waiting = p.store.waiting ++ [deferredEntry c r h] := by
  have hexposed : v.budget.exposed = p.budget.exposed := by rw [hv]; simp
  have hwaiting : v.store.waiting = p.store.waiting := by rw [hv]; simp
  rw [decideCompletion_deferred (by rwa [hexposed])]
  refine ⟨deferred_settle c _ false v, ?_⟩
  rw [← hwaiting]
  simp [fillWaiter_waiting]

theorem committed_waiting (hv : v = recordEntry i c r h payload p)
    (hd : r.storedFlag = false ∧ p.budget.exposed = false) :
    (settle false (decideCompletion c r h v)).store.waiting = p.store.waiting := by
  have hexposed : v.budget.exposed = p.budget.exposed := by rw [hv]; simp
  have hwaiting : v.store.waiting = p.store.waiting := by rw [hv]; simp
  rw [decideCompletion_direct (by rwa [hexposed]), ← hwaiting]
  simp

end

/-- A commit on the state that the preparation of the segment leaves, the request standing where the attempt has put it. -/
theorem committed_of_prepared {c : ChanId} {r : Request} {q : Executing} {payload : List Byte} {s p : State} {i : SegId}
    {h : Header} {buffers : List StagingBuffer} {waiters : List ChanId}
    (hapart : RequestApart c p (withRequest c q buffers waiters p)) (hsame : SameForCommit c s p) (hopen : p.staysOpen c)
    (hi : p.openSegment = some i) (hh : h = (withRequest c q buffers waiters p).entryHeader c r payload) :
    Committed c r payload s p
      (settle false (decideCompletion c r h (recordEntry i c r h payload (withRequest c q buffers waiters p)))) := by
  have hsame' : SameForCommit c s (withRequest c q buffers waiters p) := withRequest_staysSame hsame
  have hreading : p.clock.reading = s.clock.reading := by
    obtain ⟨-, -, hclock, -⟩ := hsame
    rw [hclock]
  obtain ⟨hid, hstamped, hcrc⟩ := entryHeader_sameForCommit hsame ⟨rfl, rfl, rfl⟩ hh
  have hfields := hstamped
  obtain ⟨-, -, -, -, -, hlen, hseq, -, -, -, hstamp⟩ := hfields
  obtain ⟨v, hv⟩ : ∃ v, v = recordEntry i c r h payload (withRequest c q buffers waiters p) := ⟨_, rfl⟩
  rw [← hv]
  obtain ⟨u, hu⟩ : ∃ u, u = settle false (decideCompletion c r h v) := ⟨_, rfl⟩
  have hrecorded : RequestApart c p v := by rw [hv]; exact hapart.recordEntry i r h payload
  have htxns := committed_txns hsame' hseq hv
  have hplaced : Placed i h payload p u := by
    rw [hu]
    exact committed_placed (p := withRequest c q buffers waiters p) hv
  have hunits : SameUnits { p with
      clock.lastStamp := some s.clock.reading, array.shadow := u.array.shadow, txns := u.txns,
      store.waiting := u.store.waiting } u := by
    rw [← hreading]
    exact committed_units (p := withRequest c q buffers waiters p) hv hu
  have htimer := committed_idleTimer (p := withRequest c q buffers waiters p) hi hv
  have hdirect := committed_completed (i := i) (h := h) (r := r) (payload := payload) hapart hopen hv
  have hdeferred := committed_deferred hv
  have hwaiting := committed_waiting hv
  have hpressure := committed_pressure (i := i) (p := withRequest c q buffers waiters p) (v := v) (c := c) (r := r)
    (h := h) (payload := payload)
  have hqueued := committed_queued (p := withRequest c q buffers waiters p) hi hv
  rw [← hu] at *
  obtain ⟨stxns, snow, sclock, sbudget, sdevice, sseq, sformat, sline, sdelay, sage⟩ := hsame'
  rw [sbudget, hstamp, hseq] at hdirect
  rw [sbudget] at hdeferred hwaiting
  rw [snow, sdelay, hlen] at htimer
  rw [sline, sbudget, hlen, hseq] at hqueued
  refine ⟨i, h, h.serial, h.index, hi, hid, hstamped, hcrc, hplaced, htxns, fun hd => ⟨?_, hwaiting hd⟩,
    fun hd => (hdeferred hd).imp (fun hx => ?_) id, fun hlive hclean => ?_, htimer, hqueued, hunits⟩
  · exact (hdirect hd).of_requestApart (s := { p with budget.pressure := u.budget.pressure }) hrecorded (fun _ => rfl)
  · exact hx.of_requestApart (s := { p with budget.pressure := u.budget.pressure }) hrecorded (fun _ => rfl)
  · have hlevel := hpressure (by rw [← hlive]; simp only [State.budgetLive, sdevice]) hclean hv
    rw [← hu] at hlevel
    obtain ⟨-, -, -, -, -, -, -, -, -, -, hb, -, hheadroom, -⟩ := hunits
    rw [hlevel, State.pressureLevel, hb, hheadroom]
    rw [show p.budget = s.budget from sbudget]

end Sys2Proof.Machine


namespace Sys2Proof.Machine

/-! ### The segment that a commit finds prepared (R14, R18, R98) -/

theorem freeExists_spec {s : State} (h : s.freeExists = true) :
    (∃ j, (s.seg j).state = .free) ∨ ∃ i, s.openSegment = some i ∧ (s.seg i).coveredBy s.journal.head = true ∧
      (s.seg i).inStore = false := by
  rw [State.freeExists, Bool.or_eq_true] at h
  rcases h with h | h
  · obtain ⟨g, hg, hfree⟩ := List.any_eq_true.mp h
    obtain ⟨n, hn, rfl⟩ := List.getElem_of_mem hg
    exact Or.inl ⟨⟨n, by simpa using hn⟩, by simpa [State.seg] using hfree⟩
  · rw [State.coveredOpenCounts] at h
    split at h
    · next i hi =>
      rw [Bool.and_eq_true, Bool.not_eq_true'] at h
      exact Or.inr ⟨i, hi, h⟩
    · cases h

/-- What counts as FREE is FREE once the OPEN segment is closed. -/
theorem closeOpen_free {s : State} (h : s.freeExists = true) : ∃ j, ((closeOpen s).seg j).state = .free := by
  rcases freeExists_spec h with ⟨j, hj⟩ | ⟨i, hi, hcovered, hstore⟩
  · refine ⟨j, ?_⟩
    cases ho : s.openSegment with
    | none => rwa [closeOpen_none ho]
    | some i =>
      have hne : j ≠ i := fun e => by
        rw [e, (openSegment_spec ho).2] at hj
        cases hj
      rwa [(closeOpen_leaves ho).2.1 j hne]
  · obtain ⟨hseg, -⟩ := closeOpen_freed hi hcovered hstore
    exact ⟨i, by rw [hseg]; rfl⟩

theorem openNew_openSegment {s : State} {tail : Option SegId} {j : SegId} (h : s.allocate tail = some j) :
    (openNew tail s).openSegment = some j := by
  have hchain : (openNew tail s).journal.chain = s.journal.chain ++ [j] := by simp [openNew, h]
  simp [State.openSegment, hchain, openNew_seg h]

/-- A prepared segment is OPEN, when one can be opened or none needs to be. -/
theorem prepareSegment_open {fp : Nat} {s : State} (h : s.needsNew fp = true → s.freeExists = true) :
    ∃ i, (prepareSegment fp s).openSegment = some i := by
  rw [prepareSegment]
  split
  · next hnew =>
    obtain ⟨j, hj⟩ := closeOpen_free (h hnew)
    have hsome : ((closeOpen s).allocate s.journal.chain.getLast?).isSome :=
      List.find?_isSome.mpr ⟨j, mem_allocationOrder _ j, by simp [hj]⟩
    obtain ⟨k, hk⟩ := Option.isSome_iff_exists.mp hsome
    exact ⟨k, openNew_openSegment hk⟩
  · next hnew =>
    cases ho : s.openSegment with
    | none => exact absurd (by simp [State.needsNew, ho]) hnew
    | some i => exact ⟨i, rfl⟩

/-! ### An attempt that commits (R31 to R33) -/

theorem needsNew_of_needsClean {fp : Nat} {s : State} (h : s.needsClean fp = false) : s.needsNew fp = false := by
  rw [State.needsClean, Bool.or_eq_false_iff] at h
  exact h.1

/-- The payload that the attempt's buffer holds, none for a SEAL. -/
theorem attempt_payload {c : ChanId} {r q : Executing} {payload : List Byte} {i : Instr} {s p : State}
    {waiters : List ChanId} (h : Attempts c r payload i s) :
    (if r.req.kind = .append then (withRequest c q (attemptBuffers c r payload s) waiters p).payloadOf c else []) =
      payload := by
  obtain ⟨-, ⟨bytes, -, hkind, -, hbuf, rfl⟩ | ⟨hkind, rfl, -⟩⟩ := h
  · have hbuffers : attemptBuffers c r (fitBytes r.req.length bytes) s =
        (stagePayload c r.req.length bytes s).staging.buffers := by
      simp only [attemptBuffers, hkind, and_true, stagePayload, beq_iff_eq]
    have hstaged := payloadOf_stagePayload r.req.length bytes hbuf
    rw [State.payloadOf, ← hbuffers] at hstaged
    rw [if_pos hkind]
    exact hstaged
  · rw [if_neg (by rw [hkind]; decide)]

/-- A commit prepares its segment, records the entry there, and decides the completion. -/
theorem commit_withRequest {c : ChanId} {r : Request} {q : Executing} {buffers : List StagingBuffer}
    {waiters : List ChanId} {payload : List Byte} {s p : State} {i : SegId} {h : Header}
    (hp : p = prepareSegment (footprint r.length) s) (hlive : (p.chan c).live = true) (hi : p.openSegment = some i)
    (hpayload : (if r.kind = .append then (withRequest c q buffers waiters p).payloadOf c else []) = payload)
    (hh : h = (withRequest c q buffers waiters p).entryHeader c r payload) :
    commit c r (withRequest c q buffers waiters s) =
      decideCompletion c r h (recordEntry i c r h payload (withRequest c q buffers waiters p)) := by
  subst hp
  have hi' : (withRequest c q buffers waiters (prepareSegment (footprint r.length) s)).openSegment = some i := hi
  simp only [commit, (withRequest_prepareSegment c q buffers waiters (footprint r.length) s hlive).1, hi', hpayload, ← hh]

/-- The attempt that no test refuses and that needs no clean segment, or passes the admission test, commits. -/
theorem exec_commits {c : ChanId} {r : Executing} {payload : List Byte} {i : Instr} {s : State}
    (h : Attempts c r payload i s) (hnot : ∀ status, ¬ Refused c r s status)
    (hroom : s.needsClean (footprint r.req.length) = true → s.budget.held = [] ∧
      (s.needsNew (footprint r.req.length) = true → s.freeExists = true) ∧ s.dirtyCount + 1 ≤ s.budget.b) :
    exec i s = .next (settle false (commit c r.req
      (withRequest c (reservedExec c r s) (attemptBuffers c r payload s) (attemptWaiters i s) s))) := by
  have hrefusal : refusalAt c (attemptExec r) (attemptState c r payload i s) = none := by
    rw [refusalAt_attemptState h]
    exact (refusalAt_none_iff c r s).mpr hnot
  have hreq : (attemptExec r).req = r.req := rfl
  rw [exec_attempt h]
  simp only [commitAttempt, hrefusal, takeTxnReservation_attemptState h.1 hnot, hreq]
  split
  · next hclean =>
    obtain ⟨hheld, hfree, hb⟩ := hroom hclean
    have hadmission : (withRequest c (reservedExec c r s) (attemptBuffers c r payload s) (attemptWaiters i s)
        s).admission false (footprint r.req.length) = none := admission_of_room hheld hfree hb
    rw [hadmission]
  · rfl

/-- The event of an attempt that commits, step by step, and what it leaves. -/
theorem exec_committed {c : ChanId} {r : Executing} {payload : List Byte} {i : Instr} {s p : State}
    (h : Attempts c r payload i s) (hnot : ∀ status, ¬ Refused c r s status)
    (hroom : s.needsClean (footprint r.req.length) = true → s.budget.held = [] ∧
      (s.needsNew (footprint r.req.length) = true → s.freeExists = true) ∧ s.dirtyCount + 1 ≤ s.budget.b)
    (hp : p = prepareSegment (footprint r.req.length) s) (hopen : p.staysOpen c) :
    ∃ j q buffers waiters x, p.openSegment = some j ∧ RequestApart c p (withRequest c q buffers waiters p) ∧
      exec i s = .next (settle false
        (decideCompletion c r.req x (recordEntry j c r.req x payload (withRequest c q buffers waiters p)))) ∧
      x = (withRequest c q buffers waiters p).entryHeader c r.req payload ∧ SameForCommit c s p := by
  have hlive : (p.chan c).live = true := (handCompletion_keeps_open (r.req.refusal .ok 0) hopen).2
  have hfree : s.needsNew (footprint r.req.length) = true → s.freeExists = true := fun hnew => by
    cases hclean : s.needsClean (footprint r.req.length) with
    | true =>
      obtain ⟨-, hfree, -⟩ := hroom hclean
      exact hfree hnew
    | false => rw [needsNew_of_needsClean hclean] at hnew; cases hnew
  obtain ⟨j, hj⟩ := prepareSegment_open hfree
  rw [← hp] at hj
  have hstaging : p.staging = s.staging ∧ p.store.reservationWaiters = s.store.reservationWaiters := by
    rw [hp]
    simp
  obtain ⟨hbuffers, hwaiters⟩ := hstaging
  refine ⟨j, reservedExec c r s, attemptBuffers c r payload s, attemptWaiters i s, _, hj,
    withRequest_apart ?_ ?_, ?_, rfl, ?_⟩
  · rw [hbuffers]
    exact attemptBuffers_filter c r payload s
  · rw [hwaiters]
    exact attemptWaiters_filter h
  · rw [exec_commits h hnot hroom, commit_withRequest hp hlive hj (attempt_payload h) rfl]
  · subst hp
    exact prepareSegment_sameForCommit
      (withRequest_prepareSegment c (reservedExec c r s) [] [] (footprint r.req.length) s hlive).2

/-- Settles O25: the first test that applies refuses; else the attempt commits on the state that the preparation of its
segment leaves, or the admission test holds it. -/
theorem commitAttemptOutcomes : Obligations.CommitAttempt := by
  refine ⟨fun s c r payload i h hopen => ⟨fun status href => attemptRefused_exec h hopen href,
    fun hnot hroom p hp hopen' => ?_⟩, fun s c r payload i h hnot hclean reason hreason =>
      attemptHeld_exec h hnot hclean hreason⟩
  obtain ⟨j, q, buffers, waiters, x, hj, hapart, hexec, hx, hsame⟩ := exec_committed h hnot hroom hp hopen'
  exact ⟨_, hexec, committed_of_prepared hapart hsame hopen' hj hx⟩

/-- A SEAL of an OPEN transaction, with a wait-list record free, makes its attempt at once, and no test refuses it. -/
theorem seal_attempts {s : State} {c : ChanId} {r : Executing} {t : TxnRecord} (hx : Executes c .sealTxn .handed r s)
    (hformatted : s.journal.formatted = true) (hfree : s.waitRecordFree = true)
    (hnone : s.store.reservationWaiters = []) (hkey : r.req.hostId ≠ 0) (ht : s.findTxn c r.req.hostId = some t)
    (hexpired : t.expired = false) (hmedia : s.mediaFault = false) (hseq : s.journal.nextSeq ≠ 2 ^ 48 - 1) :
    Attempts c r [] (.sealTxn c) s ∧ ∀ status, ¬ Refused c r s status := by
  obtain ⟨hactive, hexec, hkind, hstage⟩ := hx
  refine ⟨⟨hexec, Or.inr ⟨hkind, rfl, hfree, Or.inl ⟨rfl, hstage, hformatted, hnone⟩⟩⟩, ?_⟩
  refine (refusalAt_none_iff c r s).mp ?_
  have hfinal : r.req.final = true := by simp [Request.final, hkind]
  have hcheck : txnCheck c r s = .pass := by simp [txnCheck, ht, hexpired, hfinal]
  rw [refusalAt, if_neg (by simp [hactive]), if_neg hseq, if_neg (by simp [hmedia]), if_neg hkey, hcheck]

/-- A dirty segment raises no D, so the commit leaves pressure as it is while the request was not held (R68). -/
theorem committed_dirty_pressure {c : ChanId} {r : Request} {payload : List Byte} {p t : State} {i : SegId} {h : Header}
    (hapart : RequestApart c p t) (hopen : p.staysOpen c) (hbudget : t.budget = p.budget) (hdirty : (t.seg i).dirty = true)
    (hd : r.storedFlag = false ∧ p.budget.exposed = false) (hne : ∀ x ∈ p.budget.held, x.chan ≠ c) :
    (settle false (decideCompletion c r h (recordEntry i c r h payload t))).budget.pressure = p.budget.pressure := by
  obtain ⟨-, -, ⟨-, -, -, -, -, -, hpressure⟩, -⟩ := committed_completed (r := r) (h := h) (payload := payload) (i := i)
    hapart hopen rfl (by rwa [hbudget])
  have hrecorded := recordEntry_budget c r h payload hdirty
  rw [hrecorded, hbudget] at hpressure
  exact (hpressure hne).1

/-- Settles O24: the SEAL makes its attempt, which passes every test, and commits its header in the dirty OPEN segment. -/
theorem sealCommit : Obligations.SealCommit := by
  intro s c r t i hx hformatted hfree hnone hkey ht hexpired hlength hstored hexposed hmedia hseq hi hdirty hfit
  obtain ⟨hattempts, hnot⟩ := seal_attempts hx hformatted hfree hnone hkey ht hexpired hmedia hseq
  have hfp : footprint r.req.length = 32 := by rw [hlength]; rfl
  obtain ⟨hnew, hclean⟩ := needsClean_dirty hi hdirty hfit
  have hp : s = prepareSegment (footprint r.req.length) s := by
    rw [prepareSegment, if_neg (by rw [hfp, hnew]; decide)]
  obtain ⟨hactive, -, hkind, -⟩ := hx
  have hopen : s.staysOpen c := Or.inl hactive
  obtain ⟨j, q, buffers, waiters, h, hj, hapart, hexec, hh, hsame⟩ := exec_committed hattempts hnot
    (fun hneeds => by rw [hfp, hclean] at hneeds; cases hneeds) hp hopen
  obtain rfl : i = j := Option.some.inj (hi.symm.trans hj)
  have hdeferral : r.req.storedFlag = false ∧ s.budget.exposed = false := ⟨hstored, hexposed⟩
  have hpressure := committed_dirty_pressure (i := i) (h := h) (payload := []) hapart hopen rfl hdirty hdeferral
  obtain ⟨k, x, serial, index, hk, hid, hstamped, hcrc, hplaced, htxns, hdirect, -, -, -, -, hunits⟩ :=
    committed_of_prepared hapart hsame hopen hj hh
  generalize settle false _ = u at hexec hpressure hplaced htxns hdirect hunits
  obtain rfl : i = k := Option.some.inj (hi.symm.trans hk)
  have hfinal : r.req.final = true := by simp [Request.final, hkind]
  obtain ⟨rfl, rfl⟩ : serial = t.serial ∧ index = t.count := by
    rcases hid with ⟨h0, -⟩ | ⟨-, h0, -⟩ | ⟨-, y, hy, hserial, hindex⟩
    · exact absurd h0 hkey
    · rw [ht] at h0
      cases h0
    · obtain rfl := Option.some.inj (ht.symm.trans hy)
      exact ⟨hserial, hindex⟩
  obtain ⟨hcompleted, hwaiting⟩ := hdirect hdeferral
  obtain ⟨-, hkeyed⟩ := htxns
  have htaken := (hkeyed hkey).1 t ht
  rw [if_pos hfinal] at htaken
  have hfields := hstamped
  obtain ⟨-, -, hseal, -⟩ := hfields
  refine ⟨u, x, hexec, hstamped, ?_, hcrc, hplaced,
    hcompleted.of_requestApart ⟨rfl, rfl, rfl, fun _ _ => rfl, rfl, rfl, rfl, rfl, rfl, rfl, rfl⟩ hpressure, ?_⟩
  · rw [hseal, hfinal]
  · rw [htaken, hwaiting] at hunits
    exact hunits

end Sys2Proof.Machine


namespace Sys2Proof.Machine

/-! ### Charging and learning (R54, R55, R58) -/

/-- An alert that no waiter takes stands in the alert list (R171). -/
theorem postAlert_listed {kind : AlertKind} {n d : Nat} {s : State} (h : s.cc.alertWaiters = []) :
    ∃ a ∈ (postAlert kind n d s).cc.alerts,
      a.kind = kind ∧ a.seqValue = n ∧ a.detail = d ∧ a.stamp = s.clock.reading := by
  simp only [postAlert, h]
  exact foldAlert_mem kind n d s.clock.reading s.cc.alerts

/-- A capacitance in the range of R55 is learned and in use. -/
theorem endLearning_inRange {n : Nat} (s : State) (h : 1200 ≤ n ∧ n ≤ 56400) :
    endLearning n s =
      { s with monitor.learning := .ended, monitor.learned := some n, monitor.inUse := n } := by
  rw [endLearning, if_pos h]

/-- Outside the range nothing is learned, and LEARN_RANGE carries the value (R55, R58). -/
theorem endLearning_outOfRange {n : Nat} (s : State) (h : n < 1200 ∨ 56400 < n) :
    endLearning n s =
      holdupFault 2 (microfarads n) { s with monitor.learning := .ended, monitor.learned := none } := by
  rw [endLearning, if_neg (by omega)]

theorem microfarads_timeout : microfarads 60000 = 5000 := rfl

theorem exec_learnEnd {t : Nat} {s : State} (hd : s.device ≠ .off) (h : s.monitor.learning = .timing) :
    exec (.learnEnd t) s = .next (endLearning (t - s.monitor.keptCrossing) (s.reachTime (t * 10))) := by
  simp only [exec, execLearnEnd]
  rw [if_pos ⟨hd, h⟩]

/-- Settles O53: each event acts in its own charge or learning state, and an ended learning follows its range. -/
theorem chargingAndLearning : Obligations.ChargingAndLearning := by
  intro s hd
  refine ⟨fun hc => ?_, fun hc hf => ?_, fun h => ?_, fun t hl => ?_, fun t hl hlow hhigh => ?_, fun t hl hrange => ?_,
    fun hl => ?_⟩
  · simp only [exec, execCharged]
    rw [if_pos ⟨hd, hc⟩]
  · simp only [exec, execNotCharged]
    rw [if_pos ⟨hd, hc, by simp [hf]⟩]
    rfl
  · simp only [exec, execNotCharged]
    rw [if_neg]
    rintro ⟨-, hcharging, hfresh⟩
    rcases h with h | h
    · simp [h] at hfresh
    · exact h hcharging
  · simp only [exec, execLearnStart]
    rw [if_pos ⟨hd, hl⟩]
    rfl
  · rw [exec_learnEnd hd hl, endLearning_inRange _ ⟨hlow, hhigh⟩]
    rfl
  · rw [exec_learnEnd hd hl, endLearning_outOfRange _ hrange]
    refine ⟨_, rfl, ?_, fun hw => ?_⟩
    · simp
    · obtain ⟨a, ha, hkind, hseq, hdetail, -⟩ := postAlert_listed (kind := .holdupFault) (n := 0)
        (d := 2 + microfarads (t - s.monitor.keptCrossing) * 2 ^ 32)
        (s := { s.reachTime (t * 10) with monitor.learning := .ended, monitor.learned := none }) hw
      exact ⟨a, ha, hkind, hseq, hdetail⟩
  · simp only [exec, execLearnTimeout]
    rw [if_pos ⟨hd, hl⟩, endLearning_outOfRange _ (by omega), microfarads_timeout]
    rfl

end Sys2Proof.Machine


namespace Sys2Proof.Machine

/-! ### What stands before the end of an event stands at it (log entry 12) -/

theorem Segment.SameLog.symm {g h : Segment} (a : g.SameLog h) : h.SameLog g := by
  obtain ⟨hstate, hfirst, hlast, hfill, hunstored⟩ := a
  exact ⟨hstate.symm, hfirst.symm, hlast.symm, hfill.symm, hunstored.symm⟩

theorem SameLog.symm {s t : State} (a : SameLog s t) : SameLog t s := by
  obtain ⟨hsram, hchain, hseq, hhead, hformat, hformatted, hsegs⟩ := a
  exact ⟨hsram.symm, hchain.symm, hseq.symm, hhead.symm, hformat.symm, hformatted.symm, fun i => (hsegs i).symm⟩

theorem SameUnits.symm {s t : State} (a : SameUnits s t) : SameUnits t s := by
  unfold SameUnits at *
  simp_all

/-- A job that starts takes its segment from the queue (R75). -/
theorem Queued.of_startJob {i : SegId} {s : State} (h : Queued i (Machine.startJob s)) : Queued i s := by
  simp only [Machine.startJob] at h
  split at h
  · exact h
  · next j rest hq =>
    by_cases hj : i = j
    · exact Or.inl (by rw [hq, hj]; exact List.mem_cons_self)
    · have hseg : (startJobOn j { s with store.queue := rest }).seg i = s.seg i :=
        State.seg_modSeg_other { s with store.queue := rest }
          (fun g => { g with inStore := true, retry := 0, snapshot := g.lastSeq }) hj
      refine h.imp (fun hm => ?_) (fun hm => by rwa [hseg] at hm)
      rw [hq]
      exact List.mem_cons_of_mem _ hm

/-- A segment queued or in store after the end of an event was so before. -/
theorem Queued.of_settle {i : SegId} {test : Bool} {s : State} (h : Queued i (Machine.settle test s)) : Queued i s := by
  have hnext : Queued i (startNext test (lineStoreTest s)) :=
    h.of_store (by simp [Machine.settle]) (by simp [Machine.settle])
  have hline : Queued i (lineStoreTest s) := by
    simp only [startNext] at hnext
    split at hnext
    · split at hnext
      · exact hnext.of_store (t := lineStoreTest s) (by simp) (by simp)
      · exact hnext.of_startJob
    · exact hnext
  exact hline.of_store (t := s) (by simp) (by simp)

theorem Channel.eq_of_raised {a b : Channel} {n : Nat}
    (h : ({ a with inFlight := a.inFlight + n } : Channel) = { b with inFlight := b.inFlight + n }) : a = b := by
  cases a
  cases b
  simpa using h

/-- A channel's record before the end of the event: without the fetch that the arbiter begins there. -/
theorem chan_of_settle {test : Bool} {s u : State} {d : ChanId} {ch : Channel} (hf : u.cc.fetch = s.cc.fetch)
    (h : (settle test u).chan d = { ch with inFlight := ch.inFlight + fetchBegun d s (settle test u) }) :
    u.chan d = { ch with inFlight := ch.inFlight + fetchBegun d s u } := by
  rw [settle_channels (fun _ => False) test u d (by simp), fetchBegun_congr d hf] at h
  rw [fetchBegun_same d hf]
  exact Channel.eq_of_raised h

theorem HoldingsReturned.of_settle {c : ChanId} {test : Bool} {s u : State}
    (h : HoldingsReturned c s (settle test u)) : HoldingsReturned c s u :=
  h.of_eq (by simp) (by simp) (by simp) (by simp) (by simp) (by simp)

theorem SameChannelsBut.of_settle {p : ChanId → Prop} {test : Bool} {s u : State}
    (h : SameChannelsBut p s (settle test u)) (hf : u.cc.fetch = s.cc.fetch) : SameChannelsBut p s u :=
  fun d hd => chan_of_settle hf (h d hd)

theorem Completed.of_settle {c : ChanId} {x : Completion} {test : Bool} {s u : State}
    (h : Completed c x s (settle test u)) (hf : u.cc.fetch = s.cc.fetch) : Completed c x s u := by
  obtain ⟨htaken, hchan, hreturned, hothers⟩ := h
  rw [settle_taken] at htaken
  exact ⟨htaken, chan_of_settle (ch := { s.chan c with
    exec := none, cplNext := ((s.chan c).cplNext + 1) % (s.chan c).cplSlots, inFlight := (s.chan c).inFlight - 1 })
    hf hchan, hreturned.of_settle, hothers.of_settle hf⟩

theorem Deferred.of_settle {c : ChanId} {test : Bool} {s u : State} (h : Deferred c s (settle test u))
    (hf : u.cc.fetch = s.cc.fetch) : Deferred c s u := by
  obtain ⟨htaken, hchan, hreturned, hothers⟩ := h
  rw [settle_taken] at htaken
  exact ⟨htaken, chan_of_settle (ch := { s.chan c with exec := none }) hf hchan, hreturned.of_settle,
    hothers.of_settle hf⟩

/-- A commit has left what it leaves before the event ends: the grant run commits within an event (R65). -/
theorem Committed.of_settle {c : ChanId} {r : Request} {payload : List Byte} {test : Bool} {s p u : State}
    (h : Committed c r payload s p (settle test u)) (hf : u.cc.fetch = p.cc.fetch) : Committed c r payload s p u := by
  have hbudget : (settle test u).budget = u.budget := by simp
  have htxns : (settle test u).txns = u.txns := by simp
  have hwaiting : (settle test u).store.waiting = u.store.waiting := by simp
  have harray : (settle test u).array = u.array := by simp
  have htimer : (settle test u).store.idleTimer = u.store.idleTimer := by simp
  have hdirty : (settle test u).dirtyCount = u.dirtyCount := dirtyCount_congr (settle_segments test u)
  obtain ⟨hlog, hunits⟩ := settle_contents test u
  obtain ⟨i, x, serial, index, hi, hid, hstamped, hcrc, hplaced, htaken, hdirect, hdeferred, hpressure, hidle, hqueued,
    hsame⟩ := h
  unfold TxnTaken at htaken
  rw [htxns] at htaken
  rw [hbudget, hwaiting] at hdirect hdeferred
  rw [hbudget, hdirty] at hpressure
  rw [hbudget] at hqueued
  rw [htimer] at hidle
  rw [harray, htxns, hwaiting] at hsame
  refine ⟨i, x, serial, index, hi, hid, hstamped, hcrc, hplaced.trans hlog.symm, htaken, fun hd => ?_, fun hd => ?_,
    hpressure, hidle, fun hwhy => Queued.of_settle (test := test) (hqueued hwhy), hsame.trans hunits.symm⟩
  · exact (hdirect hd).imp (fun hx => hx.of_settle hf) id
  · exact (hdeferred hd).imp (fun hx => hx.of_settle hf) id

end Sys2Proof.Machine


namespace Sys2Proof.Machine

/-! ### An ACTIVE channel stays ACTIVE while others are answered (R156, R160) -/

theorem takeSlot_state (d c : ChanId) (x : Completion) (s : State) :
    ((takeSlot d x s).chan c).state = (s.chan c).state := by
  by_cases h : c = d
  · subst h
    cases hlive : (s.chan c).live with
    | true => rw [takeSlot_chan_same x hlive]
    | false => rw [takeSlot_not_live x hlive]
  · rw [takeSlot_chan_other x s h]

/-- Only a DRAINING channel closes by a completion. -/
theorem handCompletion_keeps_active {c : ChanId} (d : ChanId) (x : Completion) {s : State}
    (h : (s.chan c).state = .active) : ((handCompletion d x s).chan c).state = .active := by
  have htake : ((takeSlot d x s).chan c).state = .active := by rw [takeSlot_state]; exact h
  rw [handCompletion, drainCheck]
  split
  · next hdrain =>
    have hne : c ≠ d := fun e => by
      rw [e, hdrain.1] at htake
      cases htake
    rw [closeDrained_eq]
    split
    · rw [takeSlot_state, drained_chan_other _ hne]
      exact htake
    · rw [drained_chan_other _ hne]
      exact htake
  · exact htake

theorem recomputeS_keeps_active {c : ChanId} {s : State} (h : (s.chan c).state = .active) :
    ((recomputeS s).chan c).state = .active := by
  simp only [recomputeS]
  split
  · exact foldl_invariant (P := fun t => (t.chan c).state = .active) (completeWaiter .ok)
      (fun _ w ht => handCompletion_keeps_active w.chan _ ht) _ h
  · exact h

theorem closeOpen_keeps_active {c : ChanId} {s : State} (h : (s.chan c).state = .active) :
    ((closeOpen s).chan c).state = .active := by
  have hsame : ∀ t : State, t.cc = s.cc → (t.chan c).state = .active := fun t ht => by
    rw [State.chan, ht]
    exact h
  simp only [closeOpen]
  split
  · exact h
  · split
    · split
      · exact hsame _ (by simp)
      · split
        · exact recomputeS_keeps_active (hsame _ (by simp))
        · exact hsame _ (by simp)
    · exact hsame _ (by simp)

theorem prepareSegment_keeps_active {c : ChanId} (fp : Nat) {s : State} (h : (s.chan c).state = .active) :
    ((prepareSegment fp s).chan c).state = .active := by
  simp only [prepareSegment]
  split
  · have hchan : ∀ tail t, (openNew tail t).chan c = t.chan c := fun tail t => by simp [State.chan]
    rw [hchan]
    exact closeOpen_keeps_active h
  · exact h

end Sys2Proof.Machine


namespace Sys2Proof.Machine

/-! ### The attempt of a grant (R36, R62) -/

/-- The request as the tests leave it, its buffers and places in the waits being as they were (R45). -/
theorem takeTxnReservation_eq {c : ChanId} {r : Executing} {s : State} (hx : (s.chan c).exec = some r) :
    ∃ q : Executing, takeTxnReservation c r s =
      withRequest c q s.staging.buffers s.store.reservationWaiters s := by
  have hself : withRequest c r s.staging.buffers s.store.reservationWaiters s = s := by
    rw [withRequest, setExec_self hx]
  rw [takeTxnReservation]
  split
  · refine ⟨{ r with txnReserved := true }, ?_⟩
    have h := modChan_withRequest c r _ s.staging.buffers s.store.reservationWaiters s
      (fun r => { r with txnReserved := true }) rfl
    rwa [hself] at h
  · exact ⟨r, hself.symm⟩

theorem admission_grant (s : State) (fp : Nat) : s.admission true fp = s.ownRefusal fp := rfl

theorem ownRefusal_none {fp : Nat} {s : State} (hfree : s.needsNew fp = true → s.freeExists = true)
    (hb : s.dirtyCount + 1 ≤ s.budget.b) : s.ownRefusal fp = none := by
  have hspace : ¬ (s.needsNew fp && !s.freeExists) = true := by
    cases hn : s.needsNew fp <;> simp_all
  rw [State.ownRefusal, if_neg hspace, if_neg (by omega)]

/-- The two checks of a grant's own admission, in order (R62). -/
theorem ownRefusal_some {fp : Nat} {reason : HoldReason} {s : State}
    (h : (s.needsNew fp = true ∧ s.freeExists = false ∧ reason = HoldReason.space) ∨
      ((s.needsNew fp = false ∨ s.freeExists = true) ∧ s.budget.b < s.dirtyCount + 1 ∧ reason = HoldReason.budget)) :
    s.ownRefusal fp = some reason := by
  rcases h with ⟨hnew, hfree, rfl⟩ | ⟨hroom, hb, rfl⟩
  · simp [State.ownRefusal, hnew, hfree]
  · rw [State.ownRefusal, if_neg (by rcases hroom with h | h <;> simp [h]), if_pos hb]

/-- A granted attempt that a test refuses (R31). -/
theorem grant_refused {c : ChanId} {r : Executing} {s : State} {status : Status} (hactive : (s.chan c).state = .active)
    (href : Refused c r s status) : AttemptRefused c r status s (commitAttempt true c r s) := by
  rw [commitAttempt_refused ((refusalAt_iff c r s status).mpr href), removeTxn_of_refusal]
  have hcompleted := completed_completeExec
    (s := { s with txns.table := tableAfterRefusal c r.req.hostId status s }) (r.req.refusal status 0) hactive
  obtain ⟨hlog, hunits⟩ := completeExec_contents c (r.req.refusal status 0)
    { s with txns.table := tableAfterRefusal c r.req.hostId status s }
  exact ⟨hcompleted, hlog, hunits⟩

/-- A granted attempt that passes its own checks commits on the request as the tests leave it. -/
theorem grant_commits {c : ChanId} {r q : Executing} {s : State} (hnot : ∀ status, ¬ Refused c r s status)
    (hq : takeTxnReservation c r s = withRequest c q s.staging.buffers s.store.reservationWaiters s)
    (hroom : s.needsClean (footprint r.req.length) = true →
      (s.needsNew (footprint r.req.length) = true → s.freeExists = true) ∧ s.dirtyCount + 1 ≤ s.budget.b) :
    commitAttempt true c r s =
      commit c r.req (withRequest c q s.staging.buffers s.store.reservationWaiters s) := by
  have hrefusal : refusalAt c r s = none := (refusalAt_none_iff c r s).mpr hnot
  simp only [commitAttempt, hrefusal, hq]
  split
  · next hclean =>
    obtain ⟨hfree, hb⟩ := hroom hclean
    have hadmission : (withRequest c q s.staging.buffers s.store.reservationWaiters s).admission true
        (footprint r.req.length) = none := ownRefusal_none hfree hb
    rw [hadmission]
  · rfl

/-- A grant of an ACTIVE channel that passes its own checks commits (R33, R36, log entry 37). -/
theorem grant_committed {c : ChanId} {r : Executing} {s : State} (hactive : (s.chan c).state = .active)
    (hx : (s.chan c).exec = some r) (hnot : ∀ status, ¬ Refused c r s status)
    (hroom : s.needsClean (footprint r.req.length) = true →
      (s.needsNew (footprint r.req.length) = true → s.freeExists = true) ∧ s.dirtyCount + 1 ≤ s.budget.b) :
    Committed c r.req (if r.req.kind = .append then s.payloadOf c else []) s
      (prepareSegment (footprint r.req.length) s) (commitAttempt true c r s) := by
  obtain ⟨q, hq⟩ := takeTxnReservation_eq hx
  rw [grant_commits hnot hq hroom]
  have hfree : s.needsNew (footprint r.req.length) = true → s.freeExists = true := fun hnew => by
    cases hclean : s.needsClean (footprint r.req.length) with
    | true => exact (hroom hclean).1 hnew
    | false => rw [needsNew_of_needsClean hclean] at hnew; cases hnew
  obtain ⟨j, hj⟩ := prepareSegment_open hfree
  have hopen := prepareSegment_keeps_active (footprint r.req.length) hactive
  have hlive := live_of_active hopen
  have hbuffers : (prepareSegment (footprint r.req.length) s).staging.buffers = s.staging.buffers := by simp
  have hwaiters : (prepareSegment (footprint r.req.length) s).store.reservationWaiters =
      s.store.reservationWaiters := by simp
  have hapart : RequestApart c (prepareSegment (footprint r.req.length) s)
      (withRequest c q s.staging.buffers s.store.reservationWaiters (prepareSegment (footprint r.req.length) s)) :=
    withRequest_apart (by rw [hbuffers]) (by rw [hwaiters])
  have hsame := prepareSegment_sameForCommit (c := c)
    (withRequest_prepareSegment c q [] [] (footprint r.req.length) s hlive).2
  rw [commit_withRequest rfl hlive hj rfl rfl]
  exact (committed_of_prepared hapart hsame (Or.inl hopen) hj rfl).of_settle (by simp [withRequest])

/-! ### A grant that is held again (R36) -/

/-- The record of the channel takes the reason in its place, before what follows the change. -/
def heldAgain (c : ChanId) (reason : HoldReason) (s : State) : State :=
  setStage c .held { s with
    budget.held := s.budget.held.map (fun h => if h.chan == c then { h with reason := reason } else h) }

theorem holdRequest_grant (c : ChanId) (r : Executing) (reason : HoldReason) (s : State) :
    holdRequest true c r reason s = afterReason (footprint r.req.length) (heldAgain c reason s) reason := by
  cases reason <;> rfl

/-- A granted attempt that fails its own checks (R36, R62). -/
theorem grant_refusedAdmission {c : ChanId} {r : Executing} {s : State} {reason : HoldReason}
    (hx : (s.chan c).exec = some r) (hnot : ∀ status, ¬ Refused c r s status)
    (hclean : s.needsClean (footprint r.req.length) = true)
    (hown : s.ownRefusal (footprint r.req.length) = some reason) :
    commitAttempt true c r s =
      afterReason (footprint r.req.length) (heldAgain c reason (takeTxnReservation c r s)) reason := by
  have hrefusal : refusalAt c r s = none := (refusalAt_none_iff c r s).mpr hnot
  obtain ⟨q, hq⟩ := takeTxnReservation_eq hx
  have hclean' : (takeTxnReservation c r s).needsClean (footprint r.req.length) = true := by
    rw [hq]
    exact hclean
  have hadmission : (takeTxnReservation c r s).admission true (footprint r.req.length) = some reason := by
    rw [hq]
    exact hown
  simp only [commitAttempt, hrefusal, hclean', hadmission, if_true, holdRequest_grant]

/-- The request stays held, in its place and with what it holds. -/
theorem heldAgain_spec {c : ChanId} {r : Executing} {reason : HoldReason} {s t : State} (hx : (s.chan c).exec = some r)
    (ht : t = heldAgain c reason (takeTxnReservation c r s)) :
    (t.chan c).exec.map Executing.stage = some .held ∧
      t.budget.held = s.budget.held.map (fun x => if x.chan = c then { x with reason := reason } else x) ∧
      t.journal = s.journal ∧ t.txns = s.txns ∧ t.clock = s.clock ∧
      t.cc.alerts = s.cc.alerts ∧ t.cc.alertWaiters = s.cc.alertWaiters ∧ t.cc.posts = s.cc.posts := by
  obtain ⟨q, hq⟩ := takeTxnReservation_eq hx
  have hheld : (heldAgain c reason (takeTxnReservation c r s)).chan c = { (takeTxnReservation c r s).chan c with
      exec := ((takeTxnReservation c r s).chan c).exec.map (fun r => { r with stage := .held }) } :=
    State.chan_modChan_same _ _ _
  subst ht
  refine ⟨?_, ?_, by simp [heldAgain], by simp [heldAgain], by simp [heldAgain], by simp [heldAgain],
    by simp [heldAgain], by simp [heldAgain]⟩
  · rw [hheld, hq, withRequest_chan_same]
    rfl
  · simp [heldAgain]

/-- A granted request that is held again keeps its place with the new reason, and the journal and the transactions are
as they were (R36, R101). -/
theorem grant_heldAgain {c : ChanId} {r : Executing} {s : State} {reason : HoldReason} {h : HeldRecord}
    (hx : (s.chan c).exec = some r) (hmem : h ∈ s.budget.held) (hc : h.chan = c)
    (hnot : ∀ status, ¬ Refused c r s status) (hclean : s.needsClean (footprint r.req.length) = true)
    (hown : s.ownRefusal (footprint r.req.length) = some reason) :
    (commitAttempt true c r s).budget.held =
        s.budget.held.map (fun x => if x.chan = c then { x with reason := reason } else x) ∧
      SameLog s (commitAttempt true c r s) ∧ (commitAttempt true c r s).txns = s.txns ∧
      FullNoted (footprint r.req.length) reason s (commitAttempt true c r s) ∧
      ((commitAttempt true c r s).chan c).exec.map Executing.stage = some .held := by
  rw [grant_refusedAdmission hx hnot hclean hown]
  obtain ⟨t, ht⟩ : ∃ t, t = heldAgain c reason (takeTxnReservation c r s) := ⟨_, rfl⟩
  rw [← ht]
  obtain ⟨hstage, hheld, hjournal, htxns, hclock, hcc⟩ := heldAgain_spec hx ht
  have hreason : t.budget.held.any (fun x => x.reason == reason) = true := by
    rw [hheld]
    exact List.any_eq_true.mpr ⟨_, List.mem_map_of_mem hmem, by simp [hc]⟩
  have hlogs : SameLog s t := by
    refine ⟨?_, ?_, ?_, ?_, ?_, ?_, SameSegments.of_segs ?_⟩ <;> rw [hjournal]
  obtain ⟨hlog, -, hheld', -, htxns', -⟩ := afterReason_leaves (footprint r.req.length) t reason
  exact ⟨hheld'.trans hheld, hlogs.trans hlog, htxns'.trans htxns,
    (afterReason_fullNoted hreason).of_eq hjournal hcc hclock ⟨rfl, rfl, rfl, rfl⟩,
    (congrArg _ (afterReason_exec _ t reason c)).trans hstage⟩

end Sys2Proof.Machine


namespace Sys2Proof.Machine

/-! ### The grant run (R65) -/

theorem grantable_iff (s : State) (h : HeldRecord) : s.grantable h = true ↔
    ((h.reason = .budget ∧ s.dirtyCount + 1 ≤ s.budget.b) ∨ (h.reason = .space ∧ s.freeExists = true) ∨
      ∃ i, s.openSegment = some i ∧ (s.seg i).dirty = true ∧ (s.seg i).fill + h.footprint ≤ 4096) := by
  rw [State.grantable, Bool.or_eq_true]
  cases hr : h.reason <;> cases ho : s.openSegment <;> simp

/-- An execution that ends takes the channel's record out of the held set (R37, R64). -/
theorem endExecution_held (c : ChanId) (s : State) :
    (endExecution c s).budget.held = s.budget.held.filter (fun h => h.chan != c) := by
  obtain ⟨-, -, -, -, -, hheld, -⟩ := endExecution_holdings c s
  exact hheld

theorem completeExec_held (c : ChanId) (x : Completion) (s : State) :
    (completeExec c x s).budget.held = s.budget.held.filter (fun h => h.chan != c) := by
  rw [completeExec, ← endExecution_held]
  simp

theorem commit_held (c : ChanId) (r : Request) (s : State) :
    (commit c r s).budget.held = s.budget.held.filter (fun h => h.chan != c) ∨
      (commit c r s).budget.held = s.budget.held := by
  simp only [commit]
  split
  · exact Or.inr (by simp)
  · obtain ⟨hbudget, -⟩ :=
      decideCompletion_follows c r _ (recordEntry _ c r _ _ (prepareSegment (footprint r.length) s))
    refine Or.inl ?_
    rw [hbudget, endExecution_held]
    simp

/-- A granted attempt takes the channel's record out of the held set, or leaves every record in its place. -/
theorem grant_held (c : ChanId) (r : Executing) (s : State) :
    (commitAttempt true c r s).budget.held = s.budget.held.filter (fun h => h.chan != c) ∨
      (commitAttempt true c r s).budget.held.map HeldRecord.chan = s.budget.held.map HeldRecord.chan := by
  have hcommit : (commit c r.req (takeTxnReservation c r s)).budget.held =
        s.budget.held.filter (fun h => h.chan != c) ∨
      (commit c r.req (takeTxnReservation c r s)).budget.held.map HeldRecord.chan =
        s.budget.held.map HeldRecord.chan := by
    have htake : (takeTxnReservation c r s).budget.held = s.budget.held := by simp
    refine (commit_held c r.req (takeTxnReservation c r s)).imp (fun h => ?_) (fun h => ?_)
    · rw [h, htake]
    · rw [h, htake]
  cases hrefusal : refusalAt c r s with
  | some status =>
    rw [commitAttempt_refused hrefusal, removeTxn_of_refusal]
    exact Or.inl (completeExec_held _ _ _)
  | none =>
    simp only [commitAttempt, hrefusal]
    split
    · split
      · next reason _ =>
        refine Or.inr ?_
        obtain ⟨-, -, hheld, -⟩ :=
          afterReason_leaves (footprint r.req.length) (heldAgain c reason (takeTxnReservation c r s)) reason
        rw [holdRequest_grant, hheld]
        simp only [heldAgain, setStage_frame, takeTxnReservation_frame, List.map_map]
        refine List.map_congr_left fun h _ => ?_
        simp only [Function.comp]
        split <;> rfl
      · exact hcommit
    · exact hcommit

section
variable {s : State} {h : HeldRecord} {rest : List HeldRecord} {r : Executing}

/-- A grant after which the oldest record is another one shortens the held set. -/
theorem grant_shortens (hheld : s.budget.held = h :: rest)
    (hgone : (commitAttempt true h.chan r s).budget.held.head?.map HeldRecord.chan ≠ some h.chan) :
    (commitAttempt true h.chan r s).budget.held.length ≤ rest.length := by
  rcases grant_held h.chan r s with hf | hmap
  · rw [hf, hheld, List.filter_cons_of_neg (by simp)]
    exact List.length_filter_le _ _
  · refine absurd ?_ hgone
    rw [← List.head?_map, hmap, hheld]
    rfl

/-- One grant of a run. -/
theorem grantLoop_grants (n : Nat) (hheld : s.budget.held = h :: rest) (hg : s.grantable h = true)
    (hx : (s.chan h.chan).exec = some r) :
    grantLoop (n + 1) s =
      if (commitAttempt true h.chan r s).budget.held.head?.map HeldRecord.chan = some h.chan then
        commitAttempt true h.chan r s
      else grantLoop n (commitAttempt true h.chan r s) := by
  simp only [grantLoop, hheld, hg, if_true, hx]

/-- A run ends at an oldest record that is not grantable. -/
theorem grantLoop_rests (n : Nat) (hheld : s.budget.held = h :: rest) (hg : s.grantable h = false) :
    grantLoop n s = s := by
  cases n with
  | zero => rfl
  | succ n => simp only [grantLoop, hheld, hg, Bool.false_eq_true, if_false]

/-- A channel that executes nothing ends the run (no step leaves it a held record, R64). -/
theorem grantLoop_idle (n : Nat) (hheld : s.budget.held = h :: rest) (hx : (s.chan h.chan).exec = none) :
    grantLoop n s = s := by
  cases n with
  | zero => rfl
  | succ n =>
    simp only [grantLoop, hheld, hx]
    split <;> rfl

end

theorem grantLoop_empty (n : Nat) {s : State} (hheld : s.budget.held = []) : grantLoop n s = s := by
  cases n with
  | zero => rfl
  | succ n => simp only [grantLoop, hheld]

/-- As many grants as there are held records suffice: any bound from there on gives the same run. -/
theorem grantLoop_bound {n m : Nat} {s : State} (hn : s.budget.held.length ≤ n) (hm : s.budget.held.length ≤ m) :
    grantLoop n s = grantLoop m s := by
  induction n generalizing m s with
  | zero =>
    have hheld : s.budget.held = [] := List.length_eq_zero_iff.mp (Nat.le_zero.mp hn)
    rw [grantLoop_empty _ hheld, grantLoop_empty _ hheld]
  | succ n ih =>
    cases hheld : s.budget.held with
    | nil => rw [grantLoop_empty _ hheld, grantLoop_empty _ hheld]
    | cons h rest =>
      cases hg : s.grantable h with
      | false => rw [grantLoop_rests _ hheld hg, grantLoop_rests _ hheld hg]
      | true =>
        cases hx : (s.chan h.chan).exec with
        | none => rw [grantLoop_idle _ hheld hx, grantLoop_idle _ hheld hx]
        | some r =>
          rw [hheld, List.length_cons] at hn hm
          obtain ⟨k, rfl⟩ : ∃ k, m = k + 1 := ⟨m - 1, by omega⟩
          rw [grantLoop_grants n hheld hg hx, grantLoop_grants k hheld hg hx]
          split
          · rfl
          · next hgone =>
            have hshort := grant_shortens hheld hgone
            exact ih (by omega) (by omega)

section
variable {s : State} {h : HeldRecord} {rest : List HeldRecord} {r : Executing}

theorem grantRun_rests (hheld : s.budget.held = h :: rest) (hg : s.grantable h = false) : grantRun s = s :=
  grantLoop_rests _ hheld hg

/-- The run ends with the request that is held again, and goes on with a new oldest record (R65). -/
theorem grantRun_grants (hheld : s.budget.held = h :: rest) (hg : s.grantable h = true)
    (hx : (s.chan h.chan).exec = some r) :
    grantRun s =
      if (commitAttempt true h.chan r s).budget.held.head?.map HeldRecord.chan = some h.chan then
        commitAttempt true h.chan r s
      else grantRun (commitAttempt true h.chan r s) := by
  rw [grantRun, hheld, List.length_cons, grantLoop_grants _ hheld hg hx]
  split
  · rfl
  · next hgone => exact grantLoop_bound (grant_shortens hheld hgone) (Nat.le_refl _)

end

end Sys2Proof.Machine


namespace Sys2Proof.Machine

/-! ### A measurement, up to the grant run (R57, R60) -/

theorem budgetLive_iff (s : State) :
    s.budgetLive = true ↔ s.device ≠ .emergency ∧ s.device ≠ .halted ∧ s.device ≠ .off := by
  simp [State.budgetLive, and_assoc]

theorem budgetLive_of_working {s : State} (h : s.working = true) : s.budgetLive = true := by
  rw [State.working, Bool.or_eq_true, beq_iff_eq, beq_iff_eq] at h
  rcases h with h | h <;> simp [State.budgetLive, h]

/-- The measurement is recorded and B recomputed: what follows a change of B has not come yet. -/
def measured (v : Nat) (s : State) : State :=
  { recordMeasurement v s with
    budget.b := min (recordMeasurement v s).monitor.c (recordMeasurement v s).budget.limit }

@[simp] theorem measured_frame (v : Nat) (s : State) :
    (measured v s).device = s.device ∧ (measured v s).cc = s.cc ∧ (measured v s).journal = s.journal ∧
      (measured v s).txns = s.txns ∧ (measured v s).store = s.store ∧ (measured v s).array = s.array ∧
      (measured v s).supply = s.supply ∧ (measured v s).clock = s.clock ∧ (measured v s).budget.held = s.budget.held ∧
      (measured v s).budget.exposed = s.budget.exposed ∧ (measured v s).budget.pressure = s.budget.pressure := by
  simp [measured]

theorem measured_b (v : Nat) (s : State) :
    (measured v s).budget.b = min (capacity s.monitor.inUse v) s.budget.limit := by
  simp [measured, recordMeasurement]

theorem measured_budgetLive (v : Nat) (s : State) : (measured v s).budgetLive = s.budgetLive := by
  simp [State.budgetLive]

theorem measured_dirtyCount (v : Nat) (s : State) : (measured v s).dirtyCount = s.dirtyCount := by
  simp [State.dirtyCount, State.countSegs]

/-- Exposure and pressure against the new B, with no grant made yet (R60, log entry 29). -/
def reassessed (v : Nat) (s : State) : State := recomputePressure (evalExposure (measured v s))

/-- B is recomputed while the budget unit is at work: exposure and pressure, then a grant run when B has risen (R60). -/
theorem recomputeBudget_live {v : Nat} {s : State} (h : s.budgetLive = true) :
    recomputeBudget (recordMeasurement v s) =
      grantAfter (decide (s.budget.b < (measured v s).budget.b)) (reassessed v s) := by
  have hlive : (measured v s).budgetLive = true := by rw [measured_budgetLive]; exact h
  rw [recomputeBudget]
  exact if_pos hlive

/-- In EMERGENCY and HALTED B alone is recomputed (R60, R118). -/
theorem recomputeBudget_dead {v : Nat} {s : State} (h : s.budgetLive = false) :
    recomputeBudget (recordMeasurement v s) = measured v s := by
  have hdead : ¬ (measured v s).budgetLive = true := by simp [measured_budgetLive, h]
  rw [recomputeBudget]
  exact if_neg hdead

theorem exec_measurement_off (v : Nat) {s : State} (h : s.device = .off) : exec (.measurement v) s = .next s := by
  simp only [exec, execMeasurement, h, if_true]

/-- The state that a measurement leaves, in every device state but OFF. -/
def afterMeasurement (v : Nat) (s : State) : State :=
  settle false (powerDecision v (sagWatch v (recomputeBudget (recordMeasurement v s))))

theorem exec_measurement (v : Nat) {s : State} (h : s.device ≠ .off) :
    exec (.measurement v) s = .next (afterMeasurement v s) := by
  simp only [exec, execMeasurement, if_neg h, afterMeasurement]

/-- The power controller acts in EMERGENCY and HALTED alone (R125). -/
theorem powerDecision_live (v : Nat) {s : State} (h : s.budgetLive = true) : powerDecision v s = s := by
  obtain ⟨hemergency, hhalted, -⟩ := (budgetLive_iff s).mp h
  exact if_neg fun hx => hx.1.elim hemergency hhalted

/-- A measurement while the budget unit is at work: the grant run of a risen B comes before the sag watch (log
entry 29). -/
theorem afterMeasurement_live (v : Nat) {s : State} (h : s.budgetLive = true) :
    afterMeasurement v s = settle false (sagWatch v
      (grantAfter (decide (s.budget.b < min (capacity s.monitor.inUse v) s.budget.limit)) (reassessed v s))) := by
  rw [afterMeasurement, recomputeBudget_live h, measured_b,
    powerDecision_live v (by simpa [State.budgetLive, reassessed] using h)]

theorem reassessed_sameLog (v : Nat) (s : State) : SameLog s (reassessed v s) := by
  refine ⟨?_, ?_, ?_, ?_, ?_, ?_, SameSegments.of_segs ?_⟩ <;> simp [reassessed]

/-! ### A verified pass that leaves its segment clean (R77) -/

theorem endJob_seg (i j : SegId) (s : State) :
    (endJob i s).seg j = if j = i then (s.seg i).stored else s.seg j := by
  rw [endJob, queueSeg_seg]
  by_cases h : j = i
  · rw [if_pos h, h]
    exact State.seg_modSeg_same { s with store.op := none } i Segment.stored
  · rw [if_neg h]
    exact State.seg_modSeg_other { s with store.op := none } Segment.stored h

/-- With no commit taken in during the job, the segment is clean after it (R77, step 2). -/
theorem stored_clean {g : Segment} (h : g.grewInStore = false) : g.stored.dirty = false := by
  simp [Segment.stored, Segment.dirty, h]

theorem exec_storePassEnd {i : SegId} {w : Nat} {agree : Bool} {s : State} (hop : s.store.op = some (.job i w))
    (hw : s.working = true) :
    exec (.storePassEnd agree) s = .next (settle true (passEnd i agree (passBytes i w agree s))) := by
  have hlive : (passBytes i w agree s).device ≠ .emergency := by
    rw [show (passBytes i w agree s).device = s.device by simp]
    exact ((budgetLive_iff s).mp (budgetLive_of_working hw)).1
  simp only [exec, execStorePassEnd, hop, if_neg hlive]

/-- The end of a job that leaves its segment clean reports the fall of D before S is recomputed (R61, R77). -/
theorem passEnd_clean {i : SegId} {s : State} (hst : (s.seg i).state = .openS ∨ (s.seg i).state = .full)
    (hgrew : (s.seg i).grewInStore = false) :
    passEnd i true s = countJob (recomputeS (onRelief (endJob i s))) := by
  have hfreeing : (s.seg i).state ≠ .freeing := by rcases hst with h | h <;> simp [h]
  have hclean : ((endJob i s).seg i).dirty = false := by
    rw [endJob_seg, if_pos rfl]
    exact stored_clean hgrew
  simp only [passEnd, if_neg hfreeing, if_true, hclean, Bool.false_eq_true, if_false]

/-- Exposure and pressure after a verified job, with no grant made yet (R61). -/
def jobRelieved (i : SegId) (s : State) : State := recomputePressure (evalExposure (endJob i s))

theorem jobRelieved_seg (i j : SegId) (s : State) : (jobRelieved i s).seg j = (endJob i s).seg j := by
  simp [jobRelieved, State.seg]

theorem onRelief_endJob {i : SegId} {s : State} (h : s.budgetLive = true) :
    onRelief (endJob i s) = grantRun (jobRelieved i s) :=
  if_pos (by simpa [State.budgetLive] using h)

/-- What the end of the job leaves to the grant run (R77, log entry 37). -/
theorem jobRelieved_leaves (i : SegId) (s : State) :
    (jobRelieved i s).budget.held = s.budget.held ∧ (jobRelieved i s).store.op = none ∧
      (jobRelieved i s).txns = s.txns ∧ (jobRelieved i s).journal.nextSeq = s.journal.nextSeq := by
  refine ⟨by simp [jobRelieved], ?_, by simp [jobRelieved], by simp [jobRelieved]⟩
  simp [jobRelieved, endJob]

/-- Settles O26: the run by one grant at a time, the grant by the outcomes of its attempt, and the two events that start
a run by what they do before it. -/
theorem grantRunRule : Obligations.GrantRunRule := by
  refine ⟨fun s => ⟨grantRun_none_held, fun h rest hheld => ⟨fun hnot => ?_, fun r hx => ⟨fun hg => ?_,
    fun hactive => ⟨fun status href => grant_refused hactive href,
      fun hnot hroom => grant_committed hactive hx hnot hroom, fun reason hnot hclean hown => ?_⟩⟩⟩⟩,
    fun s v hlive => ?_, fun s i w hop hw hst hgrew => ?_⟩
  · exact grantRun_rests hheld (Bool.eq_false_iff.mpr fun hg => hnot ((grantable_iff s h).mp hg))
  · have hrun := grantRun_grants hheld ((grantable_iff s h).mpr hg) hx
    exact ⟨fun hagain => by rw [hrun, if_pos hagain], fun hgone => by rw [hrun, if_neg hgone]⟩
  · exact grant_heldAgain hx (by rw [hheld]; exact List.mem_cons_self) rfl hnot hclean (ownRefusal_some hown)
  · obtain ⟨-, -, hoff⟩ := (budgetLive_iff s).mp hlive
    refine ⟨reassessed v s, ?_, by simp [reassessed], by simp [reassessed, measured_b],
      reassessed_sameLog v s⟩
    rw [exec_measurement v hoff, afterMeasurement_live v hlive]
  · have hseg : (passBytes i w true s).seg i = s.seg i := by simp [State.seg]
    have hlive : (passBytes i w true s).budgetLive = true := by
      simpa [State.budgetLive] using budgetLive_of_working hw
    obtain ⟨hheld, hnone, htxns, hseq⟩ := jobRelieved_leaves i (passBytes i w true s)
    refine ⟨jobRelieved i (passBytes i w true s), ?_, hheld.trans (by simp), ?_, fun j hj => ?_, hnone,
      htxns.trans (by simp), hseq.trans (by simp)⟩
    · rw [exec_storePassEnd hop hw, passEnd_clean (by rwa [hseg]) (by rwa [hseg]), onRelief_endJob hlive]
    · rw [jobRelieved_seg, endJob_seg, if_pos rfl, hseg]
      exact stored_clean hgrew
    · rw [jobRelieved_seg, endJob_seg, if_neg hj]
      simp [State.seg]

end Sys2Proof.Machine


namespace Sys2Proof.Machine

/-! ### The alerts of one kind (R171) -/

/-- An occurrence of another kind leaves a kind's record as it is. -/
theorem foldAlert_filter_other {kind k : AlertKind} (n d : Nat) (stamp : Stamp) (alerts : List AlertRecord)
    (h : kind ≠ k) :
    (foldAlert kind n d stamp alerts).filter (fun a => a.kind == k) = alerts.filter (fun a => a.kind == k) := by
  simp only [foldAlert]
  split
  · next hany =>
    clear hany
    induction alerts with
    | nil => rfl
    | cons a l ih =>
      rw [List.map_cons, List.filter_cons, List.filter_cons, ih]
      by_cases ha : a.kind = kind <;> simp [ha, h]
  · simp [h]

/-- An alert that no waiter takes is folded into the list (R171, R173). -/
theorem postAlert_eq {kind : AlertKind} {n d : Nat} {s : State} (h : s.cc.alertWaiters = []) :
    postAlert kind n d s = { s with cc.alerts := foldAlert kind n d s.clock.reading s.cc.alerts } := by
  simp only [postAlert, h]

/-- The record of kind `k` is as it was, and no alert waiter has come. -/
def KindKept (k : AlertKind) (s t : State) : Prop :=
  (s.cc.alertWaiters = [] → t.cc.alertWaiters = []) ∧
    t.cc.alerts.filter (fun a => a.kind == k) = s.cc.alerts.filter (fun a => a.kind == k)

theorem KindKept.of_eq {k : AlertKind} {s t : State} (hw : t.cc.alertWaiters = s.cc.alertWaiters)
    (ha : t.cc.alerts = s.cc.alerts) : KindKept k s t := ⟨fun h => hw.trans h, by rw [ha]⟩

theorem KindKept.trans {k : AlertKind} {s t u : State} (a : KindKept k s t) (b : KindKept k t u) : KindKept k s u :=
  ⟨fun h => b.1 (a.1 h), b.2.trans a.2⟩

theorem postAlert_kindKept {kind k : AlertKind} (n d : Nat) (s : State) (h : kind ≠ k) :
    KindKept k s (postAlert kind n d s) := by
  cases hw : s.cc.alertWaiters with
  | nil =>
    rw [postAlert_eq hw]
    exact ⟨fun h => h, foldAlert_filter_other n d _ _ h⟩
  | cons tag rest =>
    refine ⟨fun hnil => absurd (hw.symm.trans hnil) (by simp), ?_⟩
    simp [postAlert, hw]

theorem noteSpace_kindKept {k : AlertKind} (fp : Nat) (s : State) (h : .journalFull ≠ k) :
    KindKept k s (noteSpace fp s) := by
  simp only [noteSpace]
  split
  · exact .of_eq rfl rfl
  · exact postAlert_kindKept _ _ { s with journal.full := true } h

theorem afterReason_kindKept {k : AlertKind} (fp : Nat) (s : State) (reason : HoldReason) (h : .journalFull ≠ k) :
    KindKept k s (afterReason fp s reason) := by
  cases reason with
  | space => exact (noteSpace_kindKept fp s h).trans (.of_eq (by simp [afterReason]) (by simp [afterReason]))
  | budget => exact .of_eq (by simp [afterReason]) (by simp [afterReason])

theorem commit_kindKept {k : AlertKind} (c : ChanId) (r : Request) (s : State) : KindKept k s (commit c r s) := by
  simp only [commit]
  split
  · exact .of_eq (by simp) (by simp)
  · simp only [decideCompletion]
    (repeat' split) <;> exact .of_eq (by simp) (by simp)

/-- A grant posts no alert but JOURNAL_FULL (R101). -/
theorem grant_kindKept {k : AlertKind} (c : ChanId) (r : Executing) (s : State) (h : .journalFull ≠ k) :
    KindKept k s (commitAttempt true c r s) := by
  have htake : KindKept k s (takeTxnReservation c r s) := .of_eq (by simp) (by simp)
  simp only [commitAttempt]
  split
  · rw [removeTxn_of_refusal]
    exact .of_eq (by simp) (by simp)
  · split
    · split
      · rw [holdRequest_grant]
        refine htake.trans (KindKept.trans (.of_eq ?_ ?_) (afterReason_kindKept _ _ _ h)) <;> simp [heldAgain]
      · exact htake.trans (commit_kindKept c r.req _)
    · exact htake.trans (commit_kindKept c r.req _)

theorem grantLoop_kindKept {k : AlertKind} (n : Nat) (s : State) (h : .journalFull ≠ k) :
    KindKept k s (grantLoop n s) := by
  induction n generalizing s with
  | zero => exact .of_eq rfl rfl
  | succ n ih =>
    cases hheld : s.budget.held with
    | nil => rw [grantLoop_empty _ hheld]; exact .of_eq rfl rfl
    | cons x rest =>
      cases hg : s.grantable x with
      | false => rw [grantLoop_rests _ hheld hg]; exact .of_eq rfl rfl
      | true =>
        cases hx : (s.chan x.chan).exec with
        | none => rw [grantLoop_idle _ hheld hx]; exact .of_eq rfl rfl
        | some r =>
          rw [grantLoop_grants n hheld hg hx]
          split
          · exact grant_kindKept x.chan r s h
          · exact (grant_kindKept x.chan r s h).trans (ih _)

theorem grantAfter_kindKept {k : AlertKind} (b : Bool) (s : State) (h : .journalFull ≠ k) :
    KindKept k s (grantAfter b s) := by
  cases b with
  | false => exact .of_eq rfl rfl
  | true => exact grantLoop_kindKept _ s h

theorem evalExposureBut_kindKept {k : AlertKind} (lost : Waiter → Bool) (s : State) (hexposed : .exposed ≠ k)
    (hended : .exposureEnded ≠ k) : KindKept k s (evalExposureBut lost s) := by
  simp only [evalExposureBut]
  split
  · split
    · split
      · exact (postAlert_kindKept 0 (exposureDetail s.dirtyCount s.budget.b)
          { s with budget.exposed := false } hended).trans (.of_eq (by simp) (by simp))
      · exact .of_eq rfl rfl
    · split
      · exact postAlert_kindKept _ _ { s with budget.exposed := true } hexposed
      · exact .of_eq rfl rfl
  · exact .of_eq rfl rfl

theorem reassessed_kindKept (v : Nat) (s : State) : KindKept .holdupFault s (reassessed v s) := by
  have hmeasured : KindKept .holdupFault s (measured v s) := .of_eq (by simp) (by simp)
  have hexposure := evalExposureBut_kindKept (k := .holdupFault) (fun _ => false) (measured v s) (by decide) (by decide)
  exact (hmeasured.trans hexposure).trans (.of_eq (by simp [reassessed]) (by simp [reassessed]))

/-- What a new B brings about posts no HOLDUP_FAULT (R60). -/
theorem recomputeBudget_kindKept (v : Nat) (s : State) :
    KindKept .holdupFault s (recomputeBudget (recordMeasurement v s)) := by
  cases hlive : s.budgetLive with
  | false => rw [recomputeBudget_dead hlive]; exact .of_eq (by simp) (by simp)
  | true =>
    rw [recomputeBudget_live hlive]
    exact (reassessed_kindKept v s).trans (grantAfter_kindKept _ _ (by decide))

end Sys2Proof.Machine


namespace Sys2Proof.Machine

/-! ### The sag run (R58, log entry 26) -/

/-- What a measurement does to the sag run: nothing outside CHARGED; a reading of 8.0 V or more ends the run; one below
starts it, lets it go on, or from 200 ms on raises its one fault. -/
theorem sagWatch_cases (v : Nat) (s : State) :
    (s.monitor.charge ≠ .charged ∧ sagWatch v s = s) ∨
    (s.monitor.charge = .charged ∧ 8000 ≤ v ∧
      sagWatch v s = { s with monitor.sagStart := none, monitor.sagRaised := false }) ∨
    (s.monitor.charge = .charged ∧ v < 8000 ∧ s.monitor.sagStart = none ∧
      sagWatch v s = { s with monitor.sagStart := some s.now, monitor.sagRaised := false }) ∨
    (∃ t, s.monitor.charge = .charged ∧ v < 8000 ∧ s.monitor.sagStart = some t ∧ 200000 ≤ s.now - t ∧
      s.monitor.sagRaised = false ∧ sagWatch v s = holdupFault 3 v { s with monitor.sagRaised := true }) ∨
    ∃ t, s.monitor.charge = .charged ∧ v < 8000 ∧ s.monitor.sagStart = some t ∧
      (200000 ≤ s.now - t → s.monitor.sagRaised = true) ∧ sagWatch v s = s := by
  by_cases hcharged : s.monitor.charge = .charged
  · by_cases hv : 8000 ≤ v
    · exact .inr (.inl ⟨hcharged, hv, by rw [sagWatch, if_pos hcharged, if_pos hv]⟩)
    · have hlow : v < 8000 := Nat.lt_of_not_le hv
      cases hstart : s.monitor.sagStart with
      | none =>
        exact .inr (.inr (.inl ⟨hcharged, hlow, rfl, by rw [sagWatch, if_pos hcharged, if_neg hv, hstart]⟩))
      | some t =>
        by_cases hraise : 200000 ≤ s.now - t ∧ s.monitor.sagRaised = false
        · obtain ⟨hlong, hfresh⟩ := hraise
          refine .inr (.inr (.inr (.inl ⟨t, hcharged, hlow, rfl, hlong, hfresh, ?_⟩)))
          rw [sagWatch, if_pos hcharged, if_neg hv, hstart]
          exact if_pos ⟨hlong, by simp [hfresh]⟩
        · refine .inr (.inr (.inr (.inr ⟨t, hcharged, hlow, rfl, fun hlong => ?_, ?_⟩)))
          · simpa [hlong] using hraise
          · rw [sagWatch, if_pos hcharged, if_neg hv, hstart]
            exact if_neg (by simpa using hraise)
  · exact .inl ⟨hcharged, by rw [sagWatch, if_neg hcharged]⟩

end Sys2Proof.Machine


namespace Sys2Proof.Machine

/-! ### What a measurement makes of the sag run and of its fault (R58) -/

theorem sagWatch_monitor (v : Nat) (s : State) : (sagWatch v s).monitor =
    { s.monitor with
      sagStart := (sagWatch v s).monitor.sagStart, sagRaised := (sagWatch v s).monitor.sagRaised } := by
  rcases sagWatch_cases v s with ⟨-, h⟩ | ⟨-, -, h⟩ | ⟨-, -, -, h⟩ | ⟨t, -, -, -, -, -, h⟩ | ⟨t, -, -, -, -, h⟩ <;>
    rw [h]
  simp

/-- The run in CHARGED: ended by 8.0 V, started or kept by a reading below it; from 200 ms on the fault has been
raised. -/
theorem sagWatch_run (v : Nat) {s : State} (hcharged : s.monitor.charge = .charged) :
    (8000 ≤ v → (sagWatch v s).monitor.sagStart = none ∧ (sagWatch v s).monitor.sagRaised = false) ∧
    (v < 8000 → s.monitor.sagStart = none →
      (sagWatch v s).monitor.sagStart = some s.now ∧ (sagWatch v s).monitor.sagRaised = false) ∧
    ∀ t, v < 8000 → s.monitor.sagStart = some t → (sagWatch v s).monitor.sagStart = some t ∧
      (200000 ≤ s.now - t → (sagWatch v s).monitor.sagRaised = true) := by
  rcases sagWatch_cases v s with ⟨hnot, -⟩ | ⟨-, hv, h⟩ | ⟨-, hv, hnone, h⟩ | ⟨t, -, hv, hsome, -, -, h⟩ |
    ⟨t, -, hv, hsome, hlong, h⟩
  · exact absurd hcharged hnot
  · rw [h]
    exact ⟨fun _ => ⟨rfl, rfl⟩, fun hlow => by omega, fun t hlow => by omega⟩
  · rw [h]
    exact ⟨fun hhigh => by omega, fun _ _ => ⟨rfl, rfl⟩, fun t _ ht => (nomatch hnone.symm.trans ht)⟩
  · rw [h]
    refine ⟨fun hhigh => by omega, fun _ hn => (nomatch hsome.symm.trans hn), fun u _ hu => ?_⟩
    simpa using hu
  · rw [h]
    refine ⟨fun hhigh => by omega, fun _ hn => (nomatch hsome.symm.trans hn), fun u _ hu => ⟨hu, fun hl => ?_⟩⟩
    obtain rfl : t = u := Option.some.inj (hsome.symm.trans hu)
    exact hlong hl

/-- Outside CHARGED nothing is watched. -/
theorem sagWatch_uncharged (v : Nat) {s : State} (h : s.monitor.charge ≠ .charged) : sagWatch v s = s := if_neg h

/-- The fault of a run that has lasted 200 ms and has raised none (R58, R171). -/
theorem sagWatch_raises {v t : Nat} {s : State} (hcharged : s.monitor.charge = .charged) (hv : v < 8000)
    (hstart : s.monitor.sagStart = some t) (hlong : 200000 ≤ s.now - t) (hfresh : s.monitor.sagRaised = false)
    (hw : s.cc.alertWaiters = []) :
    ∃ a ∈ (sagWatch v s).cc.alerts, a.kind = .holdupFault ∧ a.seqValue = 0 ∧ a.detail = 3 + v * 2 ^ 32 ∧
      a.stamp = s.clock.reading := by
  have h : sagWatch v s = holdupFault 3 v { s with monitor.sagRaised := true } := by
    rw [sagWatch, if_pos hcharged, if_neg (by omega), hstart]
    exact if_pos ⟨hlong, by simp [hfresh]⟩
  rw [h]
  exact postAlert_listed (s := { s with monitor.sagRaised := true }) hw

/-- No other reading raises one, and the mark of the run is set by no other. -/
theorem sagWatch_quiet (v : Nat) (s : State) :
    (s.monitor.charge = .charged ∧ v < 8000 ∧ s.monitor.sagRaised = false ∧
        ∃ t, s.monitor.sagStart = some t ∧ 200000 ≤ s.now - t) ∨
      (sagWatch v s).cc.alerts = s.cc.alerts ∧
        ((sagWatch v s).monitor.sagRaised = true →
          s.monitor.sagRaised = true ∧ (s.monitor.charge = .charged → v < 8000)) := by
  rcases sagWatch_cases v s with ⟨hnot, h⟩ | ⟨-, -, h⟩ | ⟨-, -, -, h⟩ | ⟨t, hcharged, hv, hstart, hlong, hfresh, -⟩ |
    ⟨t, -, hv, -, -, h⟩
  · exact Or.inr (by rw [h]; exact ⟨rfl, fun hr => ⟨hr, fun hc => absurd hc hnot⟩⟩)
  · exact Or.inr (by rw [h]; exact ⟨rfl, nofun⟩)
  · exact Or.inr (by rw [h]; exact ⟨rfl, nofun⟩)
  · exact Or.inl ⟨hcharged, hv, hfresh, t, hstart, hlong⟩
  · exact Or.inr (by rw [h]; exact ⟨rfl, fun hr => ⟨hr, fun _ => hv⟩⟩)

/-- A sag fault is no other kind of alert, and without alert waiters it takes no slot. -/
theorem sagWatch_kindKept {k : AlertKind} (v : Nat) (s : State) (h : .holdupFault ≠ k) :
    KindKept k s (sagWatch v s) := by
  rcases sagWatch_cases v s with ⟨-, e⟩ | ⟨-, -, e⟩ | ⟨-, -, -, e⟩ | ⟨t, -, -, -, -, -, e⟩ | ⟨t, -, -, -, -, e⟩ <;>
    rw [e]
  case inr.inr.inr.inl => exact postAlert_kindKept _ _ { s with monitor.sagRaised := true } h
  all_goals exact .of_eq rfl rfl

theorem sagWatch_posts (v : Nat) {s : State} (hw : s.cc.alertWaiters = []) :
    (sagWatch v s).cc.posts = s.cc.posts := by
  rcases sagWatch_cases v s with ⟨-, e⟩ | ⟨-, -, e⟩ | ⟨-, -, -, e⟩ | ⟨t, -, -, -, -, -, e⟩ | ⟨t, -, -, -, -, e⟩ <;>
    rw [e]
  rw [holdupFault, postAlert_eq (s := { s with monitor.sagRaised := true }) hw]

end Sys2Proof.Machine


namespace Sys2Proof.Machine

/-! ### The evaluation of exposure, with no alert waiter (R66, R67) -/

/-- Exposure that already says whether D is above B is left as it is. -/
theorem evalExposure_stays {s : State} (h : s.budget.exposed = decide (s.budget.b < s.dirtyCount)) :
    evalExposure s = s := by
  simp only [evalExposureBut]
  (repeat' split) <;> simp_all
  omega

section
variable {s : State} (hlive : s.budgetLive = true) (hw : s.cc.alertWaiters = [])
include hlive hw

/-- Exposure ends: its alert is posted, and then the records that wait for the end are answered. -/
theorem evalExposure_ends (hx : s.budget.exposed = true) (hd : s.dirtyCount ≤ s.budget.b) : evalExposure s =
    finishWaiters (fun w => w.kind == .appendExposed && !false) .ok { s with
      budget.exposed := false,
      cc.alerts :=
        foldAlert .exposureEnded 0 (exposureDetail s.dirtyCount s.budget.b) s.clock.reading s.cc.alerts } := by
  simp only [evalExposureBut, hlive, hx, hd, if_true]
  rw [postAlert_eq (s := { s with budget.exposed := false }) hw]

/-- Exposure begins: its alert is posted. -/
theorem evalExposure_begins (hx : s.budget.exposed = false) (hd : s.budget.b < s.dirtyCount) : evalExposure s = { s with
      budget.exposed := true,
      cc.alerts := foldAlert .exposed 0 (exposureDetail s.dirtyCount s.budget.b) s.clock.reading s.cc.alerts } := by
  simp only [evalExposureBut, hlive, hx, hd, if_true, Bool.false_eq_true, if_false]
  rw [postAlert_eq (s := { s with budget.exposed := true }) hw]

/-- The exposure state and its alerts after an evaluation. -/
theorem evalExposure_follows : ExposureFollows true s.dirtyCount s (evalExposure s) := by
  have hexposed := evalExposureBut_exposed (fun _ => false) hlive
  have hb : (evalExposure s).budget.b = s.budget.b := by simp
  refine ⟨by rw [hexposed, hb]; rfl, fun kind hkind => ?_⟩
  rw [hexposed, hb]
  have hother := fun k => foldAlert_filter_other (kind := k) (k := kind) 0
    (exposureDetail s.dirtyCount s.budget.b) s.clock.reading s.cc.alerts
  by_cases hstays : s.budget.exposed = decide (s.budget.b < s.dirtyCount)
  · rw [evalExposure_stays hstays, hstays, if_neg]
    rintro (⟨-, h1, h2⟩ | ⟨-, h1, h2⟩) <;> rw [h1] at h2 <;> cases h2
  · cases hx : s.budget.exposed with
    | true =>
      have hd : s.dirtyCount ≤ s.budget.b := by simpa [hx] using hstays
      have hbelow : decide (s.budget.b < s.dirtyCount) = false := by simpa using hd
      rw [evalExposure_ends hlive hw hx hd, hbelow]
      simp only [finishWaiters_frame]
      rcases hkind with rfl | rfl
      · rw [if_neg (by simp)]
        exact hother _ (by decide)
      · rw [if_pos (by simp)]
        rfl
    | false =>
      have hd : s.budget.b < s.dirtyCount := by simpa [hx] using hstays
      rw [evalExposure_begins hlive hw hx hd, decide_eq_true hd]
      rcases hkind with rfl | rfl
      · rw [if_pos (by simp)]
        rfl
      · rw [if_neg (by simp)]
        exact hother _ (by decide)

/-- The records that the end of exposure satisfies are answered in wait-list order, and no others. -/
theorem evalExposure_answers :
    Answers (s.budget.exposed && decide (s.dirtyCount ≤ s.budget.b)) [] s (evalExposure s) := by
  have hthrough : (evalExposure s).store.storedThrough = s.store.storedThrough := by simp
  have hcover : ∀ ended, s.coverAnswers ended s.store.storedThrough = [] := fun ended => by simp [State.coverAnswers]
  unfold Answers
  rw [hthrough, hcover, List.append_nil, List.append_nil, evalExposureBut_waiting _ hlive]
  by_cases hended : s.budget.exposed = true ∧ s.dirtyCount ≤ s.budget.b
  · obtain ⟨hx, hd⟩ := hended
    have hanswers : s.exposureAnswers (s.budget.exposed && decide (s.dirtyCount ≤ s.budget.b)) =
        s.store.waiting.filter (fun w => w.kind == .appendExposed && !false) := by simp [State.exposureAnswers, hx, hd]
    rw [if_pos ⟨hx, hd⟩, hanswers, evalExposure_ends hlive hw hx hd]
    refine ⟨by simp [hx, hd], fun hcan => ?_⟩
    exact completeWaiters_takenBy .ok _ (s := { s with
      budget.exposed := false,
      cc.alerts := foldAlert .exposureEnded 0 (exposureDetail s.dirtyCount s.budget.b) s.clock.reading s.cc.alerts,
      store.waiting := s.store.waiting.filter (fun w => !(w.kind == .appendExposed && !false)) }) hcan
  · have hstays : (s.budget.exposed && decide (s.dirtyCount ≤ s.budget.b)) = false := by simpa using hended
    have hposts : (evalExposure s).cc.posts = s.cc.posts := by
      cases hx : s.budget.exposed with
      | true => rw [evalExposure_stays (by simpa [hx] using hended)]
      | false =>
        by_cases hd : s.budget.b < s.dirtyCount
        · rw [evalExposure_begins hlive hw hx hd]
        · rw [evalExposure_stays (by simpa [hx] using hd)]
    rw [if_neg hended, hstays]
    refine ⟨by simp, fun _ => ?_⟩
    simp [State.takenBy, hposts, State.exposureAnswers, endings]

end

end Sys2Proof.Machine


namespace Sys2Proof.Machine

/-! ### Entry to OFF (R125, R146) -/

/-- Outside READY and RUNNING nothing starts at the end of an event. -/
theorem settle_idle (test : Bool) {s : State} (h : s.working = false) : settle test s = s := by
  have hline : lineStoreTest s = s := if_neg (by simp [h])
  have hnext : startNext test s = s := if_neg (by simp [State.mayStart, h])
  have hdevice : (s.device == .running) = false := by
    rw [State.working, Bool.or_eq_false_iff] at h
    exact h.2
  have hnone : (servingOrder s.cc.lastServed).find? s.eligible = none :=
    List.find?_eq_none.mpr fun c _ => by simp [State.eligible, hdevice]
  rw [settle, hline, hnext, fetchArbiter]
  split
  · rfl
  · rw [hnone]

theorem working_false_of_not_live {s : State} (h : s.budgetLive = false) : s.working = false := by
  cases hw : s.working with
  | false => rfl
  | true => rw [budgetLive_of_working hw] at h; cases h

/-- OFF: nothing is in flight, and PSTORE# is not driven (R125, R127). -/
theorem enterOff_quiet (s : State) :
    (enterOff s).device = .off ∧ (enterOff s).store.op = none ∧ (enterOff s).supply.driveLow = false ∧
      (enterOff s).array = s.array ∧ (enterOff s).journal = s.journal := by
  simp only [enterOff]
  split <;> simp

theorem slotOf_of_array {s t : State} (h : t.array = s.array) (slot : Slot) : t.slotOf slot = s.slotOf slot := by
  cases slot <;> simp [State.slotOf, h]

theorem setSlot_slotOf (slot : Slot) (x : Option Checkpoint) (s : State) :
    (setSlot slot x s).slotOf slot = x ∧ (∀ other, other ≠ slot → (setSlot slot x s).slotOf other = s.slotOf other) ∧
      (setSlot slot x s).array.closing = s.array.closing := by
  refine ⟨?_, fun other hne => ?_, ?_⟩
  · cases slot <;> rfl
  · cases slot <;> cases other <;> simp_all [setSlot, State.slotOf]
  · cases slot <;> rfl

/-- A checkpoint write cut short leaves its slot invalid, or, a background write with no failed verify, as it was
(R125, log entry 8). -/
theorem cutOperation_checkpoint {slot : Slot} {x : Checkpoint} {k : Nat} {s : State}
    (h : s.store.op = some (.checkpoint slot x k)) :
    ((cutOperation s).slotOf slot = none ∨
        x.emergency = false ∧ k = 0 ∧ (cutOperation s).slotOf slot = s.slotOf slot) ∧
      (∀ other, other ≠ slot → (cutOperation s).slotOf other = s.slotOf other) ∧
      (cutOperation s).array.closing = s.array.closing := by
  simp only [cutOperation, h]
  split
  · obtain ⟨hslot, hothers, hclosing⟩ := setSlot_slotOf slot none s
    exact ⟨Or.inl hslot, hothers, hclosing⟩
  · next hbackground =>
    rw [cutCheckpointWrite]
    split
    · next hsurvives =>
      exact ⟨Or.inr ⟨by simpa using hbackground, hsurvives.1, rfl⟩, fun _ _ => rfl, rfl⟩
    · obtain ⟨hslot, hothers, hclosing⟩ := setSlot_slotOf slot none { s with free := s.free + 1 }
      exact ⟨Or.inl hslot, hothers, hclosing⟩

/-- A closing mark's write cut short leaves no mark. -/
theorem cutOperation_closingMark {m : ClosingMark} {k : Nat} {s : State} (h : s.store.op = some (.closingMark m k)) :
    (cutOperation s).array.closing = none ∧ ∀ slot, (cutOperation s).slotOf slot = s.slotOf slot := by
  rw [cutOperation, h]
  exact ⟨rfl, fun slot => by cases slot <;> rfl⟩

/-- A pass cut short has copied up to a free byte at or after the last known one (R125, log entry 6). -/
theorem cutOperation_job {i : SegId} {w : Nat} {s : State} (h : s.store.op = some (.job i w)) :
    (∃ n, w ≤ n ∧ ∀ a, (cutOperation s).array.shadow.read a =
        if segBase i + w ≤ a ∧ a < segBase i + min 4096 n then s.journal.sram.read a else s.array.shadow.read a) ∧
      ∀ slot, (cutOperation s).slotOf slot = s.slotOf slot := by
  simp only [cutOperation, h, advanceCopy, if_true]
  exact ⟨⟨w + Config.freePosition s.free, Nat.le_add_right _ _, fun a => Memory.read_copyRange _ _ _ _ _⟩,
    fun slot => by cases slot <;> rfl⟩

end Sys2Proof.Machine


namespace Sys2Proof.Machine

/-! ### What every measurement records (R57) -/

theorem capacity_table :
    capacity (100 * 12) 10000 = 38 ∧ capacity (100 * 12) 6300 = 0 ∧ capacity (470 * 12) 10000 = 255 ∧
      capacity (470 * 12) 9600 = 232 ∧ capacity (470 * 12) 9300 = 215 ∧ capacity (470 * 12) 9100 = 204 ∧
      capacity (470 * 12) 9000 = 199 ∧ capacity (470 * 12) 3700 = 1 ∧ capacity (1000 * 12) 10000 = 512 := by
  decide

/-- The state in which the sag run is watched: V, C and B are recorded, the sag run is as it was (R57, R60). -/
theorem recomputeBudget_recorded (v : Nat) (s : State) :
    (recomputeBudget (recordMeasurement v s)).monitor = { s.monitor with
        v := v, c := capacity s.monitor.inUse v, nextMeasurement := s.monitor.nextMeasurement + 5000 } ∧
      (recomputeBudget (recordMeasurement v s)).now = max s.now s.monitor.nextMeasurement ∧
      (recomputeBudget (recordMeasurement v s)).budget.b = min (capacity s.monitor.inUse v) s.budget.limit ∧
      (recomputeBudget (recordMeasurement v s)).clock.reading = s.clock.reading := by
  refine ⟨?_, ?_, ?_, ?_⟩
  · simp [recordMeasurement]
  · simp [recordMeasurement, State.reachTime]
  · cases hlive : s.budgetLive with
    | false => rw [recomputeBudget_dead hlive, measured_b]
    | true => simp [recomputeBudget_live hlive, reassessed, measured_b]
  · simp [Clock.reading]

theorem afterMeasurement_frame (v : Nat) (s : State) :
    (afterMeasurement v s).monitor = (sagWatch v (recomputeBudget (recordMeasurement v s))).monitor ∧
      (afterMeasurement v s).now = (recomputeBudget (recordMeasurement v s)).now ∧
      (afterMeasurement v s).budget = (recomputeBudget (recordMeasurement v s)).budget ∧
      (afterMeasurement v s).cc.alerts = (sagWatch v (recomputeBudget (recordMeasurement v s))).cc.alerts := by
  simp [afterMeasurement]

/-- V, C, B and the times of a measurement (R57, R60, log entry 3). -/
theorem afterMeasurement_records (v : Nat) (s : State) :
    (afterMeasurement v s).monitor.v = v ∧ (afterMeasurement v s).monitor.c = capacity s.monitor.inUse v ∧
      (afterMeasurement v s).budget.b = min (capacity s.monitor.inUse v) s.budget.limit ∧
      (afterMeasurement v s).monitor.inUse = s.monitor.inUse ∧
      (afterMeasurement v s).monitor.nextMeasurement = s.monitor.nextMeasurement + 5000 ∧
      (afterMeasurement v s).now = max s.now s.monitor.nextMeasurement := by
  obtain ⟨hmonitor, hnow, hb, -⟩ := recomputeBudget_recorded v s
  obtain ⟨hmonitor', hnow', hbudget', -⟩ := afterMeasurement_frame v s
  rw [hmonitor', sagWatch_monitor, hmonitor, hbudget', hb, hnow', hnow]
  simp

/-- The sag run in CHARGED (R58). -/
theorem afterMeasurement_run (v : Nat) {s : State} (hcharged : s.monitor.charge = .charged) :
    (8000 ≤ v → (afterMeasurement v s).monitor.sagStart = none) ∧
    (v < 8000 → s.monitor.sagStart = none →
      (afterMeasurement v s).monitor.sagStart = some (afterMeasurement v s).now) ∧
    ∀ t, v < 8000 → s.monitor.sagStart = some t → (afterMeasurement v s).monitor.sagStart = some t ∧
      (200000 ≤ (afterMeasurement v s).now - t → (afterMeasurement v s).monitor.sagRaised = true) := by
  obtain ⟨hmonitor, -⟩ := recomputeBudget_recorded v s
  obtain ⟨hmonitor', hnow', -⟩ := afterMeasurement_frame v s
  obtain ⟨hends, hstarts, hgoesOn⟩ := sagWatch_run v (s := recomputeBudget (recordMeasurement v s))
    (by rw [hmonitor]; exact hcharged)
  rw [hmonitor] at hstarts hgoesOn
  rw [hmonitor', hnow']
  exact ⟨fun hv => (hends hv).1, fun hv hn => (hstarts hv hn).1, hgoesOn⟩

/-- The one fault of a run (R58). -/
theorem afterMeasurement_raises {v t : Nat} {s : State} (hcharged : s.monitor.charge = .charged) (hv : v < 8000)
    (hstart : s.monitor.sagStart = some t) (hlong : 200000 ≤ (afterMeasurement v s).now - t)
    (hfresh : s.monitor.sagRaised = false) (hw : s.cc.alertWaiters = []) :
    ∃ a ∈ (afterMeasurement v s).cc.alerts, a.kind = .holdupFault ∧ a.seqValue = 0 ∧ a.detail = 3 + v * 2 ^ 32 ∧
      a.stamp = s.clock.reading := by
  obtain ⟨hmonitor, -, -, hreading⟩ := recomputeBudget_recorded v s
  obtain ⟨-, hnow', -, halerts'⟩ := afterMeasurement_frame v s
  rw [halerts', ← hreading]
  rw [hnow'] at hlong
  exact sagWatch_raises (by rw [hmonitor]; exact hcharged) hv (by rw [hmonitor]; exact hstart) hlong
    (by rw [hmonitor]; exact hfresh) ((recomputeBudget_kindKept v s).1 hw)

theorem afterMeasurement_uncharged (v : Nat) {s : State} (h : s.monitor.charge ≠ .charged) :
    (afterMeasurement v s).monitor.sagStart = s.monitor.sagStart := by
  obtain ⟨hmonitor, -⟩ := recomputeBudget_recorded v s
  obtain ⟨hmonitor', -⟩ := afterMeasurement_frame v s
  rw [hmonitor', sagWatch_uncharged v (by rw [hmonitor]; exact h), hmonitor]

/-- At every other reading no HOLDUP_FAULT is posted (R58, log entry 26). -/
theorem afterMeasurement_quiet (v : Nat) (s : State) :
    (s.monitor.charge = .charged ∧ v < 8000 ∧ s.monitor.sagRaised = false ∧
        ∃ t, s.monitor.sagStart = some t ∧ 200000 ≤ (afterMeasurement v s).now - t) ∨
      (afterMeasurement v s).cc.alerts.filter (fun a => a.kind == .holdupFault) =
          s.cc.alerts.filter (fun a => a.kind == .holdupFault) ∧
        ((afterMeasurement v s).monitor.sagRaised = true →
          s.monitor.sagRaised = true ∧ (s.monitor.charge = .charged → v < 8000)) := by
  obtain ⟨hmonitor, -⟩ := recomputeBudget_recorded v s
  obtain ⟨hmonitor', hnow', -, halerts'⟩ := afterMeasurement_frame v s
  have hquiet := sagWatch_quiet v (recomputeBudget (recordMeasurement v s))
  rw [hmonitor', hnow', halerts']
  rw [hmonitor] at hquiet
  refine hquiet.imp id fun ⟨halerts, hraised⟩ => ⟨?_, hraised⟩
  rw [halerts]
  exact (recomputeBudget_kindKept v s).2

/-! ### A measurement in the device states (R60, R66, R125) -/

/-- With no request held a measurement evaluates exposure and watches the sag run (R60, R66). -/
theorem afterMeasurement_none_held (v : Nat) {s : State} (hlive : s.budgetLive = true) (hheld : s.budget.held = []) :
    afterMeasurement v s = settle false (sagWatch v (reassessed v s)) := by
  rw [afterMeasurement_live v hlive, grantAfter, grantRun_none_held (by simp [reassessed, hheld]), ite_self]

theorem ExposureFollows.of_eq {evaluated : Bool} {d : Nat} {s t u v : State} (h : ExposureFollows evaluated d t u)
    (hs : t.budget.exposed = s.budget.exposed ∧ t.clock = s.clock ∧ t.cc.alerts = s.cc.alerts)
    (hv : v.budget.exposed = u.budget.exposed ∧ v.budget.b = u.budget.b)
    (halerts : ∀ kind, .holdupFault ≠ kind → KindKept kind u v) : ExposureFollows evaluated d s v := by
  obtain ⟨hexposed, hclock, hlist⟩ := hs
  obtain ⟨hvexposed, hb⟩ := hv
  unfold ExposureFollows at *
  rw [hexposed, hclock, hlist] at h
  rw [hvexposed, hb]
  refine ⟨h.1, fun kind hkind => (halerts kind ?_).2.trans (h.2 kind hkind)⟩
  rcases hkind with rfl | rfl <;> decide

theorem Answers.of_after {ended : Bool} {own : List (ChanId × Completion)} {s u v : State} (h : Answers ended own s u)
    (hw : v.store.waiting = u.store.waiting) (hs : v.store.storedThrough = u.store.storedThrough)
    (hp : v.cc.posts = u.cc.posts) : Answers ended own s v := by
  unfold Answers State.takenBy at *
  rwa [hw, hs, hp]

/-- Without alert waiters, what the evaluation of exposure has done stands at the end of the event. -/
theorem reassessed_exposure {v : Nat} {s u : State} (hlive : s.budgetLive = true) (hw : s.cc.alertWaiters = [])
    (hu : u = settle false (sagWatch v (reassessed v s))) :
    ExposureFollows true s.dirtyCount s u ∧
      Answers (s.budget.exposed && decide (s.dirtyCount ≤ u.budget.b)) [] s u := by
  have hlive' : (measured v s).budgetLive = true := by rw [measured_budgetLive]; exact hlive
  have hw' : (measured v s).cc.alertWaiters = [] := by simpa using hw
  have hfollows := evalExposure_follows hlive' hw'
  have hanswers := evalExposure_answers hlive' hw'
  rw [measured_dirtyCount] at hfollows hanswers
  have hb : u.budget.b = (measured v s).budget.b := by rw [hu]; simp [reassessed]
  rw [show (measured v s).budget.exposed = s.budget.exposed by simp, ← hb] at hanswers
  have hkept : ∀ kind, .holdupFault ≠ kind → KindKept kind (evalExposure (measured v s)) u := fun kind h => by
    rw [hu]
    exact (KindKept.trans (.of_eq (by simp [reassessed]) (by simp [reassessed]))
      (sagWatch_kindKept v (reassessed v s) h)).trans (.of_eq (by simp) (by simp))
  have hposts : u.cc.posts = (evalExposure (measured v s)).cc.posts := by
    have hnone : (reassessed v s).cc.alertWaiters = [] := (reassessed_kindKept v s).1 hw
    rw [hu, show (settle false (sagWatch v (reassessed v s))).cc.posts = (sagWatch v (reassessed v s)).cc.posts by simp,
      sagWatch_posts v hnone]
    simp [reassessed]
  refine ⟨hfollows.of_eq (by simp) (by rw [hu]; simp [reassessed]) hkept,
    (hanswers.of_eq (by simp) (by simp) (by simp)).of_after ?_ ?_ hposts⟩ <;> rw [hu] <;> simp [reassessed]

end Sys2Proof.Machine


namespace Sys2Proof.Machine

/-! ### The clauses of a measurement by the device state -/

/-- A measurement that finds no request held leaves the device state, the journal, S, the array and the clock. -/
theorem live_measurement_leaves {v : Nat} {s u : State} (hlive : s.budgetLive = true)
    (hu : u = settle false (sagWatch v (reassessed v s))) :
    u.budget.exposed = decide (min (capacity s.monitor.inUse v) s.budget.limit < s.dirtyCount) ∧
      u.device = s.device ∧ SameLog s u ∧ u.txns = s.txns ∧ u.store.storedThrough = s.store.storedThrough ∧
      u.array = s.array ∧ u.clock = s.clock := by
  have hlog : SameLog (reassessed v s) (sagWatch v (reassessed v s)) := by
    refine ⟨?_, ?_, ?_, ?_, ?_, ?_, SameSegments.of_segs ?_⟩ <;> simp
  have hexposed := evalExposureBut_exposed (fun _ => false) (s := measured v s)
    (by rw [measured_budgetLive]; exact hlive)
  rw [measured_dirtyCount, measured_b] at hexposed
  have hlogs := ((reassessed_sameLog v s).trans hlog).trans (settle_contents false _).1
  rw [← hu] at hlogs
  refine ⟨?_, ?_, hlogs, ?_, ?_, ?_, ?_⟩ <;> rw [hu]
  · rw [← hexposed]
    simp [reassessed]
  all_goals simp [reassessed]

/-- In EMERGENCY and HALTED a measurement is recorded, B recomputed and the sag run watched, and then the power
controller decides (R60, R125). -/
theorem afterMeasurement_dead (v : Nat) {s : State} (h : s.device = .emergency ∨ s.device = .halted) :
    afterMeasurement v s = powerDecision v (sagWatch v (measured v s)) := by
  have hdead : s.budgetLive = false := by rcases h with h | h <;> simp [State.budgetLive, h]
  have hidle : (powerDecision v (sagWatch v (measured v s))).working = false := by
    rw [powerDecision]
    split
    · simp [State.working, (enterOff_quiet _).1]
    · simpa [State.working] using working_false_of_not_live hdead
  rw [afterMeasurement, recomputeBudget_dead hdead, settle_idle false hidle]

/-- What the power controller meets at its decision: the sag watch has changed the alerts and the monitor alone. -/
theorem sagWatch_measured (v : Nat) (s : State) :
    (sagWatch v (measured v s)).device = s.device ∧ (sagWatch v (measured v s)).store = s.store ∧
      (sagWatch v (measured v s)).array = s.array ∧ (sagWatch v (measured v s)).journal = s.journal ∧
      (sagWatch v (measured v s)).budget.exposed = s.budget.exposed ∧
      (sagWatch v (measured v s)).budget.pressure = s.budget.pressure := by
  simp

/-- A reading below the floor cuts the operation in flight short and enters OFF (R125). -/
theorem afterMeasurement_below {v : Nat} {s : State} (h : s.device = .emergency ∨ s.device = .halted) (hv : v < 2500) :
    afterMeasurement v s = enterOff (cutOperation (sagWatch v (measured v s))) := by
  obtain ⟨hdevice, -⟩ := sagWatch_measured v s
  rw [afterMeasurement_dead v h, powerDecision, hdevice, if_pos ⟨h, hv⟩]

/-- At or above the floor nothing further happens. -/
theorem afterMeasurement_above {v : Nat} {s : State} (h : s.device = .emergency ∨ s.device = .halted) (hv : 2500 ≤ v) :
    afterMeasurement v s = sagWatch v (measured v s) := by
  rw [afterMeasurement_dead v h, powerDecision, if_neg (by omega)]

/-- Settles O52: what every measurement records, then the sag run by its cases, the evaluation of exposure where the
budget unit is at work, and the cut of each operation at the entry to OFF. -/
theorem measurementRule : Obligations.MeasurementRule := by
  refine ⟨capacity_table, fun s v => ⟨exec_measurement_off v, fun hon => ?_, fun hlive hheld => ?_, fun hdead hv => ?_,
    fun hdead hv => ?_⟩⟩
  · obtain ⟨hv, hc, hb, hinUse, hnext, hnow⟩ := afterMeasurement_records v s
    refine ⟨afterMeasurement v s, exec_measurement v hon, hv, hc, hb, hinUse, hnext, hnow,
      fun hcharged => (afterMeasurement_run v hcharged).1, fun hcharged => (afterMeasurement_run v hcharged).2.1,
      fun t hcharged hlow hstart => ?_, afterMeasurement_uncharged v, afterMeasurement_quiet v s⟩
    obtain ⟨-, -, hgoesOn⟩ := afterMeasurement_run v hcharged
    obtain ⟨hsame, hraised⟩ := hgoesOn t hlow hstart
    exact ⟨hsame, hraised, fun hlong hfresh hw => afterMeasurement_raises hcharged hlow hstart hlong hfresh hw⟩
  · obtain ⟨-, -, hoff⟩ := (budgetLive_iff s).mp hlive
    have hu := afterMeasurement_none_held v hlive hheld
    obtain ⟨hexposed, hdevice, hlog, htxns, hstored, harray, hclock⟩ := live_measurement_leaves hlive hu
    exact ⟨_, exec_measurement v hoff, hexposed, hdevice, hlog, htxns, hstored, harray, hclock,
      fun hw => reassessed_exposure hlive hw hu⟩
  · have hon : s.device ≠ .off := by rcases hdead with h | h <;> simp [h]
    obtain ⟨-, hstore, harray, hjournal, -⟩ := sagWatch_measured v s
    refine ⟨_, exec_measurement v hon, ?_⟩
    rw [afterMeasurement_below hdead hv]
    generalize sagWatch v (measured v s) = x at hstore harray hjournal ⊢
    obtain ⟨hdevice, hop, hdrive, harray', hjournal'⟩ := enterOff_quiet (cutOperation x)
    have hcut : (enterOff (cutOperation x)).journal = s.journal := by rw [hjournal', ← hjournal]; simp
    have hslots : ∀ slot, (enterOff (cutOperation x)).slotOf slot = (cutOperation x).slotOf slot :=
      slotOf_of_array harray'
    have hslotsBefore : ∀ slot, x.slotOf slot = s.slotOf slot := slotOf_of_array harray
    have hops : x.store.op = s.store.op := by rw [hstore]
    simp only [hslots, harray', ← hslotsBefore, ← hops, ← harray, ← hjournal] at hcut ⊢
    refine ⟨hdevice, hop, hdrive, by rw [hcut], ?_, fun slot y k => cutOperation_checkpoint,
      fun m k => cutOperation_closingMark, fun i w => cutOperation_job⟩
    exact fun i _ => SameSegments.of_segs (s := s) (by rw [hcut, hjournal]) i
  · have hon : s.device ≠ .off := by rcases hdead with h | h <;> simp [h]
    obtain ⟨hdevice, hstore, -, hjournal, hexposed, hpressure⟩ := sagWatch_measured v s
    refine ⟨_, exec_measurement v hon, ?_⟩
    rw [afterMeasurement_above hdead hv]
    refine ⟨hdevice, by rw [hstore], ⟨?_, ?_, ?_, ?_, ?_, ?_, SameSegments.of_segs ?_⟩, hexposed, hpressure⟩ <;>
      rw [hjournal]

end Sys2Proof.Machine


namespace Sys2Proof.Machine

/-! ### FLUSH at its execution (R87, R88) -/

/-- The FLUSH of a channel holds its wait-list record; the channel has left the reservation waiters (R84). -/
def flushState (c : ChanId) (r : Executing) (waiters : List ChanId) (s : State) : State :=
  withRequest c { r with waitReserved := true } s.staging.buffers waiters s

/-- The waiting record of a FLUSH: its target is the last sequence number given (R87). -/
def flushWaiter (c : ChanId) (r : Request) (s : State) : Waiter :=
  { chan := c, tag := r.tag, kind := .flush, target := s.journal.nextSeq - 1, seq := s.journal.nextSeq - 1,
    stamp := Stamp.zero, reqKind := .flush, serial := 0, index := 0 }

theorem takeReservation_flush {c : ChanId} {r : Executing} {s : State} {waiters : List ChanId}
    (hk : r.req.kind = .flush) : takeReservation c r { s with store.reservationWaiters := waiters } =
      flushExecute c { r with waitReserved := true } (flushState c r waiters s) := by
  simp only [takeReservation, afterReservation, hk]
  rfl

/-- Taken at once or handed the record later, the FLUSH executes with its record, and its event ends with that. -/
theorem exec_flush {c : ChanId} {r : Executing} {s : State} {o : Result} (hf : s.journal.formatted = true)
    (hfree : s.waitRecordFree = true)
    (h : (Executes c .flush .handed r s ∧ s.store.reservationWaiters = [] ∧ o = exec (.flush c) s) ∨
      (Executes c .flush .waitReservation r s ∧ s.store.reservationWaiters.head? = some c ∧
        o = exec .waitListReservation s)) :
    (s.chan c).state = .active ∧ ∃ waiters,
      waiters.filter (fun x => x != c) = s.store.reservationWaiters.filter (fun x => x != c) ∧
      o = .next (settle false (flushExecute c { r with waitReserved := true } (flushState c r waiters s))) := by
  rcases h with ⟨⟨hactive, hexec, hkind, hstage⟩, hnone, rfl⟩ | ⟨⟨hactive, hexec, hkind, -⟩, hhead, rfl⟩
  · refine ⟨hactive, s.store.reservationWaiters, rfl, ?_⟩
    rw [show exec (.flush c) s = exec (startsDurable c .flush) s from rfl,
      exec_startsDurable (by simp) ⟨hactive, hexec, hkind, hstage⟩ hf, if_pos ⟨hfree, hnone⟩,
      ← takeReservation_flush hkind]
  · cases hw : s.store.reservationWaiters with
    | nil => simp [hw] at hhead
    | cons d rest =>
      obtain rfl : d = c := by simpa [hw] using hhead
      refine ⟨hactive, rest, by simp, ?_⟩
      rw [exec_waitListReservation hw hexec hfree, takeReservation_flush hkind]

section
variable {c : ChanId} {r : Executing} {waiters : List ChanId} {s : State}

theorem flushState_leaves : (flushState c r waiters s).journal = s.journal ∧
    (flushState c r waiters s).budget = s.budget ∧ SameContents s (flushState c r waiters s) := by
  refine ⟨rfl, rfl, ⟨rfl, rfl, rfl, rfl, rfl, rfl, SameSegments.of_segs rfl⟩, ?_⟩
  exact ⟨rfl, rfl, rfl, rfl, rfl, rfl, rfl, rfl, rfl, rfl, rfl, rfl, rfl, rfl, rfl, rfl, rfl, rfl, rfl, rfl⟩

/-- FLUSH fails while a segment is FAILED (R87). -/
theorem flushExecute_fault {q : Executing} {t : State} (h : t.mediaFault = true) :
    flushExecute c q t = completeExec c (q.req.refusal .nvFault 0) t := by
  simp only [flushExecute, h, if_true]

/-- Everything is stored already: FLUSH completes at once (R87). -/
theorem flushExecute_stored {q : Executing} {t : State} (h : t.mediaFault = false)
    (hs : t.journal.nextSeq - 1 ≤ t.store.storedThrough) :
    flushExecute c q t =
      completeExec c (q.req.completion .ok (t.journal.nextSeq - 1) Stamp.zero t.store.storedThrough) t := by
  simp only [flushExecute, h, Bool.false_eq_true, if_false, hs, or_true, if_true]

/-- Something is still to be stored: FLUSH becomes a waiting record (R88). -/
theorem flushExecute_waits {q : Executing} {t : State} (h : t.mediaFault = false)
    (hs : t.store.storedThrough < t.journal.nextSeq - 1) :
    flushExecute c q t = fillWaiter (flushWaiter c q.req t) (endExecution c t) := by
  simp only [flushExecute, h, Bool.false_eq_true, if_false]
  rw [if_neg (by omega)]
  rfl

/-- The FLUSH completes, and nothing else has changed. -/
theorem onlyCompletes_flush (x : Completion) (hactive : (s.chan c).state = .active)
    (hw : waiters.filter (fun d => d != c) = s.store.reservationWaiters.filter (fun d => d != c)) :
    OnlyCompletes c x s (.next (settle false (completeExec c x (flushState c r waiters s)))) := by
  obtain ⟨-, hbudget, hsame⟩ := flushState_leaves (c := c) (r := r) (waiters := waiters) (s := s)
  have hstate : ((flushState c r waiters s).chan c).state = .active := by
    rw [flushState, withRequest_chan_same]
    exact hactive
  obtain ⟨u, hu, hcompleted, hcontents⟩ := onlyCompletes_settle x false hstate
  refine ⟨u, hu, hcompleted.of_requestApart (withRequest_apart rfl hw) fun hne => ?_, hsame.trans hcontents⟩
  obtain ⟨-, -, ⟨-, -, -, -, -, -, hkept⟩, -⟩ := hcompleted
  exact (hkept (by rw [hbudget]; exact hne)).1.trans (by rw [hbudget])

/-- The FLUSH waits, its target's segment is queued, and nothing else but the wait list has changed (R73, R88). -/
theorem flush_waits (hw : waiters.filter (fun d => d != c) = s.store.reservationWaiters.filter (fun d => d != c))
    {u : State} (hu : u = settle false (fillWaiter (flushWaiter c r.req s) (endExecution c (flushState c r waiters s)))) :
    Deferred c s u ∧
      (∀ i a b, s.openSegment = some i → (s.seg i).dirty = true → (s.seg i).firstSeq = some a →
        (s.seg i).lastSeq = some b → a ≤ s.journal.nextSeq - 1 → s.journal.nextSeq - 1 ≤ b → Queued i u) ∧
      SameContents { s with store.waiting := s.store.waiting ++ [flushWaiter c r.req s] } u := by
  obtain ⟨hjournal, hbudget, -⟩ := flushState_leaves (c := c) (r := r) (waiters := waiters) (s := s)
  have hdeferred := deferred_settle c (flushWaiter c r.req s) false (flushState c r waiters s)
  rw [← hu] at hdeferred
  refine ⟨hdeferred.of_requestApart (withRequest_apart rfl hw) fun hne => ?_, fun i a b hi hd ha hb hlow hhigh => ?_, ?_⟩
  · obtain ⟨-, -, ⟨-, -, -, -, -, -, hkept⟩, -⟩ := hdeferred
    exact (hkept (by rw [hbudget]; exact hne)).1.trans (by rw [hbudget])
  · obtain ⟨hopen, hseg⟩ := endExecution_segs c (flushState c r waiters s)
    have hsame : (flushState c r waiters s).seg i = s.seg i := rfl
    rw [hu]
    refine (fillWaiter_queued (hopen.trans hi) (by rwa [hseg, hsame]) ?_).settle false
    rw [hseg, hsame, ha, hb]
    exact ⟨hlow, hhigh⟩
  · have hfilled : SameContents { s with store.waiting := s.store.waiting ++ [flushWaiter c r.req s] }
        (fillWaiter (flushWaiter c r.req s) (endExecution c (flushState c r waiters s))) := by
      refine ⟨⟨by simp [hjournal], by simp [hjournal], by simp [hjournal], by simp [hjournal], by simp [hjournal],
        by simp [hjournal], SameSegments.of_segs (by simp [hjournal])⟩, ?_⟩
      unfold SameUnits
      rw [fillWaiter_waiting]
      simp [flushState, withRequest, setExec]
    rw [hu]
    exact hfilled.trans (settle_contents _ _)

end

/-- Settles O32: FLUSH executes with its record in either event; then its three cases are those of R87. -/
theorem flushRule : Obligations.FlushRule := by
  intro s c r o hf hfree h
  obtain ⟨hactive, waiters, hw, rfl⟩ := exec_flush hf hfree h
  have hmedia : (flushState c r waiters s).mediaFault = s.mediaFault := rfl
  refine ⟨fun hfault => ?_, fun hnone hstored => ?_, fun hnone hbehind => ?_⟩
  · rw [flushExecute_fault (hmedia.trans hfault)]
    exact onlyCompletes_flush _ hactive hw
  · rw [flushExecute_stored (hmedia.trans hnone) hstored]
    exact onlyCompletes_flush _ hactive hw
  · rw [flushExecute_waits (hmedia.trans hnone) hbehind]
    exact ⟨_, rfl, flush_waits hw rfl⟩

end Sys2Proof.Machine


namespace Sys2Proof.Machine

/-! ### The end of an event at the store engine (R75, R92, R129, log entry 12) -/

section
variable {s : State}

/-- Nothing follows in a line store while an operation is in flight, a segment is dirty, or FORMAT's reset event is to
come (R129, log entry 25). -/
theorem lineStoreTest_rests (h : s.store.lineStore = .none ∨ s.store.op ≠ none ∨ 0 < s.dirtyCount ∨
    s.formatComing = true) : lineStoreTest s = s := by
  rw [lineStoreTest]
  split
  · next hdue =>
    obtain ⟨hline, -, hop, hd⟩ := hdue
    rcases h with h | h | h | h
    · exact absurd h hline
    · exact absurd hop h
    · omega
    · rw [if_pos h]
  · rfl

section
variable (hline : s.store.lineStore ≠ .none) (hw : s.working = true) (hop : s.store.op = none) (hd : s.dirtyCount = 0)
  (hformat : s.formatComing = false)
include hline hw hop hd hformat

/-- With everything stored the line store writes a checkpoint while metadata is dirty (R129). -/
theorem lineStoreTest_writes (hm : s.store.metadataDirty = true) :
    lineStoreTest s = startCheckpoint { s with store.lineStore := .checkpoint } := by
  rw [lineStoreTest, if_pos ⟨hline, hw, hop, hd⟩, if_neg (by simp [hformat]), if_pos hm]

/-- With everything stored and metadata clean the line store ends (R129). -/
theorem lineStoreTest_ends (hm : s.store.metadataDirty = false) : lineStoreTest s = endLineStore s := by
  rw [lineStoreTest, if_pos ⟨hline, hw, hop, hd⟩, if_neg (by simp [hformat]), if_neg (by simp [hm])]

end

theorem mayStart_iff : s.mayStart = true ↔ s.store.op = none ∧ s.working = true ∧ s.formatHold = false := by
  simp [State.mayStart, and_assoc]

theorem startNext_rests (test : Bool) (h : s.store.op ≠ none ∨ s.working = false ∨ s.formatHold = true) :
    startNext test s = s := by
  rw [startNext, if_neg]
  rw [mayStart_iff]
  rintro ⟨hop, hw, hf⟩
  rcases h with h | h | h
  · exact h hop
  · rw [hw] at h; cases h
  · rw [hf] at h; cases h

theorem startNext_checkpoint {test : Bool} (hmay : s.mayStart = true) (htest : test = true)
    (hm : s.store.metadataDirty = true) (hq : s.store.queue = [] ∨ 32 ≤ s.store.jobsSinceDirty) :
    startNext test s = startCheckpoint s := by
  rw [startNext, if_pos hmay, if_pos ⟨htest, hm, hq⟩]

theorem startNext_job {test : Bool} (hmay : s.mayStart = true)
    (h : test = false ∨ s.store.metadataDirty = false ∨ (s.store.queue ≠ [] ∧ s.store.jobsSinceDirty < 32)) :
    startNext test s = startJob s := by
  rw [startNext, if_pos hmay, if_neg]
  rintro ⟨htest, hm, hq⟩
  rcases h with h | h | ⟨hne, hfew⟩
  · rw [htest] at h; cases h
  · rw [hm] at h; cases h
  · rcases hq with hq | hq
    · exact hne hq
    · omega

theorem startJob_cons {i : SegId} {rest : List SegId} (hq : s.store.queue = i :: rest) :
    startJob s = startJobOn i { s with store.queue := rest } := by
  simp only [startJob, hq]

/-- The record of a segment whose job starts (R75). -/
def Segment.started (g : Segment) : Segment := { g with inStore := true, retry := 0, snapshot := g.lastSeq }

/-- A job that starts changes its segment's record and no other. -/
theorem startJobOn_starts (i : SegId) (s : State) :
    (startJobOn i s).store = { s.store with op := some (.job i 0) } ∧ (startJobOn i s).seg i = (s.seg i).started ∧
      ∀ j, j ≠ i → (startJobOn i s).seg j = s.seg j :=
  ⟨rfl, State.seg_modSeg_same s i Segment.started, fun _ hj => State.seg_modSeg_other s Segment.started hj⟩

/-- What the operations in store had come to at the test of the line store stands at the end of an event in which no
other starts. -/
theorem settle_busy (test : Bool) (h : s.store.op ≠ none) : settle test s = fetchArbiter s := by
  rw [settle, lineStoreTest_rests (Or.inr (Or.inl h)), startNext_rests test (Or.inl h)]

theorem fetchArbiter_seg (i : SegId) (s : State) : (fetchArbiter s).seg i = s.seg i := by simp [State.seg]

theorem settle_line (test : Bool) (s : State) : settle test s = fetchArbiter (startNext test (lineStoreTest s)) := rfl

/-- The end of an event starts a job, and so changes the record, of a queued segment alone (R75). -/
theorem settle_seg_unqueued {i : SegId} (test : Bool) (h : i ∉ s.store.queue) : (settle test s).seg i = s.seg i := by
  have hline : ∀ j, (lineStoreTest s).seg j = s.seg j := fun j => by simp [State.seg]
  have hqueue : (lineStoreTest s).store.queue = s.store.queue := by simp
  rw [settle_line, fetchArbiter_seg, startNext]
  split
  · split
    · exact hline i
    · cases hq : (lineStoreTest s).store.queue with
      | nil => rw [startJob, hq, hline]
      | cons j rest =>
        have hne : i ≠ j := fun e => h (by rw [← hqueue, hq, e]; exact List.mem_cons_self)
        rw [startJob_cons hq, (startJobOn_starts j _).2.2 i hne]
        exact hline i
  · exact hline i

/-- Only a queued segment's job starts at the end of an event (R75). -/
theorem mem_queue_of_settle_job {i : SegId} {w : Nat} {test : Bool} (hop : s.store.op = none)
    (h : (settle test s).store.op = some (.job i w)) : i ∈ s.store.queue := by
  have hqueue : (lineStoreTest s).store.queue = s.store.queue := by simp
  rw [settle_line, show ∀ t : State, (fetchArbiter t).store.op = t.store.op from fun t => by simp, startNext] at h
  have hline : (lineStoreTest s).store.op ≠ some (.job i w) := by
    rw [lineStoreTest]
    (repeat' split) <;> simp [startCheckpoint, endLineStore, hop]
  split at h
  · split at h
    · simp [startCheckpoint] at h
    · cases hq : (lineStoreTest s).store.queue with
      | nil => rw [startJob, hq] at h; exact absurd h hline
      | cons j rest =>
        rw [startJob_cons hq, (startJobOn_starts j _).1] at h
        simp only [Option.some.injEq, Operation.job.injEq] at h
        rw [← hqueue, hq, ← h.1]
        exact List.mem_cons_self
  · exact absurd h hline

end

/-! ### A segment that has left the queue for good (R13, R71, R79) -/

/-- Segment `i` is neither OPEN nor FULL, so that it can stand in the queue only if it stood in `q`. -/
def OutOfQueue (i : SegId) (q : List SegId) (t : State) : Prop :=
  (t.seg i).state ≠ .openS ∧ (t.seg i).state ≠ .full ∧ (i ∈ t.store.queue → i ∈ q)

namespace OutOfQueue
variable {i : SegId} {q : List SegId} {s t : State}

theorem of_eq (h : OutOfQueue i q s) (hs : t.journal.segs = s.journal.segs) (hq : t.store.queue = s.store.queue) :
    OutOfQueue i q t := by
  unfold OutOfQueue at *
  rwa [hq, show t.seg i = s.seg i by simp [State.seg, hs]]

theorem queueOpen (h : OutOfQueue i q s) : OutOfQueue i q (queueOpen s) := by
  obtain ⟨hopen, hfull, hmem⟩ := h
  refine ⟨by simpa [State.seg] using hopen, by simpa [State.seg] using hfull, fun hi => hmem ?_⟩
  rw [Machine.queueOpen] at hi
  split at hi
  · next j hj =>
    rw [queueSeg] at hi
    split at hi
    · rcases List.mem_append.mp hi with hi | hi
      · exact hi
      · obtain rfl : i = j := by simpa using hi
        exact absurd (openSegment_spec hj).2 hopen
    · exact hi
  · exact hi

theorem recomputePressure (h : OutOfQueue i q s) : OutOfQueue i q (recomputePressure s) := by
  rw [Machine.recomputePressure]
  split
  · simp only
    split
    · exact h
    · split
      · exact OutOfQueue.queueOpen (h.of_eq (t := { s with budget.pressure := s.pressureLevel }) rfl rfl)
      · exact h.of_eq rfl rfl
  · exact h

theorem dropHeld (h : OutOfQueue i q s) (c : ChanId) : OutOfQueue i q (dropHeld c s) := by
  rw [Machine.dropHeld]
  split
  · exact OutOfQueue.recomputePressure (h.of_eq (by simp) (by simp))
  · exact h

theorem completeExec (h : OutOfQueue i q s) (c : ChanId) (x : Completion) : OutOfQueue i q (completeExec c x s) := by
  have hend : OutOfQueue i q (endExecution c s) := by
    rw [endExecution_eq]
    exact OutOfQueue.dropHeld (h.of_eq (by simp [released]) (by simp [released])) c
  exact hend.of_eq (by simp [Machine.completeExec]) (by simp [Machine.completeExec])

theorem endAllHeld (h : OutOfQueue i q s) (status : Status) : OutOfQueue i q (endAllHeld status s) := by
  refine foldl_invariant (P := OutOfQueue i q) (endHeld status) (fun t x ht => ?_) _ h
  rw [endHeld]
  split
  · exact ht.completeExec _ _
  · exact ht.dropHeld _

end OutOfQueue

/-! ### The bytes of a pass (R76) -/

theorem passBytes_seg (i j : SegId) (w : Nat) (agree : Bool) (s : State) :
    (passBytes i w agree s).seg j = s.seg j := by simp [State.seg]

theorem finishCopy_read (i : SegId) (w a : Nat) (s : State) : (finishCopy i w s).array.shadow.read a =
    if segBase i + w ≤ a ∧ a < segBase i + 4096 then s.journal.sram.read a else s.array.shadow.read a :=
  Memory.read_copyRange _ _ _ _ _

/-- A pass writes no byte of the shadow but its segment's, also when its check values differ. -/
theorem passBytes_outside (i : SegId) (w : Nat) (agree : Bool) (s : State) {a : Nat}
    (h : a < segBase i ∨ segBase i + 4096 ≤ a) :
    (passBytes i w agree s).array.shadow.read a = s.array.shadow.read a := by
  have hcopy : (finishCopy i w s).array.shadow.read a = s.array.shadow.read a := by
    rw [finishCopy_read, if_neg (by omega)]
  simp only [passBytes]
  split
  · exact hcopy
  · simp only [spoilShadow]
    rw [Memory.read_writeBytes, if_neg (by simp; omega)]
    exact hcopy

theorem passBytes_array (i : SegId) (w : Nat) (agree : Bool) (s : State) :
    (passBytes i w agree s).array = { s.array with shadow := (passBytes i w agree s).array.shadow } := by
  obtain ⟨hslotA, hslotB, hclosing⟩ : (passBytes i w agree s).array.slotA = s.array.slotA ∧
      (passBytes i w agree s).array.slotB = s.array.slotB ∧
      (passBytes i w agree s).array.closing = s.array.closing := by simp
  dsimp only
  rw [← hslotA, ← hslotB, ← hclosing]

/-! ### Grants while a segment is FAILED (R31, R37, R103) -/

/-- While a segment is FAILED every attempt is refused, and takes no transaction record out (R31, R103). -/
theorem commitAttempt_fault (grant : Bool) (c : ChanId) (r : Executing) {s : State} (h : s.mediaFault = true) :
    ∃ status, commitAttempt grant c r s = completeExec c (r.req.refusal status 0) s ∧
      ((s.chan c).state = .active → s.journal.nextSeq ≠ 2 ^ 48 - 1 → status = .nvFault) := by
  obtain ⟨status, href, hne, hactive⟩ : ∃ status, refusalAt c r s = some status ∧ status ≠ .txnExpired ∧
      ((s.chan c).state = .active → s.journal.nextSeq ≠ 2 ^ 48 - 1 → status = .nvFault) := by
    rw [refusalAt]
    split
    · next hd => exact ⟨.cancelled, rfl, by simp, fun ha => by rw [hd.1] at ha; cases ha⟩
    · split
      · next hs => exact ⟨.seqExhausted, rfl, by simp, fun _ hn => absurd hs hn⟩
      · exact ⟨.nvFault, rfl, by simp, fun _ _ => rfl⟩
  refine ⟨status, ?_, hactive⟩
  rw [commitAttempt_refused href, if_neg hne]

theorem mediaFault_of_segs {s t : State} (h : t.journal.segs = s.journal.segs) : t.mediaFault = s.mediaFault := by
  simp only [State.mediaFault, h]

/-- A grant run while a segment is FAILED only completes requests: what a completion keeps, it keeps (R37, R65). -/
theorem grantRun_fault {P : State → Prop} (hP : ∀ {t}, P t → ∀ c x, P (completeExec c x t)) {s : State}
    (h : s.mediaFault = true) (hs : P s) : P (grantRun s) := by
  have hloop : ∀ n t, t.mediaFault = true → P t → P (grantLoop n t) := fun n => by
    induction n with
    | zero => exact fun t _ ht => ht
    | succ n ih =>
      intro t hfault ht
      cases hheld : t.budget.held with
      | nil => rwa [grantLoop_empty _ hheld]
      | cons x rest =>
        cases hg : t.grantable x with
        | false => rwa [grantLoop_rests _ hheld hg]
        | true =>
          cases hx : (t.chan x.chan).exec with
          | none => rwa [grantLoop_idle _ hheld hx]
          | some r =>
            obtain ⟨status, hrefused, -⟩ := commitAttempt_fault true x.chan r hfault
            rw [grantLoop_grants n hheld hg hx, hrefused]
            split
            · exact hP ht _ _
            · exact ih _ ((mediaFault_of_segs (by simp)).trans hfault) (hP ht _ _)
  exact hloop _ s h hs

end Sys2Proof.Machine


namespace Sys2Proof.Machine

/-! ### A failed pass (R78, R79) -/

section
variable {i : SegId} {w : Nat} {agree : Bool} {s : State}

theorem exec_storePassEnd_emergency (hop : s.store.op = some (.job i w)) (hd : s.device = .emergency) :
    exec (.storePassEnd agree) s = .next (emergencyPassEnd i agree (passBytes i w agree s)) := by
  have hsame : (passBytes i w agree s).device = .emergency := by simpa using hd
  simp only [exec, execStorePassEnd, hop, if_pos hsame]

theorem exec_storePassEnd_other (hop : s.store.op = some (.job i w)) (hd : s.device ≠ .emergency) :
    exec (.storePassEnd agree) s = .next (settle true (passEnd i agree (passBytes i w agree s))) := by
  have hsame : (passBytes i w agree s).device ≠ .emergency := by simpa using hd
  simp only [exec, execStorePassEnd, hop, if_neg hsame]

section
variable (hst : (s.seg i).state = .openS ∨ (s.seg i).state = .full)
include hst

theorem passEnd_retries (hr : (s.seg i).retry < 2) :
    passEnd i false s = retryPass i s ∧ emergencyPassEnd i false s = retryPass i s := by
  have hfreeing : (s.seg i).state ≠ .freeing := by rcases hst with h | h <;> simp [h]
  simp [passEnd, emergencyPassEnd, hfreeing, hr]

theorem passEnd_fails (hr : (s.seg i).retry = 2) :
    passEnd i false s = failureEffects i ((s.seg i).unstoredFrom.getD 0) (failSegment i s) ∧
      emergencyPassEnd i false s =
        emergencyAdvance (emergencyFailure i ((s.seg i).unstoredFrom.getD 0) (failSegment i s)) := by
  have hfreeing : (s.seg i).state ≠ .freeing := by rcases hst with h | h <;> simp [h]
  simp [passEnd, emergencyPassEnd, hfreeing, hr]

end

theorem retryPass_seg (i j : SegId) (s : State) :
    (retryPass i s).seg j = if j = i then { s.seg i with retry := (s.seg i).retry + 1 } else s.seg j := by
  by_cases h : j = i
  · rw [if_pos h, h]
    exact State.seg_modSeg_same { s with store.op := some (.job i 0) } i (fun g => { g with retry := g.retry + 1 })
  · rw [if_neg h]
    exact State.seg_modSeg_other { s with store.op := some (.job i 0) } (fun g => { g with retry := g.retry + 1 }) h

theorem retryPass_op (i : SegId) (s : State) : (retryPass i s).store.op = some (.job i 0) := rfl

/-- In every device state a failed pass below the third starts over at once, and its event ends with that (R78). -/
theorem exec_retries (hop : s.store.op = some (.job i w)) (hst : (s.seg i).state = .openS ∨ (s.seg i).state = .full)
    (hr : (s.seg i).retry < 2) :
    exec (.storePassEnd false) s = .next (fetchArbiter (retryPass i (passBytes i w false s))) := by
  have hseg : (passBytes i w false s).seg i = s.seg i := passBytes_seg i i w false s
  obtain ⟨hpass, hemergency⟩ := passEnd_retries (s := passBytes i w false s) (by rwa [hseg]) (by rwa [hseg])
  have hbusy : (retryPass i (passBytes i w false s)).store.op ≠ none := by simp [retryPass_op]
  by_cases hd : s.device = .emergency
  · have hidle : (retryPass i (passBytes i w false s)).working = false := by simp [State.working, hd]
    rw [exec_storePassEnd_emergency hop hd, hemergency, ← settle_busy true hbusy, settle_idle true hidle]
  · rw [exec_storePassEnd_other hop hd, hpass, settle_busy true hbusy]

/-! ### The failed segment (R79) -/

theorem failSegment_seg (i j : SegId) (s : State) :
    (failSegment i s).seg j = if j = i then (s.seg i).failedForm else s.seg j := by
  by_cases h : j = i
  · rw [if_pos h, h]
    exact State.seg_modSeg_same _ i Segment.failedForm
  · rw [if_neg h]
    exact State.seg_modSeg_other _ Segment.failedForm h

theorem failSegment_op (i : SegId) (s : State) : (failSegment i s).store.op = none := rfl

theorem mediaFault_of_seg (h : (s.seg i).state = .failed) : s.mediaFault = true := by
  refine List.any_eq_true.mpr ⟨s.seg i, ?_, by simp [h]⟩
  simp [State.seg]

theorem failSegment_failed (i : SegId) (s : State) :
    ((failSegment i s).seg i).state = .failed ∧ (failSegment i s).mediaFault = true := by
  have h : ((failSegment i s).seg i).state = .failed := by
    rw [failSegment_seg, if_pos rfl]
    rfl
  exact ⟨h, mediaFault_of_seg h⟩

theorem failSegment_outOfQueue (i : SegId) (s : State) : OutOfQueue i s.store.queue (failSegment i s) := by
  obtain ⟨hfailed, -⟩ := failSegment_failed i s
  refine ⟨by simp [hfailed], by simp [hfailed], fun h => by simpa using h⟩

/-- What a failure in READY or RUNNING does up to the answers of the records that it could have served (R79, steps 2 to
4). -/
def failureAnswered (i : SegId) (u : Nat) (s : State) : State :=
  finishWaiters (fun w => u ≤ w.target) .nvFault (setMetadataDirty (onReliefBut (s.lostWith i u) s))

theorem failureEffects_eq (i : SegId) (u : Nat) (s : State) :
    failureEffects i u s = mediaFaultAlert i u (recomputeS (endAllHeld .nvFault (failureAnswered i u s))) := rfl

/-- The grants of a failure's fall of D only complete requests: what exposure, pressure and a completion keep, the whole
report keeps (R37, R61, R103). -/
theorem onReliefBut_fault {P : State → Prop} (hP : ∀ {t}, P t → ∀ c x, P (completeExec c x t)) {lost : Waiter → Bool}
    (h : s.mediaFault = true) (hs : P s) (hexposure : P (recomputePressure (evalExposureBut lost s))) :
    P (onReliefBut lost s) := by
  rw [onReliefBut]
  split
  · exact grantRun_fault hP ((mediaFault_of_segs (by simp)).trans h) hexposure
  · exact hs

/-- The parts of the state that the failure of a segment leaves to the store engine and the journal. -/
def FailureKeeps (s t : State) : Prop :=
  t.journal.segs = s.journal.segs ∧ t.journal.sram = s.journal.sram ∧ t.journal.chain = s.journal.chain ∧
    t.journal.nextSeq = s.journal.nextSeq ∧ t.txns = s.txns ∧ t.store.op = s.store.op

theorem FailureKeeps.trans {s t u : State} (a : FailureKeeps s t) (b : FailureKeeps t u) : FailureKeeps s u := by
  unfold FailureKeeps at *
  simp_all

theorem onReliefBut_failureKeeps (lost : Waiter → Bool) (h : s.mediaFault = true) :
    FailureKeeps s (onReliefBut lost s) :=
  onReliefBut_fault (P := FailureKeeps s) (fun ht c x => ht.trans (by simp [FailureKeeps])) h (by simp [FailureKeeps])
    (by simp [FailureKeeps])

theorem failureEffects_keeps {u : Nat} (h : s.mediaFault = true) : FailureKeeps s (failureEffects i u s) :=
  (onReliefBut_failureKeeps (s.lostWith i u) h).trans (by simp [failureEffects, FailureKeeps])

theorem failureEffects_outOfQueue {u : Nat} {q : List SegId} (hfault : s.mediaFault = true) (h : OutOfQueue i q s) :
    OutOfQueue i q (failureEffects i u s) := by
  have hrelief : OutOfQueue i q (onReliefBut (s.lostWith i u) s) :=
    onReliefBut_fault (fun ht c x => ht.completeExec c x) hfault h
      (OutOfQueue.recomputePressure (h.of_eq (by simp) (by simp)))
  have hanswered : OutOfQueue i q (failureAnswered i u s) :=
    hrelief.of_eq (by simp [failureAnswered]) (by simp [failureAnswered])
  rw [failureEffects_eq]
  exact (hanswered.endAllHeld .nvFault).of_eq (by simp) (by simp)

/-! ### The failure in EMERGENCY (R121, R123) -/

theorem emergencyFailure_leaves (i : SegId) (u : Nat) (s : State) :
    (emergencyFailure i u s).journal = s.journal ∧ (emergencyFailure i u s).store.queue = s.store.queue ∧
      (emergencyFailure i u s).store.op = s.store.op := by
  simp

/-- The sequence takes its next segment from the queue, or from the dirty ones that have not failed (R123). -/
theorem mem_queue_of_emergencyAdvance (hfailed : (s.seg i).state = .failed) (hop : s.store.op = none)
    (h : (emergencyAdvance s).store.op = some (.job i w)) : i ∈ s.store.queue := by
  have hnext : ∀ t : State, t.store.queue = s.store.queue → (t.seg i).state = .failed →
      (nextEmergencySegment t).store.op = some (.job i w) → i ∈ s.store.queue := fun t hqueue hseg ht => by
    rw [nextEmergencySegment] at ht
    split at ht
    · next j rest hq =>
      rw [(startJobOn_starts j _).1] at ht
      simp only [Option.some.injEq, Operation.job.injEq] at ht
      rw [← hqueue, hq, ← ht.1]
      exact List.mem_cons_self
    · split at ht
      · next j hj =>
        rw [(startJobOn_starts j _).1] at ht
        simp only [Option.some.injEq, Operation.job.injEq] at ht
        have hgood := List.find?_some hj
        simp [ht.1, hseg] at hgood
      · simp at ht
  rw [emergencyAdvance] at h
  split at h
  · simp [startEmergencyCheckpoint] at h
  · exact hnext { s with store.phase := .segments } rfl hfailed h
  · exact hnext s rfl hfailed h
  all_goals
    rw [hop] at h
    cases h

end

theorem failedForm_sameLog (g : Segment) :
    ({ g with state := .failed, unstoredFrom := none } : Segment).SameLog g.failedForm := ⟨rfl, rfl, rfl, rfl, rfl⟩

/-- The third failure in EMERGENCY: the segment is FAILED, and its job comes again only from the queue (R123). -/
theorem emergency_segmentFails {i : SegId} {u : Nat} {s : State} :
    ((s.seg i).failedForm).SameLog ((emergencyAdvance (emergencyFailure i u (failSegment i s))).seg i) ∧
      ∀ w, (emergencyAdvance (emergencyFailure i u (failSegment i s))).store.op = some (.job i w) →
        i ∈ s.store.queue := by
  obtain ⟨hjournal, hqueue, hop⟩ := emergencyFailure_leaves i u (failSegment i s)
  have hseg : ∀ j, (emergencyFailure i u (failSegment i s)).seg j = (failSegment i s).seg j := fun j => by
    rw [State.seg, hjournal, State.seg]
  refine ⟨?_, fun w h => ?_⟩
  · have hadvance := emergencyAdvance_segments (emergencyFailure i u (failSegment i s)) i
    rwa [hseg, failSegment_seg, if_pos rfl] at hadvance
  · have hmem := mem_queue_of_emergencyAdvance (by rw [hseg]; exact (failSegment_failed i s).1)
      (hop.trans (failSegment_op i s)) h
    rw [hqueue] at hmem
    simpa using hmem

/-- The third failure outside EMERGENCY: the segment is FAILED, and its job begins again only from the queue (R79). -/
theorem settled_segmentFails {i : SegId} {u : Nat} {s : State} :
    ((s.seg i).failedForm).SameLog ((settle true (failureEffects i u (failSegment i s))).seg i) ∧
      ∀ w, (settle true (failureEffects i u (failSegment i s))).store.op = some (.job i w) → i ∈ s.store.queue := by
  obtain ⟨-, hfault⟩ := failSegment_failed i s
  obtain ⟨hsegs, -, -, -, -, hop⟩ := failureEffects_keeps (i := i) (u := u) hfault
  refine ⟨?_, fun w h => ?_⟩
  · have hsettle := settle_segments true (failureEffects i u (failSegment i s)) i
    rwa [show (failureEffects i u (failSegment i s)).seg i = (s.seg i).failedForm by
      rw [State.seg, hsegs, ← State.seg, failSegment_seg, if_pos rfl]] at hsettle
  · obtain ⟨-, -, hmem⟩ := failureEffects_outOfQueue (u := u) hfault (failSegment_outOfQueue i s)
    exact hmem (mem_queue_of_settle_job (hop.trans (failSegment_op i s)) h)

/-- Settles O48: below the third failure the record's retry count and the shadow alone have changed; at the third the
record takes its failed form, in EMERGENCY and outside. -/
theorem storePassRetry : Obligations.StorePassRetry := by
  intro s i w hop hst
  have hseg : ∀ j, (passBytes i w false s).seg j = s.seg j := fun j => passBytes_seg i j w false s
  refine ⟨fun hr => ?_, fun hr => ?_⟩
  · have hretried : ∀ j, (fetchArbiter (retryPass i (passBytes i w false s))).seg j =
        if j = i then { s.seg i with retry := (s.seg i).retry + 1 } else s.seg j := fun j => by
      rw [fetchArbiter_seg, retryPass_seg, hseg, hseg]
    have harray : (fetchArbiter (retryPass i (passBytes i w false s))).array = (passBytes i w false s).array := by simp
    have hsame : SameSegments s (fetchArbiter (retryPass i (passBytes i w false s))) := fun j => by
      rw [hretried]
      split
      · next h => rw [h]; exact ⟨rfl, rfl, rfl, rfl, rfl⟩
      · exact Segment.SameLog.refl _
    refine ⟨_, exec_retries hop hst hr, by simp [retryPass_op], by rw [hretried, if_pos rfl],
      fun j hj => by rw [hretried, if_neg hj], by simp, dirtyCount_congr hsame,
      ⟨by simp, by simp, by simp, by simp, by simp, by simp, hsame⟩, ?_, taken_of_posts (by simp), by simp,
      fun a ha => ?_⟩
    · unfold SameUnits
      rw [harray]
      simp [← passBytes_array]
    · rw [harray]
      exact passBytes_outside i w false s ha
  · by_cases hd : s.device = .emergency
    · refine ⟨_, exec_storePassEnd_emergency hop hd, ?_⟩
      rw [(passEnd_fails (by rwa [hseg]) (by rwa [hseg])).2]
      obtain ⟨hsame, hjob⟩ := emergency_segmentFails (i := i)
        (u := ((passBytes i w false s).seg i).unstoredFrom.getD 0) (s := passBytes i w false s)
      rw [hseg] at hsame
      exact ⟨(failedForm_sameLog _).trans hsame, fun w' h => by simpa using hjob w' h⟩
    · refine ⟨_, exec_storePassEnd_other hop hd, ?_⟩
      rw [(passEnd_fails (by rwa [hseg]) (by rwa [hseg])).1]
      obtain ⟨hsame, hjob⟩ := settled_segmentFails (i := i)
        (u := ((passBytes i w false s).seg i).unstoredFrom.getD 0) (s := passBytes i w false s)
      rw [hseg] at hsame
      exact ⟨(failedForm_sameLog _).trans hsame, fun w' h => by simpa using hjob w' h⟩

end Sys2Proof.Machine


namespace Sys2Proof.Machine

/-! ### The line store at the end of an event (R128, R129) -/

theorem nextSlot_congr {s t : State} (h : t.store.newest = s.store.newest) : t.nextSlot = s.nextSlot := by
  simp only [State.nextSlot, h]

/-- A background checkpoint write has begun, in the slot and with the generation of R90. -/
theorem startCheckpoint_begun (s : State) :
    (startCheckpoint s).store.op = some (.checkpoint s.nextSlot.1 s.backgroundCheckpoint 0) ∧
      s.backgroundCheckpoint.generation = s.nextSlot.2 ∧ (startCheckpoint s).store.metadataDirty = false :=
  ⟨rfl, rfl, rfl⟩

/-- FORMAT does not hold the store engine unless its reset event is still to come (R104). -/
theorem formatHold_of_not_coming {s : State} (h : s.formatComing = false) : s.formatHold = false := by
  simp only [State.formatComing, State.formatHold] at *
  split <;> simp_all

theorem formatComing_congr {s t : State} (h : (t.chan 0).exec = (s.chan 0).exec) :
    t.formatComing = s.formatComing ∧ t.formatHold = s.formatHold ∧
      t.formatCheckpointing = s.formatCheckpointing := by
  simp [State.formatComing, State.formatHold, State.formatCheckpointing, h]

/-- With no FORMAT executing, none is to come. -/
theorem formatComing_none {s : State} (hhold : s.formatHold = false)
    (h : ∀ e, (s.chan 0).exec = some e → e.req.kind ≠ .format) : s.formatComing = false := by
  simp only [State.formatComing, State.formatHold] at *
  split
  · next e he => simp_all
  · rfl

/-- FORMAT handed over or accepted is still to come (log entry 25). -/
theorem formatComing_executes {s : State} {e : Executing}
    (h : Executes 0 .format .handed e s ∨ Executes 0 .format .formatWait e s) : s.formatComing = true := by
  rcases h with ⟨-, hexec, hkind, hstage⟩ | ⟨-, hexec, hkind, hstage⟩ <;>
    simp [State.formatComing, hexec, hkind, hstage]

theorem settle_keeps_line {s : State} (test : Bool) (h : lineStoreTest s = s) :
    (settle test s).store.lineStore = s.store.lineStore ∧ (settle test s).cc.fetchPaused = s.cc.fetchPaused ∧
      (settle test s).supply.driveLow = s.supply.driveLow := by
  rw [settle_line, h]
  simp

section
variable {s : State} (test : Bool) (hline : s.store.lineStore ≠ .none) (hw : s.working = true)
  (hop : s.store.op = none) (hd : s.dirtyCount = 0) (hformat : s.formatComing = false)
include hline hw hop hd hformat

/-- A line store with everything stored and metadata clean ends at the end of the event. -/
theorem settle_line_ends (hm : s.store.metadataDirty = false) :
    (settle test s).store.lineStore = .none ∧ (settle test s).cc.fetchPaused = false ∧
      (settle test s).supply.driveLow = false := by
  rw [settle_line, lineStoreTest_ends hline hw hop hd hformat hm]
  simp [endLineStore]

/-- A line store with everything stored writes its checkpoint at the end of the event while metadata is dirty. -/
theorem settle_line_writes (hm : s.store.metadataDirty = true) :
    (settle test s).store.lineStore = .checkpoint ∧ (settle test s).cc.fetchPaused = s.cc.fetchPaused ∧
      (settle test s).supply.driveLow = s.supply.driveLow ∧ (settle test s).store.metadataDirty = false ∧
      ∃ y, (settle test s).store.op = some (.checkpoint s.nextSlot.1 y 0) ∧ y.generation = s.nextSlot.2 := by
  have hbegun := startCheckpoint_begun { s with store.lineStore := .checkpoint }
  obtain ⟨hstarted, hgeneration, -⟩ := hbegun
  have hbusy : (startCheckpoint { s with store.lineStore := .checkpoint }).store.op ≠ none := by simp [hstarted]
  rw [settle_line, lineStoreTest_writes hline hw hop hd hformat hm, startNext_rests test (Or.inl hbusy)]
  refine ⟨by simp, by simp, by simp, by simp [startCheckpoint], _, ?_, hgeneration⟩
  rw [show ∀ t : State, (fetchArbiter t).store.op = t.store.op from fun t => by simp, hstarted]
  rfl

end

/-- What a line store sets as it begins (R128). -/
theorem beginLineStore_sets (s : State) :
    (beginLineStore s).supply = { s.supply with driveLow := true, latch := false } ∧
      (beginLineStore s).cc.fetchPaused = true ∧
      (beginLineStore s).store.lineStore = (if s.formatCheckpointing then .checkpoint else .segments) ∧
      (beginLineStore s).store.lineStore ≠ .none ∧ (beginLineStore s).cc.chans = s.cc.chans := by
  refine ⟨by simp [beginLineStore], by simp [beginLineStore], by simp [beginLineStore], ?_, by simp⟩
  simp only [beginLineStore, queueOpen_frame]
  split <;> simp

theorem beginLineStore_dirtyCount (s : State) : (beginLineStore s).dirtyCount = s.dirtyCount :=
  dirtyCount_congr (SameSegments.of_segs (by simp))

theorem formatComing_beginLineStore (s : State) : (beginLineStore s).formatComing = s.formatComing :=
  (formatComing_congr (by simp [State.chan])).1

/-! ### The fetch arbiter outside RUNNING (R157) -/

theorem fetchArbiter_stopped {s : State} (h : s.device ≠ .running) : fetchArbiter s = s := by
  have hnone : (servingOrder s.cc.lastServed).find? s.eligible = none :=
    List.find?_eq_none.mpr fun c _ => by simp [State.eligible, h]
  rw [fetchArbiter]
  split
  · rfl
  · rw [hnone]

theorem settle_chans_stopped (test : Bool) {s : State} (h : s.device ≠ .running) :
    (settle test s).cc.chans = s.cc.chans := by
  rw [settle_line, fetchArbiter_stopped (by simpa using h)]
  simp

/-- A channel with no pending record keeps its record at the end of an event. -/
theorem settle_chan_empty (test : Bool) {s : State} {c : ChanId} (h : (s.chan c).pendingRecords = 0) :
    (settle test s).chan c = s.chan c := by
  rcases settle_chan test s c with hsame | ⟨-, -, hpending, -⟩
  · exact hsame
  · omega

/-! ### The alerts of the store engine (R172) -/

theorem takeSlot_exec (d c : ChanId) (x : Completion) (s : State) :
    ((takeSlot d x s).chan c).exec = (s.chan c).exec := by
  by_cases h : c = d
  · subst h
    cases hlive : (s.chan c).live with
    | true => rw [takeSlot_chan_same x hlive]
    | false => rw [takeSlot_not_live x hlive]
  · rw [takeSlot_chan_other x s h]

/-- An alert leaves every channel's execution and state as they are, also when a waiter takes it. -/
theorem postAlert_chan (kind : AlertKind) (n d : Nat) (s : State) (c : ChanId) :
    ((postAlert kind n d s).chan c).exec = (s.chan c).exec ∧
      ((postAlert kind n d s).chan c).state = (s.chan c).state := by
  simp only [postAlert]
  split
  · exact ⟨takeSlot_exec _ _ _ _, takeSlot_state _ _ _ _⟩
  · exact ⟨rfl, rfl⟩

/-! ### The end of a checkpoint write (R90, R93) -/

/-- `t` is `s` after its checkpoint write has ended, verified or given up. -/
structure WriteEnded (s t : State) : Prop where
  device : t.device = s.device
  window : t.window = s.window
  journal : t.journal = s.journal
  supply : t.supply = s.supply
  recovery : t.recovery = s.recovery
  queue : t.store.queue = s.store.queue
  line : t.store.lineStore = s.store.lineStore
  idle : t.store.op = none
  fetch : t.cc.fetch = s.cc.fetch
  paused : t.cc.fetchPaused = s.cc.fetchPaused
  exec : ∀ c, (t.chan c).exec = (s.chan c).exec
  state : ∀ c, (t.chan c).state = (s.chan c).state

section
variable {slot : Slot} {x : Checkpoint} {s : State}

theorem checkpointStored_ends : WriteEnded s (checkpointStored slot x s) := by
  refine ⟨?_, ?_, ?_, ?_, ?_, ?_, ?_, ?_, ?_, ?_, fun c => ?_, fun c => ?_⟩ <;> simp [checkpointStored, State.chan]

theorem checkpointLost_ends : WriteEnded s (checkpointLost slot x s) := by
  have hchan : ∀ c, ((checkpointLost slot x s).chan c).exec = (s.chan c).exec ∧
      ((checkpointLost slot x s).chan c).state = (s.chan c).state := fun c => by
    have hsame : (setSlot slot none { s with store.op := none }).chan c = s.chan c := by simp [State.chan]
    rw [checkpointLost, checkpointAlert]
    split
    · exact ⟨congrArg Channel.exec hsame, congrArg Channel.state hsame⟩
    · obtain ⟨hexec, hstate⟩ := postAlert_chan .mediaFault 0 (slot.code * 2 ^ 16)
        { setSlot slot none { s with store.op := none } with
          store.metadataDirty := true, store.jobsSinceDirty := 0 } c
      exact ⟨hexec.trans (congrArg Channel.exec hsame), hstate.trans (congrArg Channel.state hsame)⟩
  refine ⟨?_, ?_, ?_, ?_, ?_, ?_, ?_, ?_, ?_, ?_, fun c => (hchan c).1, fun c => (hchan c).2⟩
  case refine_8 =>
    rw [checkpointLost, checkpointAlert]
    split <;> simp
  all_goals simp

theorem checkpointStored_slots : (checkpointStored slot x s).slotOf slot = some x ∧
    (∀ other, other ≠ slot → (checkpointStored slot x s).slotOf other = s.slotOf other) ∧
    (checkpointStored slot x s).array.shadow = s.array.shadow ∧
    (checkpointStored slot x s).store.newest = some (slot, x.generation) := by
  obtain ⟨hslot, hothers, -⟩ := setSlot_slotOf slot (some x)
    { s with store.newest := some (slot, x.generation), store.op := none }
  exact ⟨hslot, hothers, by simp, by simp [checkpointStored]⟩

theorem checkpointLost_slots :
    (checkpointLost slot x s).slotOf slot = none ∧ (checkpointLost slot x s).store.newest = s.store.newest := by
  obtain ⟨hslot, -, -⟩ := setSlot_slotOf slot none { s with store.op := none }
  have harray : (checkpointLost slot x s).array = (setSlot slot none { s with store.op := none }).array := by
    simp [checkpointLost]
  exact ⟨(slotOf_of_array harray slot).trans hslot, by simp⟩

/-- The third failure of a background write, with no alert waiter: metadata is dirty, and MEDIA_FAULT names the slot
(R93). -/
theorem checkpointLost_background (he : x.emergency = false) (hw : s.cc.alertWaiters = []) :
    checkpointLost slot x s = { setSlot slot none { s with store.op := none } with
      store.metadataDirty := true, store.jobsSinceDirty := 0,
      cc.alerts := foldAlert .mediaFault 0 (slot.code * 2 ^ 16) s.clock.reading s.cc.alerts } := by
  rw [checkpointLost, checkpointAlert, if_neg (by simp [he]), postAlert_eq (by simpa using hw)]
  simp

end

end Sys2Proof.Machine


namespace Sys2Proof.Machine

/-! ### The event of a checkpoint write's end (R93) -/

theorem SameLog.of_journal {s t : State} (h : t.journal = s.journal) : SameLog s t := by
  refine ⟨?_, ?_, ?_, ?_, ?_, ?_, SameSegments.of_segs ?_⟩ <;> rw [h]

/-- The array and the store engine as the write leaves them. -/
def writeResult (verified : Bool) (slot : Slot) (x : Checkpoint) (s : State) : State :=
  if verified then checkpointStored slot x s else checkpointLost slot x s

theorem writeResult_ends (verified : Bool) (slot : Slot) (x : Checkpoint) (s : State) :
    WriteEnded s (writeResult verified slot x s) := by
  cases verified with
  | true => exact checkpointStored_ends
  | false => exact checkpointLost_ends

theorem writeResult_slots (verified : Bool) (slot : Slot) (x : Checkpoint) (s : State) :
    (writeResult verified slot x s).slotOf slot = (if verified then some x else none) ∧
      (writeResult verified slot x s).store.newest =
        (if verified then some (slot, x.generation) else s.store.newest) := by
  cases verified with
  | true =>
    obtain ⟨hslot, -, -, hnewest⟩ := checkpointStored_slots (slot := slot) (x := x) (s := s)
    exact ⟨hslot, hnewest⟩
  | false => exact checkpointLost_slots

section
variable {slot : Slot} {x : Checkpoint} {k : Nat} {s : State}

theorem exec_write_ends {verified : Bool} (hop : s.store.op = some (.checkpoint slot x k))
    (h : verified = true ∨ 2 ≤ k) : exec (.checkpointWriteEnd verified) s =
      .next (afterCheckpoint verified (writeResult verified slot x s)) := by
  cases verified with
  | true => simp [exec, execCheckpointWriteEnd, hop, writeResult]
  | false =>
    have hthird : 2 ≤ k := h.resolve_left (by simp)
    have hlast : ¬ k < 2 := by omega
    simp [exec, execCheckpointWriteEnd, hop, writeResult, hlast]

theorem exec_write_retried (hop : s.store.op = some (.checkpoint slot x k)) (hk : k < 2) :
    exec (.checkpointWriteEnd false) s = .next (retryCheckpoint slot x k s) := by
  simp [exec, execCheckpointWriteEnd, hop, hk]

theorem afterCheckpoint_working {ok : Bool} {t : State} (h : t.working = true) :
    afterCheckpoint ok t = settle ok (backgroundEnd ok t) := by
  have hemergency : t.device ≠ .emergency := fun e => by simp [State.working, e] at h
  have hrecover : t.device ≠ .recover := fun e => by simp [State.working, e] at h
  rw [afterCheckpoint, if_neg hemergency, if_neg hrecover]

theorem afterCheckpoint_recover {ok : Bool} {t : State} (h : t.device = .recover) :
    afterCheckpoint ok t = settle ok (endRecover ok t) := by
  rw [afterCheckpoint, if_neg (by simp [h]), if_pos h]

end

/-! ### FORMAT's checkpoint write (R106) -/

section
variable {ok : Bool} {s t : State}

/-- No FORMAT waits for the write. -/
theorem completeFormat_rests (h : ∀ r, (t.chan 0).exec = some r → r.req.kind ≠ .format ∨ r.stage ≠ .formatCheckpoint) :
    completeFormat ok t = t := by
  rw [completeFormat, withExec]
  split
  · next r hr =>
    rw [if_neg]
    rintro ⟨hkind, hstage⟩
    rcases h r hr with h | h
    · exact h hkind
    · exact h (by simpa using hstage)
  · rfl

theorem completeFormat_completes {r : Executing} (hexec : (t.chan 0).exec = some r) (hkind : r.req.kind = .format)
    (hstage : r.stage = .formatCheckpoint) : completeFormat ok t =
      completeExec 0 (r.req.completion (if ok then .ok else .nvFault) 0 Stamp.zero t.journal.format.toNat) t :=
  withExec_eq hexec hkind (by simp [hstage])

/-- With no line store running a background write's end is FORMAT's completion alone. -/
theorem backgroundEnd_noLine (h : t.store.lineStore = .none) : backgroundEnd ok t = completeFormat ok t := by
  simp [backgroundEnd, State.lineStoreWrite, h]

theorem formatEnds {r : Executing} (hx : Executes 0 .format .formatCheckpoint r s) (ht : RequestApart 0 s t)
    (hchan : t.chan 0 = s.chan 0) (hbudget : t.budget = s.budget) (hjournal : t.journal = s.journal) :
    Completed 0 (r.req.completion (if ok then .ok else .nvFault) 0 Stamp.zero s.journal.format.toNat) s
      (settle ok (completeFormat ok t)) := by
  obtain ⟨hactive, hexec, hkind, hstage⟩ := hx
  rw [completeFormat_completes (by rw [hchan, hexec]) hkind hstage, hjournal]
  have hcompleted := completed_settle (r.req.completion (if ok then .ok else .nvFault) 0 Stamp.zero
    s.journal.format.toNat) ok (show (t.chan 0).state = .active by rw [hchan]; exact hactive)
  refine hcompleted.of_requestApart ht fun hne => ?_
  obtain ⟨-, -, ⟨-, -, -, -, -, -, hkept⟩, -⟩ := hcompleted
  exact (hkept (by rw [hbudget]; exact hne)).1.trans (by rw [hbudget])

/-- An event that is no test for a checkpoint, with no line store running, leaves metadata as it is (R92). -/
theorem settle_metadata (h : s.store.lineStore = .none) :
    (settle false s).store.metadataDirty = s.store.metadataDirty ∧
      (settle false s).store.jobsSinceDirty = s.store.jobsSinceDirty := by
  rw [settle_line, lineStoreTest_rests (Or.inl h), startNext]
  split <;> simp

end

/-! ### A background write in READY or RUNNING, with no line store running -/

section
variable {slot : Slot} {x : Checkpoint} {k : Nat} {s : State}

theorem exec_write_working {verified : Bool} (hop : s.store.op = some (.checkpoint slot x k)) (hw : s.working = true)
    (h : verified = true ∨ 2 ≤ k) : exec (.checkpointWriteEnd verified) s =
      .next (settle verified (backgroundEnd verified (writeResult verified slot x s))) := by
  have hworking : (writeResult verified slot x s).working = true := by
    rw [State.working, (writeResult_ends verified slot x s).device]
    exact hw
  rw [exec_write_ends hop h, afterCheckpoint_working hworking]

/-- The write's end when no line store runs, in READY or RUNNING. -/
theorem exec_background {verified : Bool} (hop : s.store.op = some (.checkpoint slot x k))
    (hline : s.store.lineStore = .none) (hw : s.working = true) (h : verified = true ∨ 2 ≤ k) :
    exec (.checkpointWriteEnd verified) s =
      .next (settle verified (completeFormat verified (writeResult verified slot x s))) := by
  rw [exec_write_working hop hw h, backgroundEnd_noLine ((writeResult_ends verified slot x s).line.trans hline)]

theorem background_leaves (verified : Bool) (t : State) :
    (settle verified (completeFormat verified t)).store.newest = t.store.newest ∧
      (settle verified (completeFormat verified t)).array = t.array ∧
      SameLog t (settle verified (completeFormat verified t)) := by
  have hformat : SameLog t (completeFormat verified t) :=
    ⟨by simp, by simp, by simp, by simp, by simp, by simp, SameSegments.of_segs (by simp)⟩
  exact ⟨by simp, by simp, hformat.trans (settle_contents _ _).1⟩

/-- A verified write with no FORMAT waiting changes its slot and the newest alone (R93). -/
theorem background_verified (hformat : ∀ r, (s.chan 0).exec = some r → r.stage ≠ .formatCheckpoint) {u : State}
    (hu : u = settle true (completeFormat true (checkpointStored slot x s))) :
    u.slotOf slot = some x ∧ (∀ other, other ≠ slot → u.slotOf other = s.slotOf other) ∧ SameLog s u ∧
      u.taken = s.taken ∧ SameUnits { s with array := u.array, store.newest := some (slot, x.generation) } u ∧
      u.array.shadow = s.array.shadow := by
  have hrest : completeFormat true (checkpointStored slot x s) = checkpointStored slot x s :=
    completeFormat_rests fun r hr => Or.inr (hformat r (by rw [← checkpointStored_ends.exec]; exact hr))
  obtain ⟨hslot, hothers, hshadow, hnewest⟩ := checkpointStored_slots (slot := slot) (x := x) (s := s)
  obtain ⟨-, harray, hlog⟩ := background_leaves true (checkpointStored slot x s)
  rw [← hu] at harray hlog
  refine ⟨(slotOf_of_array harray slot).trans hslot,
    fun other hne => (slotOf_of_array harray other).trans (hothers other hne),
    (SameLog.of_journal checkpointStored_ends.journal).trans hlog, ?_, ?_, by rw [harray, hshadow]⟩
  · rw [hu, hrest, settle_taken]
    exact taken_of_posts (by simp)
  · rw [hu, hrest]
    unfold SameUnits
    simp [hnewest]

/-- A write that fails below the third time goes on with the same contents (R93). -/
theorem write_retried : (retryCheckpoint slot x k s).slotOf slot = none ∧
    (retryCheckpoint slot x k s).store.op = some (.checkpoint slot x (k + 1)) ∧
    (retryCheckpoint slot x k s).store.newest = s.store.newest ∧ SameLog s (retryCheckpoint slot x k s) ∧
    SameUnits { s with array := (retryCheckpoint slot x k s).array } (retryCheckpoint slot x k s) ∧
    (retryCheckpoint slot x k s).taken = s.taken := by
  obtain ⟨hslot, -, -⟩ := setSlot_slotOf slot none { s with store.op := some (.checkpoint slot x (k + 1)) }
  refine ⟨hslot, by simp [retryCheckpoint], by simp, SameLog.of_journal (by simp), ?_, taken_of_posts (by simp)⟩
  unfold SameUnits
  simp

/-- What the third failure of a background write leaves, with no alert waiter (R93). -/
theorem background_lost (he : x.emergency = false) (halerts : s.cc.alertWaiters = []) (hline : s.store.lineStore = .none)
    {u : State} (hu : u = settle false (completeFormat false (checkpointLost slot x s))) :
    u.slotOf slot = none ∧ u.store.newest = s.store.newest ∧ u.store.metadataDirty = true ∧
      u.store.jobsSinceDirty = 0 ∧
      (∃ a ∈ u.cc.alerts, a.kind = .mediaFault ∧ a.seqValue = 0 ∧ a.detail = slot.code * 2 ^ 16) ∧ SameLog s u ∧
      ((∀ r, (s.chan 0).exec = some r → r.stage ≠ .formatCheckpoint) → u.taken = s.taken) ∧
      ∀ r, Executes 0 .format .formatCheckpoint r s →
        Completed 0 (r.req.completion .nvFault 0 Stamp.zero s.journal.format.toNat) s u := by
  have hends := checkpointLost_ends (slot := slot) (x := x) (s := s)
  have hlost := checkpointLost_background (slot := slot) he halerts
  obtain ⟨hslot, hnewest⟩ := checkpointLost_slots (slot := slot) (x := x) (s := s)
  obtain ⟨hkept, harray, hlog⟩ := background_leaves false (checkpointLost slot x s)
  obtain ⟨hmetadata, hjobs⟩ := settle_metadata (s := completeFormat false (checkpointLost slot x s))
    (by simpa using hline)
  rw [← hu] at hkept harray hlog hmetadata hjobs
  have hposts : (checkpointLost slot x s).cc.posts = s.cc.posts := by simp [hlost]
  have hchan : ∀ c, (checkpointLost slot x s).chan c = s.chan c := fun c => by simp [hlost, State.chan]
  refine ⟨(slotOf_of_array harray slot).trans hslot, hkept.trans hnewest, hmetadata.trans (by simp [hlost]),
    hjobs.trans (by simp [hlost]), ?_, (SameLog.of_journal hends.journal).trans hlog, fun hformat => ?_, fun r hx => ?_⟩
  · obtain ⟨a, ha, hkind, hseq, hdetail, -⟩ :=
      foldAlert_mem .mediaFault 0 (slot.code * 2 ^ 16) s.clock.reading s.cc.alerts
    exact ⟨a, by rw [hu]; simpa [hlost] using ha, hkind, hseq, hdetail⟩
  · rw [hu, completeFormat_rests fun r hr => Or.inr (hformat r (by rw [← hchan]; exact hr)), settle_taken]
    exact taken_of_posts hposts
  · rw [hu]
    exact formatEnds (ok := false) hx ⟨hposts, hends.fetch, by rw [hchan], fun d _ => hchan d, by simp [hlost],
      by simp [hlost], by simp [hlost], by simp [hlost], by simp [hlost], by simp [hlost], by simp [hlost]⟩ (hchan 0)
      (by simp [hlost]) hends.journal

end

/-! ### The end of RECOVER (R134, R147) -/

theorem baseValid_iff (w : Window) : w.baseValid = true ↔ w.base.toNat ≠ 0 ∧ w.base.toNat % 2 ^ 12 = 0 := by
  have hzero : w.base = 0 ↔ w.base.toNat = 0 := by
    rw [← BitVec.toNat_inj]
    rfl
  have hlow : w.base.extractLsb' 0 12 = 0 ↔ w.base.toNat % 2 ^ 12 = 0 := by
    rw [← BitVec.toNat_inj, BitVec.extractLsb'_toNat]
    rfl
  simp only [Window.baseValid, Bool.and_eq_true, bne_iff_ne, beq_iff_eq, ne_eq, hzero, hlow]

theorem controlChannel_pending (base : HostAddr) : (controlChannel base).pendingRecords = 0 := by
  simp [Channel.pendingRecords, controlChannel, Channel.closed, ringDiff]

/-- The device after RECOVER: the report stands, and ENABLE and the control base have been acted on (R134). -/
def leftRecover (ok : Bool) (t : State) : State :=
  leaveRecover { t with
    recovery.report := t.recovery.building.map (fun r => { r with checkpointFailed := !ok }),
    recovery.building := none }

section
variable {ok : Bool} {t : State}

theorem endRecover_eq : endRecover ok t =
    if t.supply.latch then beginLineStore (leftRecover ok t) else leftRecover ok t := by
  have hlatch : (leftRecover ok t).supply = t.supply := by simp [leftRecover]
  rw [← hlatch]
  rfl

theorem leftRecover_leaves : (leftRecover ok t).journal = t.journal ∧ (leftRecover ok t).store = t.store ∧
    (leftRecover ok t).supply = t.supply ∧ (leftRecover ok t).array = t.array ∧
    (leftRecover ok t).cc.alerts = t.cc.alerts ∧ (leftRecover ok t).cc.fetchPaused = t.cc.fetchPaused ∧
    (leftRecover ok t).recovery = { t.recovery with
      report := t.recovery.building.map (fun r => { r with checkpointFailed := !ok }), building := none } := by
  refine ⟨?_, ?_, ?_, ?_, ?_, ?_, ?_⟩ <;> simp [leftRecover]

/-- With ENABLE 0 the device becomes READY (R134). -/
theorem leftRecover_disabled (h : t.window.enable = false) :
    (leftRecover ok t).device = .ready ∧ (leftRecover ok t).window = t.window ∧ (leftRecover ok t).cc = t.cc := by
  simp [leftRecover, leaveRecover, h]

/-- With ENABLE 1 and a valid base the device enters RUNNING and channel 0 becomes ACTIVE (R134, R151, R155). -/
theorem leftRecover_enabled (h : t.window.enable = true) (hbase : t.window.baseValid = true) :
    (leftRecover ok t).device = .running ∧
      (leftRecover ok t).window = { t.window with latchedBase := t.window.base } ∧
      (leftRecover ok t).chan 0 = controlChannel t.window.base ∧
      .write (t.window.base + 3072) (statusBytes 0 0 .active none) ∈ (leftRecover ok t).out := by
  have henter : leftRecover ok t = enterRunning { t with
      recovery.report := t.recovery.building.map (fun r => { r with checkpointFailed := !ok }),
      recovery.building := none } := by
    simp [leftRecover, leaveRecover, h, hbase]
  rw [henter]
  refine ⟨by simp [enterRunning], by simp [enterRunning], ?_, ?_⟩
  · exact State.chan_setChan_same { t with
      recovery.report := t.recovery.building.map (fun r => { r with checkpointFailed := !ok }),
      recovery.building := none, device := .running, window.latchedBase := t.window.base } 0
      (controlChannel t.window.base)
  · simp [enterRunning, writeStatus, beginStatusWrite, State.emit, controlChannel, Channel.statusAddr,
      Channel.statusBlock, Channel.closed]

/-- With ENABLE 1 and another base the device becomes READY and CTRL_FAULT is set (R134, R152). -/
theorem leftRecover_badBase (h : t.window.enable = true) (hbase : t.window.baseValid = false) :
    (leftRecover ok t).device = .ready ∧
      (leftRecover ok t).window = { t.window with ctrlFault := some (t.window.ctrlFault.getD .badBase) } ∧
      (leftRecover ok t).cc = t.cc := by
  simp [leftRecover, leaveRecover, badBase, h, hbase]

theorem leftRecover_working : (leftRecover ok t).working = true := by
  have hdevice : (leftRecover ok t).device = .ready ∨ (leftRecover ok t).device = .running := by
    cases henable : t.window.enable with
    | false => exact Or.inl (leftRecover_disabled henable).1
    | true =>
      cases hbase : t.window.baseValid with
      | false => exact Or.inl (leftRecover_badBase henable hbase).1
      | true => exact Or.inr (leftRecover_enabled henable hbase).1
  rcases hdevice with h | h <;> simp [State.working, h]

theorem leftRecover_exec (h : (t.chan 0).exec = none) : ((leftRecover ok t).chan 0).exec = none := by
  cases henable : t.window.enable with
  | false => rw [State.chan, (leftRecover_disabled henable).2.2]; exact h
  | true =>
    cases hbase : t.window.baseValid with
    | false => rw [State.chan, (leftRecover_badBase henable hbase).2.2]; exact h
    | true => rw [(leftRecover_enabled henable hbase).2.2.1]; rfl

/-- A line store that a latched request begins changes nothing of what the end of RECOVER has set (R127). -/
theorem endRecover_keeps : (endRecover ok t).device = (leftRecover ok t).device ∧
    (endRecover ok t).window = (leftRecover ok t).window ∧ (endRecover ok t).cc.chans = (leftRecover ok t).cc.chans ∧
    (endRecover ok t).out = (leftRecover ok t).out ∧ (endRecover ok t).recovery = (leftRecover ok t).recovery ∧
    (endRecover ok t).journal = t.journal ∧ (endRecover ok t).array = t.array ∧
    (endRecover ok t).cc.alerts = t.cc.alerts ∧ (endRecover ok t).store.newest = t.store.newest ∧
    (endRecover ok t).store.metadataDirty = t.store.metadataDirty := by
  obtain ⟨hjournal, hstore, -, harray, halerts, -⟩ := leftRecover_leaves (ok := ok) (t := t)
  rw [endRecover_eq]
  split <;> simp [hjournal, hstore, harray, halerts]

end

section
variable {slot : Slot} {x : Checkpoint} {k : Nat} {s : State} {verified : Bool}

theorem exec_recovery (hop : s.store.op = some (.checkpoint slot x k)) (hd : s.device = .recover)
    (h : verified = true ∨ 2 ≤ k) : exec (.checkpointWriteEnd verified) s =
      .next (settle verified (endRecover verified (writeResult verified slot x s))) := by
  rw [exec_write_ends hop h, afterCheckpoint_recover ((writeResult_ends verified slot x s).device.trans hd)]

variable {t u : State} (ht : t = writeResult verified slot x s) (hu : u = settle verified (endRecover verified t))
include ht hu

/-- The report of the recovery checkpoint's write (R147). -/
theorem recovery_reported {b : Report} (hb : s.recovery.building = some b) :
    u.slotOf slot = (if verified then some x else none) ∧
      u.store.newest = (if verified then some (slot, x.generation) else s.store.newest) ∧
      u.recovery.report = some { b with checkpointFailed := !verified } ∧ u.recovery.building = none ∧ SameLog s u := by
  have hends := writeResult_ends verified slot x s
  obtain ⟨hslot, hnewest⟩ := writeResult_slots verified slot x s
  rw [← ht] at hends hslot hnewest
  obtain ⟨-, -, -, -, hrecovery, hjournal, harray, -, hkept, -⟩ := endRecover_keeps (ok := verified) (t := t)
  obtain ⟨-, -, -, -, -, -, hreport⟩ := leftRecover_leaves (ok := verified) (t := t)
  have hsettled : u.array = (endRecover verified t).array ∧ u.store.newest = (endRecover verified t).store.newest ∧
      u.recovery = (endRecover verified t).recovery := by simp [hu]
  obtain ⟨huarray, hunewest, hurecovery⟩ := hsettled
  refine ⟨(slotOf_of_array (huarray.trans harray) slot).trans hslot, hunewest.trans (hkept.trans hnewest), ?_, ?_,
    (SameLog.of_journal (hjournal.trans hends.journal)).trans (hu ▸ (settle_contents _ _).1)⟩
  · rw [hurecovery, hrecovery, hreport, hends.recovery, hb]
    rfl
  · rw [hurecovery, hrecovery, hreport]

/-- The device and the window after RECOVER, by ENABLE and the control base (R134). -/
theorem recovery_left :
    (s.window.enable = false → u.device = .ready ∧ u.window = s.window) ∧
      (s.window.enable = true → s.window.baseValid = true →
        u.device = .running ∧ u.window = { s.window with latchedBase := s.window.base } ∧
        u.chan 0 = controlChannel s.window.base ∧
        .write (s.window.base + 3072) (statusBytes 0 0 .active none) ∈ u.out) ∧
      (s.window.enable = true → s.window.baseValid = false →
        u.device = .ready ∧ u.cc.chans = t.cc.chans ∧
        u.window = { s.window with ctrlFault := some (s.window.ctrlFault.getD .badBase) }) := by
  have hends := writeResult_ends verified slot x s
  rw [← ht] at hends
  obtain ⟨hdevice, hwindow, hchans, hout, -⟩ := endRecover_keeps (ok := verified) (t := t)
  have hsettled : u.device = (endRecover verified t).device ∧ u.window = (endRecover verified t).window := by simp [hu]
  obtain ⟨hudevice, huwindow⟩ := hsettled
  rw [hudevice, huwindow, hdevice, hwindow, ← hends.window]
  refine ⟨fun henable => ?_, fun henable hbase => ?_, fun henable hbase => ?_⟩
  · obtain ⟨hready, hsame, -⟩ := leftRecover_disabled (ok := verified) henable
    exact ⟨hready, hsame⟩
  · obtain ⟨hrunning, hlatched, hchan, hwrite⟩ := leftRecover_enabled (ok := verified) henable hbase
    have hzero : (endRecover verified t).chan 0 = controlChannel t.window.base := by
      rw [State.chan, hchans]
      exact hchan
    refine ⟨hrunning, hlatched, ?_, ?_⟩
    · rw [hu, settle_chan_empty verified (by rw [hzero, controlChannel_pending]), hzero]
    · obtain ⟨later, hlater⟩ := settle_out verified (endRecover verified t)
      rw [hu, hlater, hout]
      exact List.mem_append_right _ hwrite
  · obtain ⟨hready, hfault, hcc⟩ := leftRecover_badBase (ok := verified) henable hbase
    refine ⟨hready, ?_, hfault⟩
    rw [hu, settle_chans_stopped verified (by simp [hdevice, hready]), hchans, hcc]

/-- Without a latched request no line store begins at the end of RECOVER (R127). -/
theorem recovery_unlatched (hline : s.store.lineStore = .none) (hlatch : s.supply.latch = false) :
    u.store.lineStore = .none ∧ u.cc.fetchPaused = s.cc.fetchPaused ∧ u.supply = s.supply ∧
      (verified = false → u.store.metadataDirty = t.store.metadataDirty) := by
  have hends := writeResult_ends verified slot x s
  rw [← ht] at hends
  obtain ⟨-, hstore, hsupply, -, -, hpaused, -⟩ := leftRecover_leaves (ok := verified) (t := t)
  have hleft : endRecover verified t = leftRecover verified t := by
    rw [endRecover_eq, if_neg (by simp [hends.supply, hlatch])]
  have hnone : (leftRecover verified t).store.lineStore = .none := by rw [hstore, hends.line, hline]
  rw [hleft] at hu
  have hrest := lineStoreTest_rests (Or.inl hnone)
  obtain ⟨huline, hupaused, -⟩ := settle_keeps_line verified hrest
  rw [← hu] at huline hupaused
  refine ⟨huline.trans hnone, hupaused.trans (hpaused.trans hends.paused), ?_, fun hfalse => ?_⟩
  · rw [hu, settle_line, hrest]
    simpa [hsupply] using hends.supply
  · subst hfalse
    rw [hu, (settle_metadata hnone).1, hstore]

/-- A latched request begins a line store at the end of RECOVER, which with everything stored ends at once or writes its
checkpoint (R127, R129). -/
theorem recovery_latched (hlatch : s.supply.latch = true) (hd : s.dirtyCount = 0) (hexec : (s.chan 0).exec = none) :
    u.supply.latch = false ∧
      (t.store.metadataDirty = false →
        u.store.lineStore = .none ∧ u.cc.fetchPaused = false ∧ u.supply.driveLow = false) ∧
      (t.store.metadataDirty = true →
        u.store.lineStore = .checkpoint ∧ u.cc.fetchPaused = true ∧ u.supply.driveLow = true ∧
        u.store.metadataDirty = false ∧
        ∃ y, u.store.op = some (.checkpoint u.nextSlot.1 y 0) ∧ y.generation = u.nextSlot.2) := by
  have hends := writeResult_ends verified slot x s
  rw [← ht] at hends
  obtain ⟨hjournal, hstore, -⟩ := leftRecover_leaves (ok := verified) (t := t)
  have hbegun : endRecover verified t = beginLineStore (leftRecover verified t) := by
    rw [endRecover_eq, if_pos (by simp [hends.supply, hlatch])]
  rw [hbegun] at hu
  obtain ⟨hsupply, hpaused, -, hline, -⟩ := beginLineStore_sets (leftRecover verified t)
  have hw : (beginLineStore (leftRecover verified t)).working = true := by
    rw [← leftRecover_working (ok := verified) (t := t)]
    simp [State.working]
  have hop : (beginLineStore (leftRecover verified t)).store.op = none := by simp [hstore, hends.idle]
  have hclean : (beginLineStore (leftRecover verified t)).dirtyCount = 0 := by
    rw [beginLineStore_dirtyCount, ← hd]
    exact dirtyCount_congr (SameSegments.of_segs (by rw [hjournal, hends.journal]))
  have hcoming : (beginLineStore (leftRecover verified t)).formatComing = false := by
    rw [formatComing_beginLineStore, State.formatComing, leftRecover_exec (by rw [hends.exec, hexec])]
  have hmetadata : (beginLineStore (leftRecover verified t)).store.metadataDirty = t.store.metadataDirty := by
    simp [hstore]
  refine ⟨by simp [hu, hsupply], fun hm => ?_, fun hm => ?_⟩
  · rw [hu]
    exact settle_line_ends verified hline hw hop hclean hcoming (hmetadata.trans hm)
  · obtain ⟨hcheckpoint, hupaused, hudrive, hudirty, hwritten⟩ :=
      settle_line_writes verified hline hw hop hclean hcoming (hmetadata.trans hm)
    have hslot : u.nextSlot = (beginLineStore (leftRecover verified t)).nextSlot := nextSlot_congr (by simp [hu])
    rw [hslot, hu]
    exact ⟨hcheckpoint, hupaused.trans hpaused, hudrive.trans (by simp [hsupply]), hudirty, hwritten⟩

end

/-- Settles O50: in READY and RUNNING the write's end is FORMAT's completion alone; in RECOVER it ends RECOVER, and with it
may begin a line store. -/
theorem checkpointWriteRule : Obligations.CheckpointWriteRule := by
  intro s slot x k hop hline
  refine ⟨fun hw hformat => ?_, fun r hw hx => ?_, fun b verified hend hd hb => ?_, fun hk => ?_,
    fun hk hw he halerts => ?_⟩
  · exact ⟨_, exec_background hop hline hw (Or.inl rfl), background_verified hformat rfl⟩
  · obtain ⟨hslot, -, -, hnewest⟩ := checkpointStored_slots (slot := slot) (x := x) (s := s)
    obtain ⟨hkept, harray, hlog⟩ := background_leaves true (checkpointStored slot x s)
    have hends := checkpointStored_ends (slot := slot) (x := x) (s := s)
    have hchan : ∀ c, (checkpointStored slot x s).chan c = s.chan c := fun c => by simp [State.chan]
    have hapart : RequestApart 0 s (checkpointStored slot x s) := ⟨by simp, by simp, by rw [hchan], fun d _ => hchan d,
      by simp, by simp, by simp, by simp, by simp, by simp, by simp⟩
    have hbudget : (checkpointStored slot x s).budget = s.budget := by simp
    exact ⟨_, exec_background hop hline hw (Or.inl rfl), (slotOf_of_array harray slot).trans hslot,
      (SameLog.of_journal hends.journal).trans hlog,
      formatEnds (ok := true) hx hapart (hchan 0) hbudget hends.journal, hkept.trans hnewest⟩
  · have hlost : verified = false → x.emergency = false := fun hv => by
      rcases hend with h | ⟨-, h⟩
      · rw [hv] at h; cases h
      · exact h
    refine ⟨_, exec_recovery hop hd (hend.imp_right And.left), ?_⟩
    generalize ht : writeResult verified slot x s = t
    generalize hu : settle verified (endRecover verified t) = u
    obtain ⟨hslot, hnewest, hreport, hbuilding, hlog⟩ := recovery_reported ht.symm hu.symm hb
    obtain ⟨hdisabled, henabled, hbad⟩ := recovery_left ht.symm hu.symm
    have hdirty : verified = false → t.store.metadataDirty = true := fun hv => by
      subst hv
      rw [← ht]
      simp [writeResult, checkpointLost, checkpointAlert, hlost rfl]
    have hsame : verified = true → t.store.metadataDirty = s.store.metadataDirty := fun hv => by
      subst hv
      simp [← ht, writeResult]
    refine ⟨hslot, hnewest, hreport, hbuilding, hlog, ?_, hdisabled, fun henable hne hlow => ?_,
      fun henable hnot => ?_, fun hv halerts => ?_, fun hlatch => ?_, fun hlatch hclean hexec => ?_⟩
    · cases henable : s.window.enable with
      | false => rw [(hdisabled henable).2, henable]
      | true =>
        cases hbase : s.window.baseValid with
        | false => rw [(hbad henable hbase).2.2]; exact henable
        | true => rw [(henabled henable hbase).2.1]; exact henable
    · exact henabled henable ((baseValid_iff _).mpr ⟨hne, hlow⟩)
    · have hbase : s.window.baseValid = false := by
        rw [Bool.eq_false_iff, Ne, baseValid_iff]
        rintro ⟨hne, hlow⟩
        exact hnot.elim hne fun h => h hlow
      obtain ⟨hready, hchans, hwindow⟩ := hbad henable hbase
      refine ⟨hready, fun hquiet => hchans.trans ?_, hwindow⟩
      cases hv : verified with
      | true => simp [← ht, writeResult, hv]
      | false =>
        have halerts : s.cc.alertWaiters = [] := hquiet.resolve_left (by simp [hv])
        simp [← ht, writeResult, hv, checkpointLost_background (slot := slot) (hlost hv) halerts]
    · subst hv
      obtain ⟨a, ha, hkind, hseq, hdetail, -⟩ :=
        foldAlert_mem .mediaFault 0 (slot.code * 2 ^ 16) s.clock.reading s.cc.alerts
      obtain ⟨-, -, -, -, -, -, -, hkept, -⟩ := endRecover_keeps (ok := false) (t := t)
      refine ⟨a, ?_, hkind, hseq, hdetail⟩
      rw [← hu, show (settle false (endRecover false t)).cc.alerts = (endRecover false t).cc.alerts by simp, hkept, ← ht]
      simpa [writeResult, checkpointLost_background (slot := slot) (hlost rfl) halerts] using ha
    · obtain ⟨huline, hupaused, husupply, humetadata⟩ := recovery_unlatched ht.symm hu.symm hline hlatch
      exact ⟨huline, hupaused, husupply, fun hv => (humetadata hv).trans (hdirty hv)⟩
    · obtain ⟨hulatch, hends, hwrites⟩ := recovery_latched ht.symm hu.symm hlatch hclean hexec
      refine ⟨hulatch, fun hv hm => hends ((hsame hv).trans hm), fun hwhy => hwrites ?_⟩
      cases hv : verified with
      | true => exact (hsame hv).trans (hwhy.resolve_left (by simp [hv]))
      | false => exact hdirty hv
  · exact ⟨_, exec_write_retried hop hk, write_retried⟩
  · exact ⟨_, exec_background hop hline hw (Or.inr hk), background_lost he halerts hline rfl⟩

end Sys2Proof.Machine


namespace Sys2Proof.Machine

/-! ### The idle timer and the line request (R73, R127, R128) -/

theorem queueOpen_contents (s : State) : SameContents s (queueOpen s) := by
  refine ⟨⟨by simp, by simp, by simp, by simp, by simp, by simp, SameSegments.of_segs (by simp)⟩, ?_⟩
  unfold SameUnits
  simp

theorem queueOpen_taken (s : State) : (queueOpen s).taken = s.taken := taken_of_posts (by simp)

theorem beginLineStore_contents (s : State) : SameContents { s with supply.latch := false } (beginLineStore s) := by
  refine ⟨⟨by simp, by simp, by simp, by simp, by simp, by simp, SameSegments.of_segs (by simp)⟩, ?_⟩
  unfold SameUnits
  simp [beginLineStore]

theorem formatCheckpointing_false {s : State} (h : ∀ e, (s.chan 0).exec = some e → e.stage ≠ .formatCheckpoint) :
    s.formatCheckpointing = false := by
  rw [State.formatCheckpointing]
  split
  · next e he => simpa using h e he
  · rfl

/-- FORMAT to come does not wait for its checkpoint write. -/
theorem not_checkpointing_of_coming {s : State} {e : Executing}
    (h : Executes 0 .format .handed e s ∨ Executes 0 .format .formatWait e s) :
    ∀ r, (s.chan 0).exec = some r → r.req.kind ≠ .format ∨ r.stage ≠ .formatCheckpoint := by
  have hstands : (s.chan 0).exec = some e ∧ e.stage ≠ .formatCheckpoint := by
    rcases h with ⟨-, hexec, -, hstage⟩ | ⟨-, hexec, -, hstage⟩ <;> exact ⟨hexec, by simp [hstage]⟩
  intro r hr
  rw [hstands.1, Option.some.injEq] at hr
  exact Or.inr (hr ▸ hstands.2)

theorem formatCheckpointing_executes {s : State} {e : Executing} (h : Executes 0 .format .formatCheckpoint e s) :
    s.formatCheckpointing = true := by
  obtain ⟨-, hexec, -, hstage⟩ := h
  simp [State.formatCheckpointing, hexec, hstage]

/-- FORMAT accepted and waiting is still to come (R104). -/
theorem formatComing_of_hold {s : State} (h : s.formatHold = true) : s.formatComing = true := by
  by_contra hnot
  rw [formatHold_of_not_coming (by simpa using hnot)] at h
  cases h

/-- With something dirty and no checkpoint due, the end of an event starts the job at the head of the queue (R75, R92). -/
theorem settle_starts_head {test : Bool} {s : State} {i : SegId} {rest : List SegId} (hw : s.working = true)
    (hop : s.store.op = none) (hhold : s.formatHold = false) (hd : 0 < s.dirtyCount) (hq : s.store.queue = i :: rest)
    (h : test = false ∨ s.store.metadataDirty = false ∨ s.store.jobsSinceDirty < 32) :
    (settle test s).store.op = some (.job i 0) ∧ (settle test s).store.queue = rest ∧
      (settle test s).seg i = (s.seg i).started := by
  have hnot : test = false ∨ s.store.metadataDirty = false ∨ (s.store.queue ≠ [] ∧ s.store.jobsSinceDirty < 32) :=
    h.imp_right fun h => h.imp_right fun h => ⟨by simp [hq], h⟩
  have hstarted : settle test s = fetchArbiter (startJobOn i { s with store.queue := rest }) := by
    rw [settle_line, lineStoreTest_rests (Or.inr (Or.inr (Or.inl hd))),
      startNext_job (mayStart_iff.mpr ⟨hop, hw, hhold⟩) hnot, startJob_cons hq]
  obtain ⟨hstore, hseg, -⟩ := startJobOn_starts i { s with store.queue := rest }
  have hkept : (fetchArbiter (startJobOn i { s with store.queue := rest })).store =
      (startJobOn i { s with store.queue := rest }).store := by simp
  rw [hstarted, fetchArbiter_seg, hseg, hkept, hstore]
  exact ⟨rfl, rfl, rfl⟩

/-- The OPEN segment joins the queue's end; what was queued stays before it (R71). -/
theorem queueOpen_order {s : State} :
    (∀ i rest, s.store.queue = i :: rest → ∃ later, (queueOpen s).store.queue = i :: later) ∧
      ∀ i, s.store.queue = [] → s.openSegment = some i → (s.seg i).dirty = true → (s.seg i).inStore = false →
        (queueOpen s).store.queue = [i] := by
  refine ⟨fun i rest hq => ?_, fun i hq hi hd hs => ?_⟩
  · rw [queueOpen]
    split
    · rw [queueSeg]
      split
      · exact ⟨_, by rw [hq]; rfl⟩
      · exact ⟨rest, hq⟩
    · exact ⟨rest, hq⟩
  · simp [queueOpen, hi, queueSeg, (openSegment_spec hi).2, hd, hs, hq]

section
variable {s : State}

theorem exec_pstoreRequest {ns : Nat} (hns : 1000 ≤ ns) (hhigh : s.supply.driveLow = false) :
    (s.working = true → s.store.lineStore = .none → exec (.pstoreRequest ns) s = .next (settle false (beginLineStore s))) ∧
      (s.device = .recall ∨ s.device = .recover →
        exec (.pstoreRequest ns) s = .next { s with supply.latch := true }) ∧
      (s.device = .off ∨ s.device = .emergency ∨ s.device = .halted → exec (.pstoreRequest ns) s = .next s) := by
  refine ⟨fun hw hline => ?_, fun hd => ?_, fun hd => ?_⟩
  · simp [exec, execPstoreRequest, hns, hhigh, hw, hline]
  · have hw : s.working = false := by rcases hd with h | h <;> simp [State.working, h]
    simp [exec, execPstoreRequest, hns, hhigh, hw, hd]
  · have hw : s.working = false := by rcases hd with h | h | h <;> simp [State.working, h]
    have hne : ¬ (s.device = .recall ∨ s.device = .recover) := by rcases hd with h | h | h <;> simp [h]
    simp [exec, execPstoreRequest, hns, hhigh, hw, hne]

variable {u : State} (hu : u = settle false (beginLineStore s))
include hu

/-- A line store that waits for an operation, a segment or FORMAT stands as it began (R128, R129). -/
theorem lineStore_waits (h : s.store.op ≠ none ∨ 0 < s.dirtyCount ∨
    ∃ e, Executes 0 .format .handed e s ∨ Executes 0 .format .formatWait e s) :
    u.supply.driveLow = true ∧ u.cc.fetchPaused = true ∧
      u.store.lineStore = (if s.formatCheckpointing then .checkpoint else .segments) ∧
      ∀ i, s.openSegment = some i → (s.seg i).dirty = true → (u.seg i).inStore = true ∨ i ∈ u.store.queue := by
  obtain ⟨hsupply, hpaused, hphase, -⟩ := beginLineStore_sets s
  have hrest : lineStoreTest (beginLineStore s) = beginLineStore s := by
    refine lineStoreTest_rests (Or.inr ?_)
    rcases h with h | h | ⟨e, h⟩
    · exact Or.inl (by simpa using h)
    · exact Or.inr (Or.inl (by rwa [beginLineStore_dirtyCount]))
    · exact Or.inr (Or.inr (by rw [formatComing_beginLineStore, formatComing_executes h]))
  obtain ⟨huline, hupaused, hudrive⟩ := settle_keeps_line false hrest
  rw [← hu] at huline hupaused hudrive
  refine ⟨hudrive.trans (by rw [hsupply]), hupaused.trans hpaused, huline.trans hphase, fun i hi hd => ?_⟩
  have hqueued : Queued i (beginLineStore s) := queueOpen_queued (s := { s with
    supply.driveLow := true, supply.latch := false, cc.fetchPaused := true,
    store.lineStore := if s.formatCheckpointing then .checkpoint else .segments }) hi hd
  rw [hu]
  exact (hqueued.settle false).symm

/-- A line request starts no operation beside one in flight, nor while FORMAT waits (R104, R128). -/
theorem lineStore_starts_none :
    (s.store.op ≠ none → u.store.op = s.store.op) ∧ (s.store.op = none → s.formatHold = true → u.store.op = none) := by
  have hop : (beginLineStore s).store.op = s.store.op := by simp
  refine ⟨fun hbusy => ?_, fun hidle hhold => ?_⟩
  · rw [hu, settle_busy false (by rwa [hop]), ← hop]
    simp
  · have hheld : (beginLineStore s).formatHold = true := by
      rw [(formatComing_congr (s := s) (by simp [State.chan])).2.1, hhold]
    rw [hu, settle_line, lineStoreTest_rests (Or.inr (Or.inr (Or.inr (formatComing_of_hold hheld)))),
      startNext_rests false (Or.inr (Or.inr hheld)), ← hidle, ← hop]
    simp

variable (hw : s.working = true) (hop : s.store.op = none) (hhold : s.formatHold = false)
include hw hop hhold

/-- With a dirty segment and no operation in flight, a line request starts the job at the head of the queue, or else the
OPEN segment's (R73, R75). -/
theorem lineStore_starts_job (hd : 0 < s.dirtyCount) :
    (∀ i rest, s.store.queue = i :: rest → u.store.op = some (.job i 0) ∧ (u.seg i).inStore = true ∧
      (u.seg i).snapshot = (u.seg i).lastSeq) ∧
    ∀ i, s.store.queue = [] → s.openSegment = some i → (s.seg i).dirty = true → (s.seg i).inStore = false →
      u.store.op = some (.job i 0) ∧ (u.seg i).inStore = true ∧ (u.seg i).snapshot = (u.seg i).lastSeq ∧
        u.store.queue = [] := by
  have hworking : (beginLineStore s).working = true := by simpa [State.working] using hw
  have hidle : (beginLineStore s).store.op = none := by simpa using hop
  have hfree : (beginLineStore s).formatHold = false := by
    rw [(formatComing_congr (s := s) (by simp [State.chan])).2.1, hhold]
  have hdirty : 0 < (beginLineStore s).dirtyCount := by rwa [beginLineStore_dirtyCount]
  obtain ⟨hhead, htail⟩ := queueOpen_order (s := { s with
    supply.driveLow := true, supply.latch := false, cc.fetchPaused := true,
    store.lineStore := if s.formatCheckpointing then .checkpoint else .segments })
  subst hu
  refine ⟨fun i rest hq => ?_, fun i hq hi hdi hs => ?_⟩
  · obtain ⟨later, hlater⟩ := hhead i rest hq
    obtain ⟨hjob, -, hseg⟩ := settle_starts_head hworking hidle hfree hdirty hlater (Or.inl rfl)
    rw [hseg]
    exact ⟨hjob, rfl, rfl⟩
  · obtain ⟨hjob, hqueue, hseg⟩ :=
      settle_starts_head hworking hidle hfree hdirty (htail i hq hi hdi hs) (Or.inl rfl)
    rw [hseg]
    exact ⟨hjob, rfl, rfl, hqueue⟩

/-- With everything stored and no FORMAT, a line request writes a checkpoint while metadata is dirty, and else its line
store ends with the event (R129). -/
theorem lineStore_clean (hd : s.dirtyCount = 0) (hkind : ∀ e, (s.chan 0).exec = some e → e.req.kind ≠ .format) :
    (s.store.metadataDirty = true →
      u.store.lineStore = .checkpoint ∧ u.supply.driveLow = true ∧ u.cc.fetchPaused = true ∧
      u.store.metadataDirty = false ∧ ∃ x, u.store.op = some (.checkpoint s.nextSlot.1 x 0)) ∧
    (s.store.metadataDirty = false →
      u.store.lineStore = .none ∧ u.supply.driveLow = false ∧ u.cc.fetchPaused = false) := by
  obtain ⟨hsupply, hpaused, -, hrunning, -⟩ := beginLineStore_sets s
  have hworking : (beginLineStore s).working = true := by simpa [State.working] using hw
  have hidle : (beginLineStore s).store.op = none := by simpa using hop
  have hclean : (beginLineStore s).dirtyCount = 0 := (beginLineStore_dirtyCount s).trans hd
  have hcoming : (beginLineStore s).formatComing = false := by
    rw [formatComing_beginLineStore, formatComing_none hhold hkind]
  subst hu
  refine ⟨fun hm => ?_, fun hm => ?_⟩
  · obtain ⟨hphase, hup, hud, hmetadata, x, hwritten, -⟩ :=
      settle_line_writes false hrunning hworking hidle hclean hcoming (by simpa using hm)
    rw [nextSlot_congr (s := s) (by simp)] at hwritten
    exact ⟨hphase, hud.trans (by simp [hsupply]), hup.trans hpaused, hmetadata, x, hwritten⟩
  · obtain ⟨hphase, hup, hud⟩ := settle_line_ends false hrunning hworking hidle hclean hcoming (by simpa using hm)
    exact ⟨hphase, hud, hup⟩

end

/-! ### A channel while other requests are answered (R156, R160) -/

/-- Channel `c` executes what it executed, or has closed; ACTIVE, it stays so and goes on. -/
def ChannelStands (c : ChanId) (s t : State) : Prop :=
  ((t.chan c).exec = (s.chan c).exec ∨ (t.chan c).exec = none) ∧
    ((s.chan c).state = .active → (t.chan c).state = .active ∧ (t.chan c).exec = (s.chan c).exec)

namespace ChannelStands
variable {c : ChanId} {s t u : State}

theorem of_same (hexec : (t.chan c).exec = (s.chan c).exec) (hstate : (t.chan c).state = (s.chan c).state) :
    ChannelStands c s t := ⟨Or.inl hexec, fun h => ⟨hstate.trans h, hexec⟩⟩

theorem of_cc (h : t.cc.chans = s.cc.chans) : ChannelStands c s t :=
  of_same (by simp [State.chan, h]) (by simp [State.chan, h])

theorem trans (h : ChannelStands c s t) (h' : ChannelStands c t u) : ChannelStands c s u := by
  obtain ⟨hexec, hactive⟩ := h
  obtain ⟨hexec', hactive'⟩ := h'
  refine ⟨?_, fun ha => ?_⟩
  · rcases hexec' with e | e
    · rw [e]; exact hexec
    · exact Or.inr e
  · obtain ⟨ht, hsame⟩ := hactive ha
    obtain ⟨hu, hsame'⟩ := hactive' ht
    exact ⟨hu, hsame'.trans hsame⟩

theorem takeSlot (d : ChanId) (x : Completion) (s : State) : ChannelStands c s (takeSlot d x s) :=
  of_same (takeSlot_exec d c x s) (takeSlot_state d c x s)

theorem closeDrained {d : ChanId} (hd : (s.chan d).state = .draining) : ChannelStands c s (closeDrained d s) := by
  have hdrained : ChannelStands c s (drained d s) := by
    by_cases h : c = d
    · subst h
      refine ⟨Or.inr (by rw [drained_chan_same]; rfl), fun ha => ?_⟩
      rw [hd] at ha
      cases ha
    · exact of_same (by rw [drained_chan_other s h]) (by rw [drained_chan_other s h])
  rw [closeDrained_eq]
  split
  · exact hdrained.trans (takeSlot _ _ _)
  · exact hdrained

theorem handCompletion (d : ChanId) (x : Completion) (s : State) : ChannelStands c s (handCompletion d x s) := by
  rw [Machine.handCompletion, drainCheck]
  split
  · next h => exact (takeSlot d x s).trans (closeDrained h.1)
  · exact takeSlot d x s

theorem finishWaiters (p : Waiter → Bool) (status : Status) (s : State) :
    ChannelStands c s (finishWaiters p status s) :=
  foldl_invariant (P := ChannelStands c s) (completeWaiter status) (fun _ w ht => ht.trans (handCompletion w.chan _ _)) _
    (of_cc rfl)

theorem recomputeS (s : State) : ChannelStands c s (recomputeS s) := by
  rw [Machine.recomputeS]
  split
  · exact (of_cc rfl : ChannelStands c s { s with store.storedThrough := s.storedThroughNow }).trans (finishWaiters _ _ _)
  · exact of_cc rfl

theorem postAlert (kind : AlertKind) (n d : Nat) (s : State) : ChannelStands c s (postAlert kind n d s) :=
  of_same (postAlert_chan kind n d s c).1 (postAlert_chan kind n d s c).2

theorem evalExposureBut (lost : Waiter → Bool) (s : State) : ChannelStands c s (evalExposureBut lost s) := by
  rw [Machine.evalExposureBut]
  split
  · simp only
    split
    · split
      · exact ((of_cc rfl : ChannelStands c s { s with budget.exposed := false }).trans (postAlert _ _ _ _)).trans
          (finishWaiters _ _ _)
      · exact of_cc rfl
    · split
      · exact (of_cc rfl : ChannelStands c s { s with budget.exposed := true }).trans (postAlert _ _ _ _)
      · exact of_cc rfl
  · exact of_cc rfl

/-- FORMAT to come on ACTIVE channel 0 is still to come. -/
theorem formatComing {e : Executing} (h : ChannelStands 0 s t)
    (hx : Executes 0 .format .handed e s ∨ Executes 0 .format .formatWait e s) : t.formatComing = true := by
  have hactive : (s.chan 0).state = .active := hx.elim And.left And.left
  rw [(formatComing_congr (h.2 hactive).2).1, formatComing_executes hx]

/-- Where no FORMAT executes, none comes. -/
theorem formatComing_none (h : ChannelStands 0 s t) (hhold : s.formatHold = false)
    (hkind : ∀ e, (s.chan 0).exec = some e → e.req.kind ≠ .format) : t.formatComing = false := by
  rcases h.1 with hsame | hnone
  · rw [(formatComing_congr hsame).1, Machine.formatComing_none hhold hkind]
  · simp [State.formatComing, hnone]

theorem formatHold (h : ChannelStands 0 s t) (hhold : s.formatHold = false) : t.formatHold = false := by
  rcases h.1 with hsame | hnone
  · rw [(formatComing_congr hsame).2.1, hhold]
  · simp [State.formatHold, hnone]

end ChannelStands

/-! ### The job that leaves everything stored (R129) -/

/-- What follows in the line store at an event that leaves D at 0 with no operation in flight (R129, log entry 25). -/
theorem lineStore_follows {s t : State} (hline : t.store.lineStore = s.store.lineStore) (hne : s.store.lineStore ≠ .none)
    (hw : t.working = true) (hop : t.store.op = none) (hd : t.dirtyCount = 0)
    (hmetadata : t.store.metadataDirty = s.store.metadataDirty) (hnewest : t.store.newest = s.store.newest)
    (hpaused : t.cc.fetchPaused = s.cc.fetchPaused) (hdrive : t.supply.driveLow = s.supply.driveLow) {u : State}
    (hu : u = settle true t) :
    (t.formatComing = false → s.store.metadataDirty = true → u.store.lineStore = .checkpoint ∧
      (∃ x, u.store.op = some (.checkpoint s.nextSlot.1 x 0)) ∧ u.cc.fetchPaused = s.cc.fetchPaused ∧
      u.supply.driveLow = s.supply.driveLow) ∧
    (t.formatComing = false → s.store.metadataDirty = false →
      u.store.lineStore = .none ∧ u.cc.fetchPaused = false ∧ u.supply.driveLow = false) ∧
    (t.formatComing = true → u.store.lineStore = s.store.lineStore ∧ u.cc.fetchPaused = s.cc.fetchPaused ∧
      u.supply.driveLow = s.supply.driveLow) := by
  rw [← hline] at hne
  refine ⟨fun hcoming hm => ?_, fun hcoming hm => ?_, fun hcoming => ?_⟩
  · obtain ⟨hcheckpoint, hup, hud, -, x, hwritten, -⟩ :=
      settle_line_writes true hne hw hop hd hcoming (hmetadata.trans hm)
    rw [nextSlot_congr hnewest] at hwritten
    rw [hu]
    exact ⟨hcheckpoint, ⟨x, hwritten⟩, hup.trans hpaused, hud.trans hdrive⟩
  · rw [hu]
    exact settle_line_ends true hne hw hop hd hcoming (hmetadata.trans hm)
  · obtain ⟨huline, hup, hud⟩ := settle_keeps_line true (lineStoreTest_rests (Or.inr (Or.inr (Or.inr hcoming))))
    rw [hu]
    exact ⟨huline.trans hline, hup.trans hpaused, hud.trans hdrive⟩

/-- The end of a verified job with no request held, up to the end of its event. -/
def jobDone (i : SegId) (s : State) : State := countJob (recomputeS (jobRelieved i s))

theorem exec_jobDone {i : SegId} {w : Nat} {s : State} (hop : s.store.op = some (.job i w)) (hw : s.working = true)
    (hheld : s.budget.held = []) (hst : (s.seg i).state = .openS ∨ (s.seg i).state = .full)
    (hgrew : (s.seg i).grewInStore = false) :
    exec (.storePassEnd true) s = .next (settle true (jobDone i (passBytes i w true s))) := by
  have hseg : (passBytes i w true s).seg i = s.seg i := passBytes_seg i i w true s
  have hlive : (passBytes i w true s).budgetLive = true := by
    simpa [State.budgetLive] using budgetLive_of_working hw
  have hnone : (jobRelieved i (passBytes i w true s)).budget.held = [] := by
    rw [(jobRelieved_leaves i _).1]
    simpa using hheld
  rw [exec_storePassEnd hop hw, passEnd_clean (by rwa [hseg]) (by rwa [hseg]), onRelief_endJob hlive,
    grantRun_none_held hnone]
  rfl

theorem jobDone_stands {c : ChanId} {i : SegId} {s : State} : ChannelStands c s (jobDone i s) := by
  have hend : ChannelStands c s (endJob i s) := .of_cc (by simp)
  have hexposure : ChannelStands c s (evalExposure (endJob i s)) := hend.trans (.evalExposureBut _ _)
  have hrelieved : ChannelStands c s (jobRelieved i s) := hexposure.trans (.of_cc (by simp [jobRelieved]))
  exact (hrelieved.trans (.recomputeS _)).trans (.of_cc (by simp [jobDone]))

theorem jobDone_seg (i j : SegId) (s : State) :
    (jobDone i s).seg j = if j = i then (s.seg i).stored else s.seg j := by
  rw [← endJob_seg, ← jobRelieved_seg]
  simp [jobDone, State.seg]

theorem dirtyCount_of_clean {s : State} (h : ∀ j, (s.seg j).dirty = false) : s.dirtyCount = 0 := by
  rw [State.dirtyCount, State.countSegs, List.countP_eq_zero]
  intro g hg
  obtain ⟨n, hn, rfl⟩ := List.mem_iff_getElem.mp hg
  have hclean := h ⟨n, by simpa using hn⟩
  simpa [State.seg] using hclean

/-! ### The end of a checkpoint write while a line store runs (R129, R130) -/

section
variable {slot : Slot} {x : Checkpoint} {k : Nat} {s : State} {verified : Bool}

theorem lineStoreWrite_congr {t : State} (hline : t.store.lineStore = s.store.lineStore)
    (hexec : (t.chan 0).exec = (s.chan 0).exec) : t.lineStoreWrite = s.lineStoreWrite := by
  rw [State.lineStoreWrite, hline, (formatComing_congr hexec).2.2]
  rfl

theorem exec_lineWrite (hop : s.store.op = some (.checkpoint slot x k)) (hw : s.working = true)
    (h : verified = true ∨ 2 ≤ k) (hwrite : s.lineStoreWrite = true) :
    exec (.checkpointWriteEnd verified) s = .next (settle verified
      (lineStoreAfterCheckpoint verified (completeFormat verified (writeResult verified slot x s)))) := by
  have hends := writeResult_ends verified slot x s
  rw [exec_write_working hop hw h, backgroundEnd, lineStoreWrite_congr hends.line (hends.exec 0)]
  simp [hwrite]

end

/-- The store engine after the write and FORMAT's completion, with the line store still in its phase. -/
structure LineWritten (s v : State) : Prop where
  working : v.working = s.working
  segs : v.journal.segs = s.journal.segs
  chain : v.journal.chain = s.journal.chain
  op : v.store.op = none
  paused : v.cc.fetchPaused = s.cc.fetchPaused
  drive : v.supply.driveLow = s.supply.driveLow

section
variable {slot : Slot} {x : Checkpoint} {s v : State} {verified : Bool}
  (hv : v = completeFormat verified (writeResult verified slot x s))
include hv

theorem lineWritten : LineWritten s v := by
  have hends := writeResult_ends verified slot x s
  subst hv
  exact ⟨by simp [State.working, hends.device], by simp [hends.journal], by simp [hends.journal], by simp [hends.idle],
    by simp [hends.paused], by simp [hends.supply]⟩

/-- A write that is not FORMAT's leaves channel 0's request. -/
theorem lineWritten_exec (h : ∀ e, (s.chan 0).exec = some e → e.req.kind ≠ .format ∨ e.stage ≠ .formatCheckpoint) :
    (v.chan 0).exec = (s.chan 0).exec := by
  have hends := writeResult_ends verified slot x s
  rw [hv, completeFormat_rests (by simpa only [hends.exec 0] using h), hends.exec 0]

/-- FORMAT's own write ends FORMAT, so that none is to come. -/
theorem lineWritten_format {e : Executing} (h : Executes 0 .format .formatCheckpoint e s) :
    (v.chan 0).exec = none := by
  obtain ⟨hactive, hexec, hkind, hstage⟩ := h
  have hends := writeResult_ends verified slot x s
  have hsame := (hends.exec 0).trans hexec
  have hstate : ((writeResult verified slot x s).chan 0).state = .active := (hends.state 0).trans hactive
  rw [hv, completeFormat_completes hsame hkind hstage, completeExec, handCompletion_active _ (by
    rw [endExecution_chan_same]; exact hstate), takeSlot_exec, endExecution_chan_same]

theorem lineWritten_dirtyCount : v.dirtyCount = s.dirtyCount :=
  dirtyCount_congr (SameSegments.of_segs (lineWritten hv).segs)

theorem lineWritten_openSegment : v.openSegment = s.openSegment ∧ ∀ i, v.seg i = s.seg i := by
  have hl := lineWritten hv
  have hseg : ∀ i, v.seg i = s.seg i := fun i => by rw [State.seg, hl.segs, State.seg]
  exact ⟨by simp only [State.openSegment, hseg, hl.chain], hseg⟩

variable {u : State} (hu : u = settle verified (lineStoreAfterCheckpoint verified v))
include hu

/-- What was committed during the write is stored: the line store goes back to its segments (R129). -/
theorem lineWrite_back (hd : 0 < s.dirtyCount) : u.store.lineStore = .segments ∧ u.cc.fetchPaused = s.cc.fetchPaused ∧
    u.supply.driveLow = s.supply.driveLow ∧
    ∀ i, s.openSegment = some i → (s.seg i).dirty = true → (u.seg i).inStore = true ∨ i ∈ u.store.queue := by
  have hl := lineWritten hv
  obtain ⟨hopen, hseg⟩ := lineWritten_openSegment hv
  have hcount := lineWritten_dirtyCount hv
  have hafter : lineStoreAfterCheckpoint verified v = queueOpen { v with store.lineStore := .segments } := by
    rw [lineStoreAfterCheckpoint, if_pos (by rwa [hcount])]
  rw [hafter] at hu
  have hdirty : 0 < (queueOpen { v with store.lineStore := .segments }).dirtyCount := by
    rw [dirtyCount_congr (s := v) (SameSegments.of_segs (by simp)), hcount]
    exact hd
  obtain ⟨huline, hupaused, hudrive⟩ := settle_keeps_line verified (lineStoreTest_rests (Or.inr (Or.inr (Or.inl hdirty))))
  rw [← hu] at huline hupaused hudrive
  refine ⟨huline.trans (by simp), hupaused.trans (by simpa using hl.paused), hudrive.trans (by simpa using hl.drive),
    fun i hi hdi => ?_⟩
  have hqueued : Queued i (queueOpen { v with store.lineStore := .segments }) :=
    queueOpen_queued (s := { v with store.lineStore := .segments }) (hopen.trans hi) (by
      rw [← hseg] at hdi
      exact hdi)
  rw [hu]
  exact (hqueued.settle verified).symm

/-- With everything stored and FORMAT to come, the line store waits for FORMAT's write (log entry 25). -/
theorem lineWrite_waits (hd : s.dirtyCount = 0) (hcoming : v.formatComing = true) :
    u.store.lineStore = .segments ∧ u.cc.fetchPaused = s.cc.fetchPaused ∧ u.supply.driveLow = s.supply.driveLow := by
  have hl := lineWritten hv
  have hafter : lineStoreAfterCheckpoint verified v = { v with store.lineStore := .segments } := by
    rw [lineStoreAfterCheckpoint, if_neg (by rw [lineWritten_dirtyCount hv, hd]; simp), if_pos hcoming]
  rw [hafter] at hu
  obtain ⟨huline, hupaused, hudrive⟩ := settle_keeps_line verified
    (lineStoreTest_rests (s := { v with store.lineStore := .segments }) (Or.inr (Or.inr (Or.inr hcoming))))
  rw [← hu] at huline hupaused hudrive
  exact ⟨huline, hupaused.trans hl.paused, hudrive.trans hl.drive⟩

/-- With everything stored and no FORMAT to come, the line store writes a checkpoint again while metadata is dirty after a
verified write, and ends otherwise (R129). -/
theorem lineWrite_ends (hd : s.dirtyCount = 0) (hcoming : v.formatComing = false) :
    (verified = true → s.store.metadataDirty = true → u.store.lineStore = .checkpoint ∧
      (∃ y, u.store.op = some (.checkpoint u.nextSlot.1 y 0)) ∧ u.cc.fetchPaused = s.cc.fetchPaused ∧
      u.supply.driveLow = s.supply.driveLow) ∧
    (verified = false ∨ s.store.metadataDirty = false →
      u.store.lineStore = .none ∧ u.cc.fetchPaused = false ∧ u.supply.driveLow = false) := by
  have hl := lineWritten hv
  have hmetadata : verified = true → v.store.metadataDirty = s.store.metadataDirty := fun h => by
    subst h
    simp [hv, writeResult]
  have hclean : ¬ 0 < v.dirtyCount := by simp [lineWritten_dirtyCount hv, hd]
  rw [lineStoreAfterCheckpoint, if_neg hclean, if_neg (by simp [hcoming])] at hu
  refine ⟨fun hver hm => ?_, fun hwhy => ?_⟩
  · rw [if_pos ⟨hver, (hmetadata hver).trans hm⟩] at hu
    obtain ⟨hop, -, -⟩ := startCheckpoint_begun { v with store.lineStore := .checkpoint }
    have hbusy : (startCheckpoint { v with store.lineStore := .checkpoint }).store.op ≠ none := by simp [hop]
    have hnewest : u.nextSlot = State.nextSlot { v with store.lineStore := .checkpoint } :=
      nextSlot_congr (by simp [hu])
    rw [settle_busy verified hbusy] at hu
    rw [hnewest, hu]
    refine ⟨by simp, ⟨_, (by simp : (fetchArbiter (startCheckpoint { v with store.lineStore := .checkpoint })).store.op =
      (startCheckpoint { v with store.lineStore := .checkpoint }).store.op).trans hop⟩, by simp [hl.paused],
      by simp [hl.drive]⟩
  · rw [if_neg] at hu
    · obtain ⟨huline, hupaused, hudrive⟩ := settle_keeps_line verified
        (lineStoreTest_rests (s := endLineStore v) (Or.inl rfl))
      rw [← hu] at huline hupaused hudrive
      exact ⟨huline, hupaused, hudrive⟩
    · rintro ⟨hver, hm⟩
      rcases hwhy with h | h
      · rw [hver] at h; cases h
      · rw [hmetadata hver, h] at hm; cases hm

end

theorem idleTimer_queues {s : State} {t : Nat} {i : SegId} (ht : s.store.idleTimer = some t) (hi : s.openSegment = some i)
    (hd : (s.seg i).dirty = true) : ∃ u, exec .idleTimerExpiry s = .next u ∧ u.store.idleTimer = none ∧
      (i ∈ u.store.queue ∨ (u.seg i).inStore = true) ∧ SameContents { s with now := max s.now t } u ∧
      u.taken = s.taken := by
  have hexec : exec .idleTimerExpiry s =
      .next (settle false (queueOpen { s.reachTime t with store.idleTimer := none })) := by
    simp only [exec, execIdleTimerExpiry, ht]
  refine ⟨_, hexec, by simp, ?_, ?_, ?_⟩
  · exact (queueOpen_queued (s := { s.reachTime t with store.idleTimer := none }) hi hd).settle false
  · have hreach : SameContents { s with now := max s.now t } { s.reachTime t with store.idleTimer := none } :=
      ⟨⟨rfl, rfl, rfl, rfl, rfl, rfl, SameSegments.of_segs rfl⟩,
        ⟨rfl, rfl, rfl, rfl, rfl, rfl, rfl, rfl, rfl, rfl, rfl, rfl, rfl, rfl, rfl, rfl, rfl, rfl, rfl, rfl⟩⟩
    exact (hreach.trans (queueOpen_contents _)).trans (settle_contents _ _)
  · rw [settle_taken, queueOpen_taken]
    rfl

/-- Settles O51: each trigger by what its event does before the end of the event, and there by the test of R129. -/
theorem storeTriggers : Obligations.StoreTriggers := by
  refine ⟨fun s t i ht hi hd _ => idleTimer_queues ht hi hd, fun s ns => ⟨fun hno => ?_, fun hns hhigh => ?_⟩,
    fun s i w hop hw hheld hline hst hgrew hothers => ?_, fun s slot x k hop hw hline verified hend => ?_⟩
  · simp only [exec, execPstoreRequest]
    rw [if_neg]
    rintro ⟨hns, hhigh⟩
    rcases hno with h | h
    · omega
    · simp [h] at hhigh
  · obtain ⟨hbegins, hlatched, hnothing⟩ := exec_pstoreRequest hns hhigh
    refine ⟨fun hw hline => ⟨_, hbegins hw hline, ?_⟩, hlatched, hnothing⟩
    generalize hu : settle false (beginLineStore s) = u
    obtain ⟨hsupply, -⟩ := beginLineStore_sets s
    obtain ⟨hbusy, hholds⟩ := lineStore_starts_none hu.symm
    refine ⟨by simp [← hu, hsupply], ?_, ?_, fun hwhy => ?_, hbusy, hholds,
      fun hop hhold hd => lineStore_starts_job hu.symm hw hop hhold hd,
      fun hop hd hhold hkind => lineStore_clean hu.symm hw hop hhold hd hkind⟩
    · rw [← hu]
      exact (beginLineStore_contents s).trans (settle_contents _ _)
    · rw [← hu, settle_taken]
      exact taken_of_posts (by simp)
    · obtain ⟨hdrive, hupaused, hphase, hqueued⟩ := lineStore_waits hu.symm hwhy
      exact ⟨hdrive, hupaused, fun h => by rw [hphase, formatCheckpointing_false h]; rfl,
        fun e he => by rw [hphase, formatCheckpointing_executes he]; rfl, hqueued⟩
  · have hstands : ChannelStands 0 s (jobDone i (passBytes i w true s)) :=
      (ChannelStands.of_cc (by simp)).trans jobDone_stands
    have hclean : (jobDone i (passBytes i w true s)).dirtyCount = 0 := dirtyCount_of_clean fun j => by
      rw [jobDone_seg, passBytes_seg, passBytes_seg]
      split
      · exact stored_clean hgrew
      · next hj => exact hothers j hj
    obtain ⟨hwrites, hends, hwaits⟩ := lineStore_follows (s := s) (t := jobDone i (passBytes i w true s))
      (by simp [jobDone, jobRelieved]) (by simp [hline]) (by simpa [jobDone, jobRelieved, State.working] using hw)
      (by simpa [jobDone] using (jobRelieved_leaves i (passBytes i w true s)).2.1) hclean
      (by simp [jobDone, jobRelieved]) (by simp [jobDone, jobRelieved]) (by simp [jobDone, jobRelieved])
      (by simp [jobDone, jobRelieved]) rfl
    rw [hline] at hwaits
    refine ⟨_, exec_jobDone hop hw hheld hst hgrew, ?_, fun hm hkind hhold => ?_, fun hm hkind hhold => ?_,
      fun e he => hwaits (hstands.formatComing he)⟩
    · obtain ⟨⟨-, -, -, -, -, -, hsame⟩, -⟩ := settle_contents true (jobDone i (passBytes i w true s))
      exact (dirtyCount_congr hsame).trans hclean
    · exact hwrites (hstands.formatComing_none hhold hkind) hm
    · exact hends (hstands.formatComing_none hhold hkind) hm
  · cases hwrite : s.lineStoreWrite with
    | false =>
      have hphase : s.store.lineStore ≠ .checkpoint := fun h => by simp [State.lineStoreWrite, h] at hwrite
      refine ⟨_, exec_write_working hop hw hend, fun h => absurd h hphase, fun _ hwhy => ?_, fun h => absurd h hphase⟩
      rcases hwhy with ⟨h, -⟩ | ⟨e, he⟩
      · exact absurd h hphase
      · simp [State.lineStoreWrite, formatCheckpointing_executes he, hline] at hwrite
    | true =>
      refine ⟨_, exec_lineWrite hop hw hend hwrite, fun _ hd => lineWrite_back rfl rfl hd, fun hd hwhy => ?_,
        fun _ hd hformat => ?_⟩
      · refine lineWrite_ends rfl rfl hd ?_
        rcases hwhy with ⟨-, hkind, hhold⟩ | ⟨e, he⟩
        · rw [(formatComing_congr (lineWritten_exec rfl fun e he => Or.inl (hkind e he))).1,
            formatComing_none hhold hkind]
        · simp [State.formatComing, lineWritten_format rfl he]
      · obtain ⟨e, he⟩ := hformat
        refine lineWrite_waits rfl rfl hd ?_
        rw [(formatComing_congr (lineWritten_exec rfl (not_checkpointing_of_coming he))).1, formatComing_executes he]

end Sys2Proof.Machine


namespace Sys2Proof.Machine

/-! ### The answers of an end of exposure and a rise of S, together (R67, R83) -/

theorem storedThroughNow_sameLog {s t : State} (h : SameLog s t) : t.storedThroughNow = s.storedThroughNow := by
  obtain ⟨-, -, hseq, -, -, -, hsame⟩ := h
  have hunstored : t.journal.segs.toList.map Segment.unstoredFrom = s.journal.segs.toList.map Segment.unstoredFrom := by
    refine List.ext_getElem (by simp) fun n h1 h2 => ?_
    obtain ⟨-, -, -, -, hn⟩ := hsame ⟨n, by simpa using h2⟩
    simp only [List.getElem_map]
    exact hn
  have hlow : ∀ l : List Segment, l.filterMap Segment.unstoredFrom = (l.map Segment.unstoredFrom).filterMap id :=
    fun l => by simp [List.filterMap_map]
  rw [State.storedThroughNow, State.lowestUnstored, hlow, hunstored, ← hlow, hseq]
  rfl

/-- Records that can be answered still can once those before them have been. -/
theorem completeWaiters_canAnswer (status : Status) (l m : List Waiter) {s : State} (h : s.CanAnswer (l ++ m)) :
    (l.foldl (completeWaiter status) s).CanAnswer m := by
  induction l generalizing s with
  | nil => exact h
  | cons w l ih =>
    have hw := h w (List.mem_cons_self)
    rw [List.cons_append, List.countP_cons_of_pos (by simp)] at hw
    obtain ⟨hopen, hlive⟩ := handCompletion_keeps_open (w.completion status s.store.storedThrough)
      (hw.imp_right fun ⟨hd, hc⟩ => ⟨hd, by omega⟩)
    rw [List.foldl_cons, completeWaiter, hopen]
    exact ih (canAnswer_rest _ h hlive)

theorem CanAnswer.of_chans {s t : State} {l : List Waiter} (h : s.CanAnswer l) (hc : t.cc.chans = s.cc.chans) :
    t.CanAnswer l := by
  unfold State.CanAnswer State.chan at *
  rwa [hc]

theorem CanAnswer.left {s : State} {l m : List Waiter} (h : s.CanAnswer (l ++ m)) : s.CanAnswer l := by
  intro w hw
  refine (h w (List.mem_append_left _ hw)).imp_right fun ⟨hd, hc⟩ => ⟨hd, ?_⟩
  rw [List.countP_append] at hc
  omega

theorem endings_append (status : Status) (through : Nat) (l m : List Waiter) :
    endings status through (l ++ m) = endings status through l ++ endings status through m :=
  List.map_append

/-- A record's completion names S for a FLUSH alone (R88). -/
theorem endings_exposed (status : Status) (a b : Nat) {l : List Waiter} (h : ∀ w ∈ l, w.kind = .appendExposed) :
    endings status a l = endings status b l := by
  refine List.map_congr_left fun w hw => ?_
  simp [Waiter.completion, h w hw]

/-- The waiting records that an evaluation of exposure satisfies: APPEND_EXPOSED ones whose entries `lost` does not name,
when it ends the exposure (R39, R67). -/
def State.reliefAnswers (lost : Waiter → Bool) (s : State) : List Waiter :=
  s.store.waiting.filter (fun w => s.budget.exposed && decide (s.dirtyCount ≤ s.budget.b) &&
    (w.kind == .appendExposed && !lost w))

section
variable {s : State} (hlive : s.budgetLive = true) (hw : s.cc.alertWaiters = [])
include hlive hw

theorem evalExposureBut_ends (lost : Waiter → Bool) (hx : s.budget.exposed = true) (hd : s.dirtyCount ≤ s.budget.b) :
    evalExposureBut lost s = finishWaiters (fun w => w.kind == .appendExposed && !lost w) .ok { s with
      budget.exposed := false,
      cc.alerts :=
        foldAlert .exposureEnded 0 (exposureDetail s.dirtyCount s.budget.b) s.clock.reading s.cc.alerts } := by
  simp only [evalExposureBut, hlive, hx, hd, if_true]
  rw [postAlert_eq (s := { s with budget.exposed := false }) hw]

/-- Where exposure does not end, an evaluation leaves the channels and their completions. -/
theorem evalExposureBut_quiet (lost : Waiter → Bool) (h : ¬ (s.budget.exposed = true ∧ s.dirtyCount ≤ s.budget.b)) :
    (evalExposureBut lost s).cc.chans = s.cc.chans ∧ (evalExposureBut lost s).cc.posts = s.cc.posts := by
  simp only [evalExposureBut, hlive, if_true]
  split
  · next hx => rw [if_neg fun hd => h ⟨hx, hd⟩]; exact ⟨rfl, rfl⟩
  · split
    · rw [postAlert_eq (s := { s with budget.exposed := true }) hw]
      exact ⟨rfl, rfl⟩
    · exact ⟨rfl, rfl⟩

/-- The evaluation of exposure answers the records that it satisfies, and leaves an answer to those that follow. -/
theorem evalExposureBut_answers (lost : Waiter → Bool) {m : List Waiter} (h : s.CanAnswer (s.reliefAnswers lost ++ m)) :
    (evalExposureBut lost s).takenBy =
        s.takenBy ++ endings .ok s.store.storedThrough (s.reliefAnswers lost) ∧
      (evalExposureBut lost s).CanAnswer m := by
  by_cases hended : s.budget.exposed = true ∧ s.dirtyCount ≤ s.budget.b
  · obtain ⟨hx, hd⟩ := hended
    have hanswers : s.reliefAnswers lost = s.store.waiting.filter (fun w => w.kind == .appendExposed && !lost w) := by
      simp [State.reliefAnswers, hx, hd]
    rw [hanswers] at h ⊢
    rw [evalExposureBut_ends hlive hw lost hx hd]
    have hcan := CanAnswer.of_chans (t := { s with
      budget.exposed := false,
      cc.alerts := foldAlert .exposureEnded 0 (exposureDetail s.dirtyCount s.budget.b) s.clock.reading s.cc.alerts,
      store.waiting := s.store.waiting.filter (fun w => !(w.kind == .appendExposed && !lost w)) }) h rfl
    exact ⟨completeWaiters_takenBy .ok _ (CanAnswer.left hcan), completeWaiters_canAnswer .ok _ m hcan⟩
  · obtain ⟨hchans, hposts⟩ := evalExposureBut_quiet hlive hw lost hended
    have hnone : s.reliefAnswers lost = [] := by
      rw [State.reliefAnswers, List.filter_eq_nil_iff]
      intro w _ hsatisfied
      simp only [Bool.and_eq_true, decide_eq_true_eq] at hsatisfied
      exact hended hsatisfied.1
    rw [hnone] at h ⊢
    exact ⟨by simp [State.takenBy, hposts, endings], CanAnswer.of_chans h hchans⟩

end

/-- What a fall of D does with no request held: exposure, pressure and S (R61, R77). -/
def relieved (s : State) : State := recomputeS (recomputePressure (evalExposure s))

theorem onRelief_relieved {s : State} (hheld : s.budget.held = []) (hlive : s.budgetLive = true) :
    recomputeS (onRelief s) = relieved s := by
  rw [onRelief, onReliefBut_none_held _ hheld hlive]
  rfl

/-- A fall of D leaves the store engine, the journal and the other units as they are. -/
theorem relieved_leaves (s : State) : (relieved s).journal = s.journal ∧ (relieved s).txns = s.txns ∧
    (relieved s).clock = s.clock ∧ (relieved s).array = s.array ∧ (relieved s).budget.b = s.budget.b ∧
    (relieved s).device = s.device ∧ (relieved s).store.storedThrough = s.storedThroughNow := by
  have hthrough : (relieved s).store.storedThrough = s.storedThroughNow :=
    (recomputeS_storedThrough _).trans (storedThroughNow_congr (by simp) (by simp))
  refine ⟨?_, ?_, ?_, ?_, ?_, ?_, hthrough⟩ <;> simp [relieved]

section
variable {s : State} (hlive : s.budgetLive = true) (hw : s.cc.alertWaiters = [])
include hlive hw

/-- The records of the exposure come first, then those that S covers. -/
theorem relieved_answers :
    Answers (s.budget.exposed && decide (s.dirtyCount ≤ s.budget.b)) [] s (relieved s) := by
  obtain ⟨-, -, -, -, -, -, hthrough⟩ := relieved_leaves s
  obtain ⟨hwaiting, -⟩ := evalExposure_answers hlive hw
  have hexposure : s.exposureAnswers (s.budget.exposed && decide (s.dirtyCount ≤ s.budget.b)) =
      s.reliefAnswers (fun _ => false) := by
    simp [State.exposureAnswers, State.reliefAnswers]
  generalize (s.budget.exposed && decide (s.dirtyCount ≤ s.budget.b)) = ended at *
  have hold : (evalExposure s).store.storedThrough = s.store.storedThrough := by simp
  have hrise : Answers false [] (evalExposure s) (relieved s) :=
    (recomputeS_answers (recomputePressure (evalExposure s))).of_eq (by simp) (by simp) (by simp)
  unfold Answers at hrise ⊢
  rw [hthrough] at hrise ⊢
  obtain ⟨hwaiting', htaken'⟩ := hrise
  rw [hold] at hwaiting' hwaiting
  have hnone : (evalExposure s).exposureAnswers false = [] := by simp [State.exposureAnswers]
  have hleft : (evalExposure s).store.waiting = s.store.waiting.filter (fun w => !(ended && w.kind == .appendExposed)) := by
    rw [hwaiting]
    simp
  have hcover : (evalExposure s).coverAnswers false s.storedThroughNow = s.coverAnswers ended s.storedThroughNow := by
    rw [State.coverAnswers, State.coverAnswers, hleft, hold, List.filter_filter]
    refine List.filter_congr fun w _ => ?_
    simp [Bool.and_comm]
  rw [hnone, hcover, List.nil_append, List.append_nil] at htaken'
  refine ⟨?_, fun hcan => ?_⟩
  · rw [hwaiting', hleft, List.filter_filter]
    refine List.filter_congr fun w _ => ?_
    simp [Bool.and_comm]
  · have hkind : ∀ w ∈ s.exposureAnswers ended, w.kind = .appendExposed := fun w hwm => by
      have := List.of_mem_filter hwm
      simp only [Bool.and_eq_true, beq_iff_eq] at this
      exact this.2
    have hcan' := hcan
    rw [hexposure] at hcan'
    obtain ⟨hfirst, hrest⟩ := evalExposureBut_answers hlive hw (fun _ => false) hcan'
    rw [htaken' hrest, hfirst, ← hexposure, List.append_nil, endings_append, List.append_assoc,
      endings_exposed .ok s.store.storedThrough s.storedThroughNow hkind]

theorem relieved_exposure : ExposureFollows true s.dirtyCount s (relieved s) :=
  (evalExposure_follows hlive hw).of_eq ⟨rfl, rfl, rfl⟩ (by simp [relieved])
    fun _ _ => .of_eq (by simp [relieved]) (by simp [relieved])

end

/-! ### What a pass that ends its job leaves (R77, R80) -/

/-- `z` is `e` with S recomputed, the wait list answered, and the rest of the journal and of the other units as it was. -/
structure Recomputed (e z : State) : Prop where
  journal : z.journal = e.journal
  txns : z.txns = e.txns
  clock : z.clock = e.clock
  array : z.array = e.array
  through : z.store.storedThrough = e.storedThroughNow
  above : e.store.storedThrough < z.store.storedThrough → ∀ w ∈ z.store.waiting, z.store.storedThrough < w.target

theorem recomputeS_above {s : State} (h : s.store.storedThrough < (recomputeS s).store.storedThrough) :
    ∀ w ∈ (recomputeS s).store.waiting, (recomputeS s).store.storedThrough < w.target := by
  rw [recomputeS_storedThrough] at h ⊢
  rw [recomputeS_waiting, if_pos h]
  intro w hw
  have := List.of_mem_filter hw
  simpa using this

theorem recomputed_recomputeS (s : State) : Recomputed s (recomputeS s) :=
  ⟨by simp, by simp, by simp, by simp, recomputeS_storedThrough s, recomputeS_above⟩

theorem recomputed_relieved (s : State) : Recomputed s (relieved s) := by
  obtain ⟨hjournal, htxns, hclock, harray, -, -, hthrough⟩ := relieved_leaves s
  exact ⟨hjournal, htxns, hclock, harray, hthrough, fun h => recomputeS_above (by simpa [relieved] using h)⟩

theorem Recomputed.countJob {e z : State} (h : Recomputed e z) : Recomputed e (countJob z) := by
  obtain ⟨hjournal, htxns, hclock, harray, hthrough, habove⟩ := h
  exact ⟨by simpa, by simpa, by simpa, by simpa, by simpa, by simpa using habove⟩

/-- What stands at the end of the event. -/
theorem recomputed_settle {e z : State} (h : Recomputed e z) (test : Bool) :
    SameSegments e (settle test z) ∧ (settle test z).array = e.array ∧
      (settle test z).journal.sram = e.journal.sram ∧ (settle test z).journal.chain = e.journal.chain ∧
      (settle test z).journal.nextSeq = e.journal.nextSeq ∧
      (settle test z).store.storedThrough = (settle test z).storedThroughNow ∧
      (e.store.storedThrough < (settle test z).store.storedThrough →
        ∀ w ∈ (settle test z).store.waiting, (settle test z).store.storedThrough < w.target) ∧
      (settle test z).txns = e.txns ∧ (settle test z).clock = e.clock ∧
      (settle test z).journal.head = e.journal.head := by
  have hlog : SameLog e (settle test z) := (SameLog.of_journal h.journal).trans (settle_contents test z).1
  have hnow := storedThroughNow_sameLog hlog
  obtain ⟨hsram, hchain, hseq, hhead, -, -, hsame⟩ := hlog
  refine ⟨hsame, by simp [h.array], hsram, hchain, hseq, ?_, by simpa using h.above, by simp [h.txns], by simp [h.clock],
    hhead⟩
  rw [hnow, ← h.through]
  simp

/-- What a fall of D does stands at the end of its event (R61). -/
theorem relieved_settles {e z u : State} (hlive : e.budgetLive = true) (hw : e.cc.alertWaiters = [])
    (hu : u = settle true z) (hz : z = relieved e ∨ z = countJob (relieved e)) :
    ExposureFollows true u.dirtyCount e u ∧ u.budget.b = e.budget.b ∧
      Answers (e.budget.exposed && decide (u.dirtyCount ≤ e.budget.b)) [] e u := by
  obtain ⟨hjournal, -, -, -, hb, -⟩ := relieved_leaves e
  have hkept : z.journal = e.journal ∧ z.budget = (relieved e).budget ∧ z.cc = (relieved e).cc ∧
      z.store.waiting = (relieved e).store.waiting ∧ z.store.storedThrough = (relieved e).store.storedThrough := by
    rcases hz with rfl | rfl
    · exact ⟨hjournal, rfl, rfl, rfl, rfl⟩
    · simpa using hjournal
  obtain ⟨hzjournal, hzbudget, hzcc, hzwaiting, hzthrough⟩ := hkept
  have hcount : u.dirtyCount = e.dirtyCount := by
    rw [hu]
    exact dirtyCount_congr ((SameSegments.of_segs (by rw [hzjournal])).trans (settle_segments true z))
  rw [hcount]
  refine ⟨(relieved_exposure hlive hw).of_eq ⟨rfl, rfl, rfl⟩ (by simp [hu, hzbudget])
      fun _ _ => .of_eq (by simp [hu, hzcc]) (by simp [hu, hzcc]), by simp [hu, hzbudget, hb],
    (relieved_answers hlive hw).of_after (by simp [hu, hzwaiting]) (by simp [hu, hzthrough]) (by simp [hu, hzcc])⟩

/-! ### A verified pass on an OPEN or FULL segment (R77) -/

theorem stored_dirty {g : Segment} (h : g.grewInStore = true) : g.stored.dirty = true := by
  simp only [Segment.grewInStore] at h
  split at h
  · next hn => simp [Segment.stored, Segment.dirty, Segment.grewInStore, *]
  · cases h

/-- With a commit taken in during the job, the segment stays dirty: D has not fallen (R77, step 4). -/
theorem passEnd_grown {i : SegId} {s : State} (hst : (s.seg i).state = .openS ∨ (s.seg i).state = .full)
    (hgrew : (s.seg i).grewInStore = true) : passEnd i true s = countJob (recomputeS (endJob i s)) := by
  have hfreeing : (s.seg i).state ≠ .freeing := by rcases hst with h | h <;> simp [h]
  have hdirty : ((endJob i s).seg i).dirty = true := by
    rw [endJob_seg, if_pos rfl]
    exact stored_dirty hgrew
  simp only [passEnd, if_neg hfreeing, if_true, hdirty]

/-- The end of the job queues a segment that it leaves dirty, unless it is queued (R77, step 3). -/
theorem endJob_queue {i : SegId} {s : State} (hst : (s.seg i).state = .openS ∨ (s.seg i).state = .full)
    (hgrew : (s.seg i).grewInStore = true) :
    (endJob i s).store.queue = s.store.queue ++ (if i ∈ s.store.queue then [] else [i]) := by
  have hseg : (State.modSeg { s with store.op := none } i Segment.stored).seg i = (s.seg i).stored :=
    State.seg_modSeg_same _ i Segment.stored
  have hqueue : (State.modSeg { s with store.op := none } i Segment.stored).store.queue = s.store.queue := rfl
  have hstate : (s.seg i).stored.state = .openS ∨ (s.seg i).stored.state = .full := hst
  have hdirty := stored_dirty hgrew
  have hin : (s.seg i).stored.inStore = false := rfl
  simp only [endJob, queueSeg, hseg, hqueue]
  split_ifs with hdue hmem hmem
  · exact absurd hmem hdue.2.2.2
  · rfl
  · exact (List.append_nil _).symm
  · exact absurd ⟨hstate, hdirty, by rw [hin]; rfl, hmem⟩ hdue

/-- The state in which a job on a segment that stays dirty leaves the store engine before the end of its event. -/
def jobGrown (i : SegId) (s : State) : State := countJob (recomputeS (endJob i s))

theorem jobGrown_store (i : SegId) (s : State) : (jobGrown i s).store.queue = (endJob i s).store.queue ∧
    (jobGrown i s).store.op = none ∧ (jobGrown i s).store.metadataDirty = s.store.metadataDirty ∧
    (jobGrown i s).store.newest = s.store.newest ∧ (jobGrown i s).device = s.device ∧
    (jobGrown i s).store.jobsSinceDirty = s.store.jobsSinceDirty + (if s.store.metadataDirty then 1 else 0) := by
  have hop : (endJob i s).store.op = none := by simp [endJob]
  refine ⟨by simp [jobGrown], by simp [jobGrown, hop], by simp [jobGrown], by simp [jobGrown], by simp [jobGrown], ?_⟩
  simp only [jobGrown, countJob]
  split <;> simp_all

theorem jobGrown_stands {c : ChanId} {i : SegId} {s : State} : ChannelStands c s (jobGrown i s) :=
  ((ChannelStands.of_cc (by simp) : ChannelStands c s (endJob i s)).trans (.recomputeS _)).trans
    (.of_cc (by simp [jobGrown]))

section
variable {i : SegId} {s : State} (hw : s.working = true) (hst : (s.seg i).state = .openS ∨ (s.seg i).state = .full)
  (hgrew : (s.seg i).grewInStore = true) {q : List SegId}
  (hq : q = s.store.queue ++ (if i ∈ s.store.queue then [] else [i]))
include hw hst hgrew hq

/-- After a job that leaves its segment dirty, what FORMAT, the checkpoint test and the queue call for (R75, R92, R104). -/
theorem jobGrown_settles {u : State} (hu : u = settle true (jobGrown i s)) :
    (∀ e, Executes 0 .format .formatWait e s → u.store.op = none ∧ u.store.queue = q) ∧
    (s.formatHold = false → s.store.metadataDirty = true → 32 ≤ s.store.jobsSinceDirty + 1 →
      (∃ x, u.store.op = some (.checkpoint s.nextSlot.1 x 0)) ∧ u.store.queue = q) ∧
    (s.formatHold = false → s.store.metadataDirty = false ∨ s.store.jobsSinceDirty + 1 < 32 →
      ∀ j rest, q = j :: rest → u.store.op = some (.job j 0) ∧ u.store.queue = rest ∧ (u.seg j).inStore = true ∧
        (u.seg j).snapshot = (u.seg j).lastSeq ∧ (u.seg j).retry = 0) := by
  obtain ⟨hqueue, hop, hmetadata, hnewest, hdevice, hjobs⟩ := jobGrown_store i s
  have hsame : (jobGrown i s).store.queue = q := by rw [hqueue, endJob_queue hst hgrew, hq]
  have hworking : (jobGrown i s).working = true := by
    rw [State.working, hdevice]
    exact hw
  have hd : 0 < (jobGrown i s).dirtyCount := by
    refine List.countP_pos_iff.mpr ⟨(jobGrown i s).seg i, by simp [State.seg], ?_⟩
    have hseg : (jobGrown i s).seg i = (endJob i s).seg i := by simp [jobGrown, State.seg]
    rw [hseg, endJob_seg, if_pos rfl]
    exact stored_dirty hgrew
  have hrest := lineStoreTest_rests (Or.inr (Or.inr (Or.inl hd)))
  have hfetch : ∀ t : State, (fetchArbiter t).store = t.store := fun t => by simp
  refine ⟨fun e he => ?_, fun hhold hm hmany => ?_, fun hhold hfew j rest hj => ?_⟩
  · have hhold : (jobGrown i s).formatHold = true := by
      obtain ⟨hactive, hexec, -, hstage⟩ := he
      rw [(formatComing_congr (jobGrown_stands.2 hactive).2).2.1]
      simp [State.formatHold, hexec, hstage]
    rw [hu, settle_line, hrest, startNext_rests true (Or.inr (Or.inr hhold)), hfetch]
    exact ⟨hop, hsame⟩
  · have hmay := mayStart_iff.mpr ⟨hop, hworking, jobGrown_stands.formatHold hhold⟩
    have hdue : 32 ≤ (jobGrown i s).store.jobsSinceDirty := by rw [hjobs, hm]; exact hmany
    rw [hu, settle_line, hrest, startNext_checkpoint hmay rfl (hmetadata.trans hm) (Or.inr hdue), hfetch]
    refine ⟨⟨(jobGrown i s).backgroundCheckpoint, ?_⟩, hsame⟩
    rw [← nextSlot_congr hnewest]
    rfl
  · have hnot : true = false ∨ (jobGrown i s).store.metadataDirty = false ∨ (jobGrown i s).store.jobsSinceDirty < 32 := by
      rw [hmetadata, hjobs]
      cases hm : s.store.metadataDirty with
      | false => exact Or.inr (Or.inl rfl)
      | true => exact Or.inr (Or.inr (hfew.resolve_left (by simp [hm])))
    obtain ⟨hjob, hleft, hseg⟩ := settle_starts_head hworking hop (jobGrown_stands.formatHold hhold) hd
      (hsame.trans hj) hnot
    rw [hu, hseg]
    exact ⟨hjob, hleft, rfl, rfl, rfl⟩

end

/-! ### A pass on a FREEING segment (R80) -/

section
variable {i : SegId} {agree : Bool} {s : State}

theorem passEnd_freeing (hst : (s.seg i).state = .freeing) (hheld : s.budget.held = []) (hlive : s.budgetLive = true) :
    passEnd i agree s = relieved (endFreeing i s) := by
  have hlive' : (endFreeing i s).budgetLive = true := by
    rw [← hlive]
    simp [State.budgetLive]
  rw [← onRelief_relieved (s := endFreeing i s) (by simpa using hheld) hlive']
  simp only [passEnd, hst, if_true]

theorem endFreeing_seg (i j : SegId) (s : State) :
    (endFreeing i s).seg j = if j = i then Segment.freeForm else s.seg j := freeSegment_seg i j { s with store.op := none }

/-- A segment that has become FREE leaves the queue and is not queued again in its event (R97). -/
theorem relieved_freed_outOfQueue : OutOfQueue i [] (relieved (endFreeing i s)) := by
  have hfreed : OutOfQueue i [] (endFreeing i s) := by
    have hseg : (endFreeing i s).seg i = Segment.freeForm := by rw [endFreeing_seg, if_pos rfl]
    refine ⟨by rw [hseg]; simp [Segment.freeForm], by rw [hseg]; simp [Segment.freeForm], fun h => ?_⟩
    simp [endFreeing, freeSegment] at h
  have hexposure : OutOfQueue i [] (evalExposure (endFreeing i s)) := hfreed.of_eq (by simp) (by simp)
  exact hexposure.recomputePressure.of_eq (by simp [relieved]) (by simp [relieved])

end

/-- The end of the job changes its segment's record as R77 says, and no other. -/
theorem endJob_segments (i : SegId) (s : State) : SameSegmentsBut (fun j => j = i) s (endJob i s) ∧
    ({ s.seg i with unstoredFrom := if (s.seg i).grewInStore then (s.seg i).snapshot.map (· + 1) else none } :
      Segment).SameLog ((endJob i s).seg i) := by
  refine ⟨fun j hj => ?_, ?_⟩
  · rw [endJob_seg, if_neg hj]
    exact Segment.SameLog.refl _
  · rw [endJob_seg, if_pos rfl]
    exact ⟨rfl, rfl, rfl, rfl, rfl⟩

/-- What exposure and the wait list see of a state is what they see of it after its operation has ended. -/
theorem exposure_of_eq {evaluated ended : Bool} {d : Nat} {s e u : State}
    (h : ExposureFollows evaluated d e u ∧ u.budget.b = e.budget.b ∧ Answers ended [] e u)
    (hcc : e.cc = s.cc) (hbudget : e.budget = s.budget) (hclock : e.clock = s.clock)
    (hwaiting : e.store.waiting = s.store.waiting) (hthrough : e.store.storedThrough = s.store.storedThrough) :
    ExposureFollows evaluated d s u ∧ u.budget.b = s.budget.b ∧ Answers ended [] s u := by
  obtain ⟨hfollows, hb, hanswers⟩ := h
  exact ⟨hfollows.of_eq ⟨by rw [hbudget], hclock, by rw [hcc]⟩ ⟨rfl, rfl⟩ fun _ _ => .of_eq rfl rfl,
    hb.trans (by rw [hbudget]), hanswers.of_eq hwaiting hthrough hcc⟩

/-- Where D has not fallen, exposure stays and S alone answers (R77, log entry 37). -/
theorem jobGrown_exposure {i : SegId} {s u : State} (hu : u = settle true (jobGrown i s)) (d : Nat) :
    ExposureFollows false d (endJob i s) u ∧ u.budget.b = (endJob i s).budget.b ∧ Answers false [] (endJob i s) u := by
  refine ⟨⟨by simp [hu, jobGrown], fun kind _ => ?_⟩, by simp [hu, jobGrown],
    (recomputeS_answers (endJob i s)).of_after (by simp [hu, jobGrown]) (by simp [hu, jobGrown])
      (by simp [hu, jobGrown])⟩
  have hexposed : u.budget.exposed = (endJob i s).budget.exposed := by simp [hu, jobGrown]
  rw [hexposed, if_neg]
  · simp [hu, jobGrown]
  · rintro (⟨-, h1, h2⟩ | ⟨-, h1, h2⟩) <;> rw [h1] at h2 <;> cases h2

/-- A verified pass ends the job of an OPEN or FULL segment. -/
theorem job_verified {i : SegId} {w : Nat} {s : State} (hop : s.store.op = some (.job i w)) (hw : s.working = true)
    (hheld : s.budget.held = []) (hst : (s.seg i).state = .openS ∨ (s.seg i).state = .full) :
    ∃ z, exec (.storePassEnd true) s = .next (settle true z) ∧ Recomputed (endJob i (passBytes i w true s)) z ∧
      ((s.seg i).grewInStore = true → z = jobGrown i (passBytes i w true s)) ∧
      ((s.seg i).grewInStore = false → z = countJob (relieved (endJob i (passBytes i w true s)))) := by
  have hseg : (passBytes i w true s).seg i = s.seg i := passBytes_seg i i w true s
  cases hgrew : (s.seg i).grewInStore with
  | true =>
    refine ⟨_, ?_, (recomputed_recomputeS _).countJob, fun _ => rfl, fun h => absurd h (by simp)⟩
    rw [exec_storePassEnd hop hw, passEnd_grown (by rwa [hseg]) (by rwa [hseg])]
  | false =>
    refine ⟨_, ?_, (recomputed_relieved _).countJob, fun h => absurd h (by simp), fun _ => rfl⟩
    exact exec_jobDone hop hw hheld hst hgrew

/-- At the end of the event the segment is FREE and the other segments are as they were (R80). -/
theorem freed_segments (i : SegId) (s : State) :
    SameSegmentsBut (fun j => j = i) s (settle true (relieved (endFreeing i s))) ∧
      (settle true (relieved (endFreeing i s))).seg i = Segment.freeForm := by
  obtain ⟨-, -, hunqueued⟩ := relieved_freed_outOfQueue (i := i) (s := s)
  obtain ⟨hsame, -⟩ := recomputed_settle (recomputed_relieved (endFreeing i s)) true
  refine ⟨fun j hj => ?_, ?_⟩
  · have hj' := hsame j
    rwa [endFreeing_seg, if_neg hj] at hj'
  · rw [settle_seg_unqueued true (fun h => by simpa using hunqueued h),
      show (relieved (endFreeing i s)).seg i = (endFreeing i s).seg i by simp [relieved, State.seg], endFreeing_seg,
      if_pos rfl]

/-- Settles O47: the end of the job by whether the segment grew in store, the end of a FREEING segment, and what the rise
of S and the fall of D answer. -/
theorem storePassVerified : Obligations.StorePassVerified := by
  intro s i w agree hop hw hheld
  have hseg : ∀ j, (passBytes i w agree s).seg j = s.seg j := fun j => passBytes_seg i j w agree s
  have hlive : (passBytes i w agree s).budgetLive = true := by
    simpa [State.budgetLive] using budgetLive_of_working hw
  refine ⟨fun hst hagree => ?_, fun hst => ?_⟩
  · subst hagree
    obtain ⟨z, hexec, hz, hgrown, hclean⟩ := job_verified hop hw hheld hst
    obtain ⟨hsame, harray, hsram, hchain, hseq, hthrough, habove, htxns, hclock, hhead⟩ := recomputed_settle hz true
    obtain ⟨hothers, hown⟩ := endJob_segments i (passBytes i w true s)
    simp only [hseg, endJob_frame, passBytes_frame] at hown hsram hchain hseq habove htxns hclock hhead
    refine ⟨_, hexec, fun j hj => ?_, hown.trans (hsame i), fun a hlow hhigh => ?_, fun a ha => ?_, hsram, hchain, hseq,
      hthrough, habove, htxns, hclock, hhead, fun hgrew q hq => ?_, fun halerts => ?_⟩
    · have hj' := (hothers j hj).trans (hsame j)
      rwa [hseg] at hj'
    · rw [harray]
      simp only [endJob_frame]
      exact (finishCopy_read i w a s).trans (if_pos ⟨hlow, hhigh⟩)
    · rw [harray]
      simp only [endJob_frame]
      exact (finishCopy_read i w a s).trans (if_neg (by omega))
    · have hsettles := jobGrown_settles (s := passBytes i w true s) (by simpa [State.working] using hw)
        (by rwa [hseg]) (by rwa [hseg]) (by simpa using hq) (congrArg (settle true) (hgrown hgrew))
      have hhold : (passBytes i w true s).formatHold = s.formatHold :=
        (formatComing_congr (by simp [State.chan])).2.1
      have hslot : (passBytes i w true s).nextSlot = s.nextSlot := nextSlot_congr (by simp)
      have hchan : (passBytes i w true s).chan 0 = s.chan 0 := by simp [State.chan]
      simpa only [Executes, hchan, hhold, hslot, passBytes_frame] using hsettles
    · cases hgrew : (s.seg i).grewInStore with
      | true =>
        rw [Bool.not_true, Bool.and_false, Bool.false_and]
        exact exposure_of_eq (jobGrown_exposure (congrArg (settle true) (hgrown hgrew)) _) (by simp) (by simp) (by simp)
          (by simp) (by simp)
      | false =>
        have hlive' : (endJob i (passBytes i w true s)).budgetLive = true := by
          rw [← hlive]
          simp [State.budgetLive]
        have hrelief := exposure_of_eq (s := s) (relieved_settles hlive' (by simpa using halerts) rfl
          (Or.inr (hclean hgrew))) (by simp) (by simp) (by simp) (by simp) (by simp)
        simpa using hrelief
  · have hlive' : (endFreeing i (passBytes i w agree s)).budgetLive = true := by
      rw [← hlive]
      simp [State.budgetLive]
    have hexec := exec_storePassEnd (agree := agree) hop hw
    rw [passEnd_freeing (by rwa [hseg]) (by simpa using hheld) hlive] at hexec
    obtain ⟨-, -, hsram, hchain, hseq, hthrough, -, htxns, hclock, -⟩ :=
      recomputed_settle (recomputed_relieved (endFreeing i (passBytes i w agree s))) true
    obtain ⟨hothers, hfreed⟩ := freed_segments i (passBytes i w agree s)
    refine ⟨_, hexec, fun j hj => ?_, hfreed, ?_, hsram.trans (by simp), hseq.trans (by simp), hthrough,
      htxns.trans (by simp), hclock.trans (by simp), fun halerts => ?_⟩
    · rw [← hseg]
      exact hothers j hj
    · rw [hchain]
      simp [endFreeing, freeSegment]
    · have hrelief := exposure_of_eq (s := s) (relieved_settles hlive' (by simpa using halerts) rfl (Or.inl rfl))
        (by simp) (by simp) (by simp) (by simp) (by simp)
      simpa using hrelief

end Sys2Proof.Machine


namespace Sys2Proof.Machine

/-! ### Held records that end in a row (R37, R79) -/

theorem completeExec_takenBy {c : ChanId} {s : State} (x : Completion) (h : (s.chan c).state = .active) :
    (completeExec c x s).takenBy = s.takenBy ++ [(c, x)] := by
  obtain ⟨htaken, -⟩ := completeExec_completed x h
  rw [takenBy_eq, htaken, List.map_append, ← takenBy_eq]
  rfl

/-- The end of an ACTIVE channel's request leaves an answer to the waiting records that had one. -/
theorem completeExec_canAnswer {c : ChanId} {s : State} {m : List Waiter} (x : Completion)
    (h : (s.chan c).state = .active) (hm : s.CanAnswer m) : (completeExec c x s).CanAnswer m := by
  obtain ⟨-, hchan, hothers, -⟩ := completeExec_completed x h
  intro w hw
  by_cases hc : w.chan = c
  · rw [hc, hchan]
    exact Or.inl h
  · rw [hothers _ hc]
    exact hm w hw

/-- In `t` the channel of every held record of `l` is ACTIVE and executes what it executed in `s`. -/
def HeldStand (s : State) (l : List HeldRecord) (t : State) : Prop :=
  ∀ h ∈ l, (t.chan h.chan).state = .active ∧ (t.chan h.chan).exec = (s.chan h.chan).exec ∧
    (s.chan h.chan).exec.isSome = true

namespace HeldStand
variable {s t u : State} {l : List HeldRecord}

theorem of_stands (h : HeldStand s l t) (hstand : ∀ c, ChannelStands c t u) : HeldStand s l u := by
  intro x hx
  obtain ⟨hactive, hexec, hsome⟩ := h x hx
  obtain ⟨hactive', hexec'⟩ := (hstand x.chan).2 hactive
  exact ⟨hactive', hexec'.trans hexec, hsome⟩

/-- The held record at the head ends; those behind it stand. -/
theorem endHeld_head {h : HeldRecord} (hs : HeldStand s (h :: l) t) (hnodup : ((h :: l).map HeldRecord.chan).Nodup)
    (status : Status) : ∃ r, (s.chan h.chan).exec = some r ∧
      endHeld status t h = completeExec h.chan (r.req.refusal status 0) t ∧ (t.chan h.chan).state = .active ∧
      HeldStand s l (endHeld status t h) := by
  obtain ⟨hactive, hexec, hsome⟩ := hs h List.mem_cons_self
  obtain ⟨r, hr⟩ := Option.isSome_iff_exists.mp hsome
  have hend : endHeld status t h = completeExec h.chan (r.req.refusal status 0) t := by rw [endHeld, hexec, hr]
  refine ⟨r, hr, hend, hactive, fun x hx => ?_⟩
  have hne : x.chan ≠ h.chan := fun e => by
    rw [List.map_cons, List.nodup_cons] at hnodup
    exact hnodup.1 (e ▸ List.mem_map_of_mem hx)
  obtain ⟨-, -, hothers, -⟩ := completeExec_completed (r.req.refusal status 0) hactive
  rw [hend, hothers _ hne]
  exact hs x (List.mem_cons_of_mem _ hx)

end HeldStand

/-- Held records that end take their completions in the list's order, and the other records stand. -/
theorem endHelds_answer (status : Status) {s : State} (l m : List HeldRecord) {n : List Waiter} {t : State}
    (hs : HeldStand s (l ++ m) t) (hnodup : ((l ++ m).map HeldRecord.chan).Nodup) (hcan : t.CanAnswer n) :
    (l.foldl (endHeld status) t).takenBy = t.takenBy ++ s.heldEndings status l ∧
      HeldStand s m (l.foldl (endHeld status) t) ∧ (l.foldl (endHeld status) t).CanAnswer n := by
  induction l generalizing t with
  | nil => exact ⟨by simp [State.heldEndings], hs, hcan⟩
  | cons h l ih =>
    obtain ⟨r, hr, hend, hactive, hrest⟩ := hs.endHeld_head hnodup status
    have hcan' : (endHeld status t h).CanAnswer n := by
      rw [hend]
      exact completeExec_canAnswer _ hactive hcan
    obtain ⟨htaken, hstand, hcan''⟩ := ih hrest (List.nodup_cons.mp (by simpa using hnodup)).2 hcan'
    refine ⟨?_, hstand, hcan''⟩
    rw [List.foldl_cons, htaken, hend, completeExec_takenBy _ hactive]
    simp [State.heldEndings, hr]

theorem endHeld_held (status : Status) (h : HeldRecord) (s : State) :
    (endHeld status s h).budget.held = s.budget.held.filter (fun x => x.chan != h.chan) := by
  rw [endHeld]
  split
  · exact completeExec_held _ _ _
  · exact dropHeld_held _ _

/-- The records that end leave the held set; the others keep their order (R37, R64). -/
theorem endHelds_held (status : Status) (l m : List HeldRecord) {t : State} (hheld : t.budget.held = l ++ m)
    (hnodup : ((l ++ m).map HeldRecord.chan).Nodup) : (l.foldl (endHeld status) t).budget.held = m := by
  induction l generalizing t with
  | nil => exact hheld
  | cons h l ih =>
    obtain ⟨hfresh, hrest⟩ := List.nodup_cons.mp (show (h.chan :: (l ++ m).map HeldRecord.chan).Nodup by simpa using hnodup)
    refine ih ?_ hrest
    rw [endHeld_held, hheld, List.cons_append, List.filter_cons_of_neg (by simp), List.filter_eq_self]
    intro x hx
    simpa using fun e => hfresh (List.mem_map.mpr ⟨x, hx, e⟩)

/-- Ending every held record empties the held set (R37). -/
theorem endAllHeld_held (status : Status) (s : State) : (endAllHeld status s).budget.held = [] := by
  have hgone : ∀ (l : List HeldRecord) (t : State), ∀ x ∈ (l.foldl (endHeld status) t).budget.held,
      x ∈ t.budget.held ∧ ∀ h ∈ l, h.chan ≠ x.chan := fun l => by
    induction l with
    | nil => exact fun t x hx => ⟨hx, by simp⟩
    | cons h l ih =>
      intro t x hx
      obtain ⟨hmem, hothers⟩ := ih _ x hx
      rw [endHeld_held] at hmem
      obtain ⟨hin, hne⟩ := List.mem_filter.mp hmem
      refine ⟨hin, fun y hy => ?_⟩
      rcases List.mem_cons.mp hy with rfl | hy
      · exact fun e => by simp [e] at hne
      · exact hothers y hy
  refine List.eq_nil_iff_forall_not_mem.mpr fun x hx => ?_
  obtain ⟨hmem, hothers⟩ := hgone _ _ x hx
  exact hothers x hmem rfl

/-! ### A grant run while a segment is FAILED (R37, R65, R103) -/

theorem grantable_congr {s t : State} (hsegs : t.journal.segs = s.journal.segs) (hchain : t.journal.chain = s.journal.chain)
    (hhead : t.journal.head = s.journal.head) (hb : t.budget.b = s.budget.b) : t.grantable = s.grantable := by
  have hseg : ∀ i, t.seg i = s.seg i := fun i => by rw [State.seg, hsegs, State.seg]
  have hopen : t.openSegment = s.openSegment := by simp only [State.openSegment, hseg, hchain]
  have hd : t.dirtyCount = s.dirtyCount := dirtyCount_congr (SameSegments.of_segs hsegs)
  funext h
  simp only [State.grantable, State.freeExists, State.coveredOpenCounts, hseg, hopen, hd, hsegs, hhead, hb]

/-- While a segment is FAILED a grant run ends the grantable records from the oldest on, and stops at the first that is
not grantable. -/
theorem grantRun_ends {s t : State} (hfault : t.mediaFault = true) (hseq : t.journal.nextSeq ≠ 2 ^ 48 - 1)
    (hs : HeldStand s t.budget.held t) (hnodup : (t.budget.held.map HeldRecord.chan).Nodup) :
    grantRun t = (t.budget.held.takeWhile t.grantable).foldl (endHeld .nvFault) t := by
  have hloop : ∀ (l : List HeldRecord) (t : State), t.budget.held = l → t.mediaFault = true →
      t.journal.nextSeq ≠ 2 ^ 48 - 1 → HeldStand s l t → (l.map HeldRecord.chan).Nodup →
      grantLoop l.length t = (l.takeWhile t.grantable).foldl (endHeld .nvFault) t := fun l => by
    induction l with
    | nil => exact fun t _ _ _ _ _ => rfl
    | cons h l ih =>
      intro t hheld hfault hseq hs hnodup
      cases hg : t.grantable h with
      | false => rw [grantLoop_rests _ hheld hg, List.takeWhile_cons_of_neg (by simp [hg])]; rfl
      | true =>
        obtain ⟨r, hr, hend, hactive, hrest⟩ := hs.endHeld_head hnodup .nvFault
        have hexec : (t.chan h.chan).exec = some r := (hs h List.mem_cons_self).2.1.trans hr
        obtain ⟨status, hrefused, hstatus⟩ := commitAttempt_fault true h.chan r hfault
        rw [hstatus hactive hseq, ← hend] at hrefused
        have hleft : (endHeld .nvFault t h).budget.held = l := endHelds_held .nvFault [h] l hheld hnodup
        have hgone : (endHeld .nvFault t h).budget.held.head?.map HeldRecord.chan ≠ some h.chan := by
          rw [hleft]
          rw [List.map_cons, List.nodup_cons] at hnodup
          intro e
          obtain ⟨x, hx, hc⟩ := Option.map_eq_some_iff.mp e
          exact hnodup.1 (List.mem_map.mpr ⟨x, List.mem_of_mem_head? hx, hc⟩)
        have hsame : (endHeld .nvFault t h).grantable = t.grantable :=
          grantable_congr (by simp) (by simp) (by simp) (by simp)
        rw [List.length_cons, grantLoop_grants _ hheld hg hexec, hrefused, if_neg hgone,
          ih _ hleft ((mediaFault_of_segs (by simp)).trans hfault) (by simpa using hseq) hrest
            (List.nodup_cons.mp (by simpa using hnodup)).2, List.takeWhile_cons_of_pos (by simp [hg]), hsame]
        rfl
  exact hloop _ t rfl hfault hseq hs hnodup

end Sys2Proof.Machine


namespace Sys2Proof.Machine

/-! ### The failure of a segment in READY or RUNNING: what it leaves (R79) -/

section
variable {i : SegId} {n : Nat} {s : State}

/-- The grants of a failure's fall of D leave S, the wait list and the alert waiters as the evaluation of exposure does. -/
theorem onReliefBut_leaves (lost : Waiter → Bool) (h : s.mediaFault = true) (hlive : s.budgetLive = true)
    (hw : s.cc.alertWaiters = []) :
    (onReliefBut lost s).store.waiting = (evalExposureBut lost s).store.waiting ∧
      (onReliefBut lost s).store.storedThrough = s.store.storedThrough ∧
      (onReliefBut lost s).cc.alertWaiters = [] := by
  have hexposure : (evalExposureBut lost s).cc.alertWaiters = [] := by
    by_cases hended : s.budget.exposed = true ∧ s.dirtyCount ≤ s.budget.b
    · rw [evalExposureBut_ends hlive hw lost hended.1 hended.2]
      simpa using hw
    · simp only [evalExposureBut, hlive, if_true]
      split
      · next hx => rw [if_neg fun hd => hended ⟨hx, hd⟩]; exact hw
      · split
        · rw [postAlert_eq (s := { s with budget.exposed := true }) hw]; exact hw
        · exact hw
  rw [onReliefBut, if_pos hlive]
  refine grantRun_fault (P := fun t => t.store.waiting = (evalExposureBut lost s).store.waiting ∧
    t.store.storedThrough = s.store.storedThrough ∧ t.cc.alertWaiters = []) (fun ht c x => ?_)
    ((mediaFault_of_segs (by simp)).trans h) (by simpa using hexposure)
  simpa using ht

/-- The waiting records after the failure: below the lost sequence numbers, and from among those before it (R79, step 4). -/
theorem failureEffects_waiting (h : s.mediaFault = true) (hlive : s.budgetLive = true) (hw : s.cc.alertWaiters = []) :
    ∀ x ∈ (failureEffects i n s).store.waiting, x.target < n ∧ x ∈ s.store.waiting := by
  obtain ⟨hwaiting, -, -⟩ := onReliefBut_leaves (s.lostWith i n) h hlive hw
  have hanswered : (endAllHeld .nvFault (failureAnswered i n s)).store.waiting =
      (evalExposureBut (s.lostWith i n) s).store.waiting.filter (fun w => !decide (n ≤ w.target)) := by
    rw [← hwaiting]
    simp [failureAnswered, finishWaiters_waiting]
  intro x hx
  have hrecomputed : x ∈ (recomputeS (endAllHeld .nvFault (failureAnswered i n s))).store.waiting := by
    rw [failureEffects_eq] at hx
    simpa using hx
  have hleft : x ∈ (endAllHeld .nvFault (failureAnswered i n s)).store.waiting := by
    rw [recomputeS_waiting] at hrecomputed
    split at hrecomputed
    · exact List.mem_of_mem_filter hrecomputed
    · exact hrecomputed
  rw [hanswered] at hleft
  obtain ⟨hmem, hlow⟩ := List.mem_filter.mp hleft
  refine ⟨by simpa using hlow, ?_⟩
  rw [evalExposureBut_waiting _ hlive] at hmem
  split at hmem
  · exact List.mem_of_mem_filter hmem
  · exact hmem

/-- The rest of what the failure leaves: the held set empty, S recomputed, metadata dirty, the alert listed (R79, steps 3
and 5 to 7). -/
theorem failureEffects_leaves (h : s.mediaFault = true) (hlive : s.budgetLive = true) (hw : s.cc.alertWaiters = []) :
    (failureEffects i n s).budget.held = [] ∧
      (failureEffects i n s).store.storedThrough = (failureEffects i n s).storedThroughNow ∧
      (failureEffects i n s).store.metadataDirty = true ∧
      ∃ a ∈ (failureEffects i n s).cc.alerts, a.kind = .mediaFault ∧ a.seqValue = n ∧ a.detail = i.val := by
  have hnone : (recomputeS (endAllHeld .nvFault (failureAnswered i n s))).cc.alertWaiters = [] := by
    simpa [failureAnswered] using (onReliefBut_leaves (s.lostWith i n) h hlive hw).2.2
  obtain ⟨a, ha, hkind, hseq, hdetail, -⟩ := postAlert_listed (kind := .mediaFault) (n := n) (d := i.val) hnone
  rw [failureEffects_eq]
  refine ⟨by simpa using endAllHeld_held .nvFault (failureAnswered i n s), ?_,
    by simp [failureAnswered, setMetadataDirty], a, ha, hkind, hseq, hdetail⟩
  have hnow : (mediaFaultAlert i n (recomputeS (endAllHeld .nvFault (failureAnswered i n s)))).storedThroughNow =
      (endAllHeld .nvFault (failureAnswered i n s)).storedThroughNow := storedThroughNow_congr (by simp) (by simp)
  rw [hnow, ← recomputeS_storedThrough]
  simp

end

/-- Metadata that is dirty before the end of an event is so after it, or a checkpoint write has begun (R92). -/
theorem settle_metadata_or {s : State} (test : Bool) (h : s.store.metadataDirty = true) :
    (settle test s).store.metadataDirty = true ∨ ∃ slot x k, (settle test s).store.op = some (.checkpoint slot x k) := by
  have hline : (lineStoreTest s).store.metadataDirty = true ∨
      ∃ slot x k, (lineStoreTest s).store.op = some (.checkpoint slot x k) := by
    rw [lineStoreTest]
    split
    · split
      · exact Or.inl h
      · exact Or.inr ⟨_, _, _, rfl⟩
    · exact Or.inl h
  have hfetch : ∀ t : State, (fetchArbiter t).store = t.store := fun t => by simp
  rw [settle_line, hfetch, startNext]
  split
  · next hmay =>
    obtain ⟨hop, -⟩ := mayStart_iff.mp hmay
    split
    · exact Or.inr ⟨_, _, _, rfl⟩
    · refine Or.inl ?_
      rw [show (startJob (lineStoreTest s)).store.metadataDirty = (lineStoreTest s).store.metadataDirty by simp]
      exact hline.resolve_right fun ⟨_, _, _, hbusy⟩ => by rw [hop] at hbusy; cases hbusy
  · exact hline

/-! ### The order of the failure's completions (R79, log entry 19) -/

section
variable {i : SegId} {n : Nat} {s : State} (hfault : s.mediaFault = true) (hlive : s.budgetLive = true)
  (hw : s.cc.alertWaiters = []) (hlaw : s.HeldSetLaw) (hseq : s.journal.nextSeq ≠ 2 ^ 48 - 1)
include hfault hlive hw hlaw hseq

/-- Step 2: the records of an end of exposure, then the grantable held records; the other held records stand. -/
theorem onReliefBut_answers (lost : Waiter → Bool) {m : List Waiter} (hcan : s.CanAnswer (s.reliefAnswers lost ++ m)) :
    (onReliefBut lost s).takenBy = s.takenBy ++ endings .ok s.store.storedThrough (s.reliefAnswers lost) ++
        s.heldEndings .nvFault (s.budget.held.takeWhile s.grantable) ∧
      (onReliefBut lost s).budget.held = s.budget.held.dropWhile s.grantable ∧
      HeldStand s (s.budget.held.dropWhile s.grantable) (onReliefBut lost s) ∧
      ((s.budget.held.dropWhile s.grantable).map HeldRecord.chan).Nodup ∧ (onReliefBut lost s).CanAnswer m := by
  obtain ⟨hnodup, hheld⟩ := hlaw
  obtain ⟨hfirst, hrest⟩ := evalExposureBut_answers hlive hw lost hcan
  generalize ht : recomputePressure (evalExposureBut lost s) = t
  have hstand : HeldStand s s.budget.held t := by
    have hself : HeldStand s s.budget.held s := fun h hm => ⟨(hheld h hm).1, rfl, (hheld h hm).2⟩
    refine hself.of_stands fun c => ?_
    rw [← ht]
    exact (ChannelStands.evalExposureBut lost s).trans (.of_cc (by simp))
  have hsame : t.budget.held = s.budget.held ∧ t.grantable = s.grantable := by
    rw [← ht]
    exact ⟨by simp, grantable_congr (by simp) (by simp) (by simp) (by simp)⟩
  obtain ⟨hsameHeld, hsameGrantable⟩ := hsame
  have hrun : onReliefBut lost s = (s.budget.held.takeWhile s.grantable).foldl (endHeld .nvFault) t := by
    have hends := grantRun_ends (t := t) ((mediaFault_of_segs (by rw [← ht]; simp)).trans hfault) (by rw [← ht]; simpa)
      (by rwa [hsameHeld]) (by rwa [hsameHeld])
    rw [onReliefBut, if_pos hlive, ht, hends, hsameHeld, hsameGrantable]
  have hsplit := List.takeWhile_append_dropWhile (p := s.grantable) (l := s.budget.held)
  have hcan' : t.CanAnswer m := CanAnswer.of_chans hrest (by rw [← ht]; simp)
  have htaken : t.takenBy = (evalExposureBut lost s).takenBy := by
    rw [← ht]
    simp [State.takenBy]
  obtain ⟨hanswers, hstands, hcan''⟩ := endHelds_answer .nvFault (s.budget.held.takeWhile s.grantable)
    (s.budget.held.dropWhile s.grantable) (by rwa [hsplit]) (by rwa [hsplit]) hcan'
  rw [hrun]
  refine ⟨by rw [hanswers, htaken, hfirst], endHelds_held .nvFault _ _ (by rw [hsplit, hsameHeld]) (by rwa [hsplit]),
    hstands, hnodup.sublist ((List.dropWhile_sublist _).map _), hcan''⟩

/-- Steps 2 to 4: after those of step 2, the waiters of the segment. -/
theorem failureAnswered_answers {lost : Waiter → Bool} (hlost : lost = s.lostWith i n) {failed m : List Waiter}
    (hfailed : failed = (evalExposureBut lost s).store.waiting.filter (fun w => decide (n ≤ w.target)))
    (hcan : s.CanAnswer (s.reliefAnswers lost ++ (failed ++ m))) :
    (failureAnswered i n s).takenBy = s.takenBy ++ endings .ok s.store.storedThrough (s.reliefAnswers lost) ++
        s.heldEndings .nvFault (s.budget.held.takeWhile s.grantable) ++
        endings .nvFault s.store.storedThrough failed ∧
      (failureAnswered i n s).budget.held = s.budget.held.dropWhile s.grantable ∧
      HeldStand s (s.budget.held.dropWhile s.grantable) (failureAnswered i n s) ∧
      ((s.budget.held.dropWhile s.grantable).map HeldRecord.chan).Nodup ∧ (failureAnswered i n s).CanAnswer m := by
  obtain ⟨hrelief, hheld, hstand, hnodup, hrest⟩ := onReliefBut_answers hfault hlive hw hlaw hseq lost hcan
  obtain ⟨hwaiting, hthrough, -⟩ := onReliefBut_leaves lost hfault hlive hw
  generalize hx : setMetadataDirty (onReliefBut lost s) = x
  have hkept : x.cc = (onReliefBut lost s).cc ∧ x.budget = (onReliefBut lost s).budget ∧
      x.store.waiting = (onReliefBut lost s).store.waiting ∧
      x.store.storedThrough = (onReliefBut lost s).store.storedThrough := by
    rw [← hx]
    simp
  obtain ⟨hcc, hbudget, hxwaiting, hxthrough⟩ := hkept
  have hanswered : failureAnswered i n s = finishWaiters (fun w => n ≤ w.target) .nvFault x := by
    rw [failureAnswered, ← hlost, hx]
  have hlist : x.store.waiting.filter (fun w => decide (n ≤ w.target)) = failed := by
    rw [hxwaiting, hwaiting, hfailed]
  have hcanx : State.CanAnswer { x with store.waiting := x.store.waiting.filter (fun w => !decide (n ≤ w.target)) }
      (failed ++ m) := CanAnswer.of_chans hrest (by simp [hcc])
  have hxtaken : x.takenBy = (onReliefBut lost s).takenBy := by rw [State.takenBy, State.takenBy, hcc]
  refine ⟨?_, ?_, ?_, hnodup, ?_⟩
  · rw [← hrelief, ← hxtaken, hanswered, finishWaiters, hlist, completeWaiters_takenBy .nvFault _ (CanAnswer.left hcanx)]
    simp [State.takenBy, hxthrough, hthrough]
  · rw [hanswered, ← hheld, ← hbudget]
    simp
  · rw [hanswered]
    refine hstand.of_stands fun c => ?_
    exact (ChannelStands.of_cc (t := x) (by rw [hcc])).trans (.finishWaiters _ _ _)
  · rw [hanswered, finishWaiters, hlist]
    exact completeWaiters_canAnswer .nvFault _ _ hcanx

/-- Step 5: every held request that is left has ended, in the order of the held set. -/
theorem failureHeld_answers {lost : Waiter → Bool} (hlost : lost = s.lostWith i n) {failed m : List Waiter}
    (hfailed : failed = (evalExposureBut lost s).store.waiting.filter (fun w => decide (n ≤ w.target)))
    (hcan : s.CanAnswer (s.reliefAnswers lost ++ (failed ++ m))) :
    (endAllHeld .nvFault (failureAnswered i n s)).takenBy =
        s.takenBy ++ endings .ok s.store.storedThrough (s.reliefAnswers lost) ++
          s.heldEndings .nvFault (s.budget.held.takeWhile s.grantable) ++
          endings .nvFault s.store.storedThrough failed ++
          s.heldEndings .nvFault (s.budget.held.dropWhile s.grantable) ∧
      (endAllHeld .nvFault (failureAnswered i n s)).CanAnswer m := by
  obtain ⟨htaken, hheld, hstand, hnodup, hrest⟩ :=
    failureAnswered_answers hfault hlive hw hlaw hseq hlost hfailed hcan
  obtain ⟨hended, -, hcanEnd⟩ := endHelds_answer .nvFault (s.budget.held.dropWhile s.grantable) []
    (by rwa [List.append_nil]) (by rwa [List.append_nil]) hrest
  rw [endAllHeld, hheld, hended, htaken]
  exact ⟨rfl, hcanEnd⟩

/-- The whole order, with what S covers at its end (step 6). -/
theorem failureEffects_answers {failed covered : List Waiter} {lost : Waiter → Bool} (hlost : lost = s.lostWith i n)
    (hfailed : failed = (evalExposureBut lost s).store.waiting.filter (fun w => decide (n ≤ w.target)))
    (hcovered : covered = (evalExposureBut lost s).store.waiting.filter (fun w => !decide (n ≤ w.target) &&
      (decide (s.store.storedThrough < (failureEffects i n s).store.storedThrough) &&
        decide (w.target ≤ (failureEffects i n s).store.storedThrough))))
    (hcan : s.CanAnswer (s.reliefAnswers lost ++ (failed ++ covered))) :
    (failureEffects i n s).takenBy = s.takenBy ++ endings .ok s.store.storedThrough (s.reliefAnswers lost) ++
      s.heldEndings .nvFault (s.budget.held.takeWhile s.grantable) ++
      endings .nvFault s.store.storedThrough failed ++
      s.heldEndings .nvFault (s.budget.held.dropWhile s.grantable) ++
      endings .ok (failureEffects i n s).store.storedThrough covered := by
  obtain ⟨hended, hcanEnd⟩ := failureHeld_answers hfault hlive hw hlaw hseq hlost hfailed hcan
  obtain ⟨hwaiting, hthrough, hnone⟩ := onReliefBut_leaves lost hfault hlive hw
  have hleft : (endAllHeld .nvFault (failureAnswered i n s)).store.waiting =
        (evalExposureBut lost s).store.waiting.filter (fun w => !decide (n ≤ w.target)) ∧
      (endAllHeld .nvFault (failureAnswered i n s)).store.storedThrough = s.store.storedThrough ∧
      (endAllHeld .nvFault (failureAnswered i n s)).cc.alertWaiters = [] := by
    rw [← hwaiting, ← hthrough, ← hnone, hlost]
    simp [failureAnswered, finishWaiters_waiting]
  rw [failureEffects_eq] at hcovered ⊢
  generalize endAllHeld .nvFault (failureAnswered i n s) = y at *
  obtain ⟨hywaiting, hythrough, hyalerts⟩ := hleft
  have hquiet : (recomputeS y).cc.alertWaiters = [] := by simpa using hyalerts
  have hposted : (mediaFaultAlert i n (recomputeS y)).takenBy = (recomputeS y).takenBy := by
    rw [mediaFaultAlert, postAlert_eq hquiet]
    rfl
  have hS : (mediaFaultAlert i n (recomputeS y)).store.storedThrough = (recomputeS y).store.storedThrough := by simp
  have hcover : y.exposureAnswers false ++ y.coverAnswers false (recomputeS y).store.storedThrough = covered := by
    rw [hcovered, State.exposureAnswers, State.coverAnswers, hywaiting, hythrough, List.filter_filter, hS]
    simp [Bool.and_comm]
  obtain ⟨-, hfinal⟩ := recomputeS_answers y
  rw [hcover] at hfinal
  rw [hposted, hfinal hcanEnd, hended, hS, List.append_nil]

/-- The same, with the records told apart by what the end of exposure satisfies (R39, R67). -/
theorem failureEffects_order {ended : Bool} {last : Nat} {relieves : Waiter → Bool}
    {relieved failed covered : List Waiter}
    (hended : ended = (s.budget.exposed && decide (s.dirtyCount ≤ s.budget.b))) (hlast : last = (s.seg i).lastSeq.getD 0)
    (hrelieves : relieves = fun w =>
      ended && w.kind == .appendExposed && !(decide (n ≤ w.target) && decide (w.target ≤ last)))
    (hrelieved : relieved = s.store.waiting.filter relieves)
    (hfailed : failed = s.store.waiting.filter (fun w => !relieves w && decide (n ≤ w.target)))
    (hcovered : covered = s.store.waiting.filter (fun w => !relieves w && (!decide (n ≤ w.target) &&
      (decide (s.store.storedThrough < (failureEffects i n s).store.storedThrough) &&
        decide (w.target ≤ (failureEffects i n s).store.storedThrough)))))
    (hcan : s.CanAnswer (relieved ++ failed ++ covered)) :
    (failureEffects i n s).takenBy = s.takenBy ++ endings .ok s.store.storedThrough relieved ++
      s.heldEndings .nvFault (s.budget.held.takeWhile s.grantable) ++
      endings .nvFault s.store.storedThrough failed ++
      s.heldEndings .nvFault (s.budget.held.dropWhile s.grantable) ++
      endings .ok (failureEffects i n s).store.storedThrough covered := by
  have hsame : ∀ w, relieves w = (s.budget.exposed && decide (s.dirtyCount ≤ s.budget.b) &&
      (w.kind == .appendExposed && !s.lostWith i n w)) := fun w => by
    rw [hrelieves, hended, hlast, State.lostWith]
    simp only [Bool.and_assoc]
  have hfirst : s.reliefAnswers (s.lostWith i n) = relieved := by
    rw [hrelieved, State.reliefAnswers]
    exact List.filter_congr fun w _ => (hsame w).symm
  have hleft : (evalExposureBut (s.lostWith i n) s).store.waiting = s.store.waiting.filter (fun w => !relieves w) := by
    rw [evalExposureBut_waiting _ hlive]
    split
    · next h =>
      refine List.filter_congr fun w _ => ?_
      rw [hsame, h.1, decide_eq_true h.2]
      simp
    · next h =>
      refine (List.filter_eq_self.mpr fun w _ => ?_).symm
      have hnot : (s.budget.exposed && decide (s.dirtyCount ≤ s.budget.b)) = false := by simpa using h
      rw [hsame, hnot]
      rfl
  rw [← hfirst]
  refine failureEffects_answers hfault hlive hw hlaw hseq rfl ?_ ?_ ?_
  · rw [hleft, List.filter_filter, hfailed]
    exact List.filter_congr fun w _ => Bool.and_comm _ _
  · rw [hleft, List.filter_filter, hcovered]
    exact List.filter_congr fun w _ => Bool.and_comm _ _
  · rwa [hfirst, ← List.append_assoc]

end

/-! ### The failure as the end of the pass that fails (R79) -/

section
variable {i : SegId} {w : Nat} {s : State}

/-- The state of the failed segment, before the effects of its failure. -/
def failedPass (i : SegId) (w : Nat) (s : State) : State := failSegment i (passBytes i w false s)

theorem exec_fails (hop : s.store.op = some (.job i w)) (hw : s.working = true)
    (hst : (s.seg i).state = .openS ∨ (s.seg i).state = .full) (hr : (s.seg i).retry = 2) :
    exec (.storePassEnd false) s =
      .next (settle true (failureEffects i ((s.seg i).unstoredFrom.getD 0) (failedPass i w s))) := by
  have hseg : (passBytes i w false s).seg i = s.seg i := passBytes_seg i i w false s
  obtain ⟨hfails, -⟩ := passEnd_fails (s := passBytes i w false s) (by rwa [hseg]) (by rwa [hseg])
  rw [exec_storePassEnd hop hw, hfails, hseg]
  rfl

theorem failedPass_seg (i j : SegId) (w : Nat) (s : State) :
    (failedPass i w s).seg j = if j = i then (s.seg i).failedForm else s.seg j := by
  rw [failedPass, failSegment_seg, passBytes_seg, passBytes_seg]

/-- The pass that fails leaves the rest of the state to the effects of the failure. -/
theorem failedPass_leaves (i : SegId) (w : Nat) (s : State) : (failedPass i w s).cc = s.cc ∧
    (failedPass i w s).budget = s.budget ∧ (failedPass i w s).txns = s.txns ∧ (failedPass i w s).device = s.device ∧
    (failedPass i w s).store.waiting = s.store.waiting ∧
    (failedPass i w s).store.storedThrough = s.store.storedThrough ∧
    (failedPass i w s).journal = { s.journal with segs := (failedPass i w s).journal.segs } ∧
    (failedPass i w s).mediaFault = true := by
  obtain ⟨-, hfault⟩ := failSegment_failed i (passBytes i w false s)
  exact ⟨by simp [failedPass], by simp [failedPass], by simp [failedPass], by simp [failedPass], by simp [failedPass],
    by simp [failedPass], by simp [failedPass, failSegment, State.modSeg, State.setSeg], hfault⟩

theorem failedPass_grantable (i : SegId) (w : Nat) (s : State) :
    (failedPass i w s).grantable = (failSegment i s).grantable :=
  grantable_congr (by simp [failedPass, failSegment, State.modSeg, State.setSeg, State.seg]) (by simp [failedPass])
    (by simp [failedPass]) (by simp [failedPass])

end

/-- Settles O49: the records and the store engine by what the effects of the failure leave, and the order of the
completions by the steps of R79. -/
theorem segmentFailure : Obligations.SegmentFailure := by
  intro s i w hop hw hst hr halerts
  obtain ⟨hcc, hbudget, htxns, hdevice, hwaiting, hthrough, hjournal, hfault⟩ := failedPass_leaves i w s
  have hlive : (failedPass i w s).budgetLive = true := by
    rw [State.budgetLive, hdevice]
    exact budgetLive_of_working hw
  have hquiet : (failedPass i w s).cc.alertWaiters = [] := by rw [hcc, halerts]
  generalize hf : failedPass i w s = f at *
  generalize hn : (s.seg i).unstoredFrom.getD 0 = n
  obtain ⟨hsegs, hsram, hchain, hseq, htxns', -⟩ := failureEffects_keeps (i := i) (u := n) hfault
  obtain ⟨hheld, hnow, hmetadata, a, ha, halert⟩ := failureEffects_leaves (i := i) (n := n) hfault hlive hquiet
  have hleft := failureEffects_waiting (i := i) (n := n) hfault hlive hquiet
  have hlog := (settle_contents true (failureEffects i n f)).1
  have hseg : ∀ j, (failureEffects i n f).seg j = if j = i then (s.seg i).failedForm else s.seg j := fun j => by
    rw [State.seg, hsegs, ← failedPass_seg i j w s, hf, State.seg]
  have hsame : ∀ j, ((failureEffects i n f).seg j).SameLog ((settle true (failureEffects i n f)).seg j) :=
    settle_segments true _
  have hown : ({ s.seg i with state := .failed, unstoredFrom := none } : Segment).SameLog
      ((settle true (failureEffects i n f)).seg i) := by
    have h := hsame i
    rw [hseg, if_pos rfl] at h
    exact (failedForm_sameLog _).trans h
  refine ⟨_, by rw [exec_fails hop hw hst hr, hf, hn], hown, fun j hj => ?_, mediaFault_of_seg hown.1, by simpa using hheld,
    fun x hx => (hleft x (by simpa using hx)).1, fun x hx => ?_, ?_, settle_metadata_or true hmetadata,
    ⟨a, by simpa using ha, halert⟩, ?_, ?_, ?_, ?_, ?_⟩
  · have h := hsame j
    rwa [hseg, if_neg hj] at h
  · rw [← hwaiting]
    exact (hleft x (by simpa using hx)).2
  · rw [storedThroughNow_sameLog hlog, ← hnow]
    simp
  · rw [show (settle true (failureEffects i n f)).journal.sram = (failureEffects i n f).journal.sram by simp, hsram,
      hjournal]
  · rw [show (settle true (failureEffects i n f)).journal.chain = (failureEffects i n f).journal.chain by simp, hchain,
      hjournal]
  · rw [show (settle true (failureEffects i n f)).journal.nextSeq = (failureEffects i n f).journal.nextSeq by simp, hseq,
      hjournal]
  · rw [show (settle true (failureEffects i n f)).txns = (failureEffects i n f).txns by simp, htxns', htxns]
  · intro ended first last grantable hended hfirst hlast hgrantable hlaw hseq' relieves relieved failed covered hrelieves
      hrelieved hfailed hcovered hcan
    have hS : (settle true (failureEffects i n f)).store.storedThrough = (failureEffects i n f).store.storedThrough := by
      simp
    have hcount : (settle true (failureEffects i n f)).dirtyCount = f.dirtyCount :=
      dirtyCount_congr ((SameSegments.of_segs hsegs).trans hsame)
    have hlastSeq : (f.seg i).lastSeq = (s.seg i).lastSeq := by
      rw [← hf, failedPass_seg, if_pos rfl]
      rfl
    have htaken : (settle true (failureEffects i n f)).takenBy = (failureEffects i n f).takenBy := by
      simp [State.takenBy]
    have hgrant : f.grantable = grantable := by rw [← hf, failedPass_grantable, hgrantable]
    subst hfirst
    rw [hcount] at hended
    rw [hS] at hcovered ⊢
    have horder := failureEffects_order (i := i) (n := first) hfault hlive hquiet
      (by unfold State.HeldSetLaw State.chan at *; rwa [hbudget, hcc]) (by rw [hjournal]; exact hseq')
      (ended := ended) (last := last) (relieves := relieves) (relieved := relieved) (failed := failed)
      (covered := covered) (by rw [hended, hbudget]) (by rw [hlast, hlastSeq]) hrelieves (by rw [hrelieved, hwaiting])
      (by rw [hfailed, hwaiting]) (by rw [hcovered, hwaiting, hthrough]) (CanAnswer.of_chans hcan (by rw [hcc]))
    rw [htaken, horder, hbudget, hgrant, hthrough]
    simp only [State.takenBy, State.heldEndings, State.chan, hcc]

end Sys2Proof.Machine


namespace Sys2Proof.Machine

/-! ### Requests that their owning block completes at once (R94, R95, R104) -/

/-- A request that its owning block answers with a completion and nothing else (R159). -/
theorem onlyCompletes_withExec {c : ChanId} {k : Kind} {r : Executing} {s : State} {x : Completion}
    {f : Executing → State → State} (h : Executes c k .handed r s) (hf : f r s = completeExec c x s) :
    OnlyCompletes c x s (.next (settle false (withExec c k Stage.isHanded f s))) := by
  obtain ⟨hactive, hexec, hkind, hstage⟩ := h
  rw [withExec_eq hexec hkind (by simp [hstage, Stage.isHanded]), hf]
  exact onlyCompletes_settle x false hactive

/-- APPEND, SEAL and FLUSH are refused while the journal is UNFORMATTED (R94). -/
theorem beginDurable_unformatted {s : State} (c : ChanId) (r : Executing) (h : s.journal.formatted = false) :
    beginDurable c r s = completeExec c (r.req.refusal .notFormatted 0) s := by
  simp [beginDurable, h]

/-- READ is refused while the journal is UNFORMATTED (R94). -/
theorem beginRead_unformatted {s : State} (c : ChanId) (r : Executing) (h : s.journal.formatted = false) :
    beginRead c r s = completeExec c (r.req.refusal .notFormatted 0) s := by
  simp [beginRead, h]

/-! ### The tests of RELEASE (R95) -/

section
variable {c : ChanId} {r : Executing} {s : State}

/-- The execution event of RELEASE; an applied release is a test event for a checkpoint (R92). -/
theorem exec_release (h : Executes c .release .handed r s) :
    exec (.release c) s = .next (settle (releaseExecute c r s).2 (releaseExecute c r s).1) := by
  obtain ⟨-, hexec, hkind, hstage⟩ := h
  simp only [exec, execRelease, hexec]
  rw [if_pos ⟨hkind, hstage⟩]

/-- A RELEASE that a test answers with a completion and nothing else. -/
theorem onlyCompletes_release {x : Completion} (h : Executes c .release .handed r s)
    (hx : releaseExecute c r s = (completeExec c x s, false)) : OnlyCompletes c x s (exec (.release c) s) := by
  rw [exec_release h, hx]
  exact onlyCompletes_settle x false h.1

theorem releaseExecute_unformatted (h : s.journal.formatted = false) :
    releaseExecute c r s = (completeExec c (r.req.refusal .notFormatted 0) s, false) := by
  simp [releaseExecute, h]

theorem releaseExecute_range (hf : s.journal.formatted = true) (hn : s.journal.nextSeq ≤ r.req.seq) :
    releaseExecute c r s =
      (completeExec c (r.req.completion .range s.journal.head Stamp.zero (s.journal.nextSeq - 1)) s, false) := by
  simp [releaseExecute, hf, hn]

theorem releaseExecute_done (hf : s.journal.formatted = true) (hn : r.req.seq < s.journal.nextSeq)
    (hh : r.req.seq ≤ s.journal.head) :
    releaseExecute c r s = (completeExec c (r.req.completion .ok s.journal.head Stamp.zero 0) s, false) := by
  simp [releaseExecute, hf, Nat.not_le.mpr hn, hh]

theorem releaseExecute_open {first : Nat} (hf : s.journal.formatted = true) (hn : r.req.seq < s.journal.nextSeq)
    (hh : s.journal.head < r.req.seq) (ht : s.openTxnInRange r.req.seq = some first) :
    releaseExecute c r s =
      (completeExec c (r.req.completion .txnOpenInRange s.journal.head Stamp.zero first) s, false) := by
  simp [releaseExecute, hf, Nat.not_le.mpr hn, Nat.not_le.mpr hh, ht]

/-- Past every test the release is applied, and the request completes with its two counts (R96, log entry 29). -/
theorem releaseExecute_applied (hf : s.journal.formatted = true) (hn : r.req.seq < s.journal.nextSeq)
    (hh : s.journal.head < r.req.seq) (ht : s.openTxnInRange r.req.seq = none) :
    releaseExecute c r s = (completeExec c (r.req.completion .ok r.req.seq Stamp.zero
      ((s.releaseCounts r.req.seq).1 + (s.releaseCounts r.req.seq).2 * 2 ^ 16)) (applyRelease r.req.seq s), true) := by
  simp [releaseExecute, hf, Nat.not_le.mpr hn, Nat.not_le.mpr hh, ht]

end

/-- The lowest first seq of the OPEN transactions, when it lies in the range of a release (R95). -/
theorem openTxnInRange_lowest {s : State} {t : TxnRecord} {n : Nat} (ht : t ∈ s.txns.table) (hopen : t.expired = false)
    (hn : t.firstSeq ≤ n) (hlow : ∀ x ∈ s.txns.table, x.expired = false → t.firstSeq ≤ x.firstSeq) :
    s.openTxnInRange n = some t.firstSeq := by
  rw [State.openTxnInRange, List.min?_eq_some_iff]
  refine ⟨List.mem_map_of_mem (List.mem_filter.mpr ⟨ht, by simp [hopen, hn]⟩), fun k hk => ?_⟩
  obtain ⟨x, hx, rfl⟩ := List.mem_map.mp hk
  obtain ⟨hmem, htest⟩ := List.mem_filter.mp hx
  simp only [Bool.and_eq_true, Bool.not_eq_true'] at htest
  exact hlow x hmem htest.1

/-- No OPEN transaction stands in the range of a release when each begins above it (R95). -/
theorem openTxnInRange_none {s : State} {n : Nat} (h : ∀ t ∈ s.txns.table, t.expired = false → n < t.firstSeq) :
    s.openTxnInRange n = none := by
  rw [State.openTxnInRange, List.min?_eq_none_iff, List.map_eq_nil_iff, List.filter_eq_nil_iff]
  intro t ht htest
  simp only [Bool.and_eq_true, Bool.not_eq_true', decide_eq_true_eq] at htest
  have := h t ht htest.1
  omega

/-- Settles O21: each of the five requests tests the journal state first. -/
theorem notFormattedRefusal : Obligations.NotFormattedRefusal := by
  intro s c r hf
  refine ⟨fun h => ?_, fun h => ?_, fun h => ?_, fun h => ?_, fun h => ?_⟩
  · exact onlyCompletes_withExec h (beginDurable_unformatted c r hf)
  · exact onlyCompletes_withExec h (beginDurable_unformatted c r hf)
  · exact onlyCompletes_withExec h (beginDurable_unformatted c r hf)
  · exact onlyCompletes_withExec h (beginRead_unformatted c r hf)
  · exact onlyCompletes_release h (releaseExecute_unformatted hf)

/-- Settles O33: the tests of R95 in order, each a completion alone. -/
theorem releaseTests : Obligations.ReleaseTests := by
  intro s c r h hf
  refine ⟨fun hn => ?_, fun hn hh => ?_, fun t ht hn hh hopen hfirst hlow => ?_⟩
  · exact onlyCompletes_release h (releaseExecute_range hf hn)
  · exact onlyCompletes_release h (releaseExecute_done hf hn hh)
  · exact onlyCompletes_release h (releaseExecute_open hf hn hh (openTxnInRange_lowest ht hopen hfirst hlow))

/-! ### The acceptance of FORMAT (R104) -/

theorem dataChannelsClosed_iff (s : State) :
    s.dataChannelsClosed = true ↔ ∀ c, c ≠ 0 → (s.chan c).state = .closed := by
  simp only [State.dataChannelsClosed, List.all_eq_true, List.mem_finRange, forall_true_left, Bool.or_eq_true,
    beq_iff_eq, ne_eq, or_iff_not_imp_left]

theorem setStage_contents (c : ChanId) (st : Stage) (s : State) : SameContents s (setStage c st s) := by
  refine ⟨SameLog.of_journal (by simp), ?_⟩
  unfold SameUnits
  simp

/-- Settles O37: FORMAT moves to its wait when every data channel is CLOSED, and is refused otherwise. -/
theorem formatAcceptance : Obligations.FormatAcceptance := by
  intro s r h
  refine ⟨fun hclosed => ?_, fun ⟨c, hc, hstate⟩ => ?_⟩
  · obtain ⟨-, hexec, hkind, hstage⟩ := h
    have hwaits : withExec 0 .format Stage.isHanded formatExecute s = setStage 0 .formatWait s := by
      rw [withExec_eq hexec hkind (by simp [hstage, Stage.isHanded]), formatExecute,
        if_pos ((dataChannelsClosed_iff s).mpr hclosed)]
    refine ⟨_, congrArg (fun t => Host.Outcome.next (settle false t)) hwaits, movedTo_settle false hexec rfl,
      (setStage_contents _ _ s).trans (settle_contents _ _)⟩
  · refine onlyCompletes_withExec h ?_
    rw [formatExecute, if_neg fun hall => hstate ((dataChannelsClosed_iff s).mp hall c hc)]

end Sys2Proof.Machine


namespace Sys2Proof.Machine

/-! ### The SEGMENT_RETIRED alerts of a list of retirements (R102, R171, R172) -/

/-- The record of the folded kind, when there was none. -/
theorem foldAlert_filter_new {kind : AlertKind} (n d : Nat) (stamp : Stamp) {alerts : List AlertRecord}
    (h : alerts.filter (fun a => a.kind == kind) = []) :
    (foldAlert kind n d stamp alerts).filter (fun a => a.kind == kind) =
      [{ kind := kind, count := 1, seqValue := n, detail := d, stamp := stamp }] := by
  have hnone : alerts.any (fun a => a.kind == kind) = false := by
    rw [List.any_eq_false]
    exact List.filter_eq_nil_iff.mp h
  simp [foldAlert, hnone, h]

/-- The record of the folded kind, when there was one: it counts one occurrence more. -/
theorem foldAlert_filter_counts {kind : AlertKind} (n d : Nat) (stamp : Stamp) {alerts : List AlertRecord}
    {b : AlertRecord} (h : alerts.filter (fun a => a.kind == kind) = [b]) :
    (foldAlert kind n d stamp alerts).filter (fun a => a.kind == kind) =
      [{ b with count := min 255 (b.count + 1), seqValue := n, detail := d, stamp := stamp }] := by
  obtain ⟨hb, hkind⟩ := List.mem_filter.mp (h ▸ List.mem_singleton_self b : b ∈ alerts.filter (fun a => a.kind == kind))
  have hany : alerts.any (fun a => a.kind == kind) = true := List.any_eq_true.mpr ⟨b, hb, hkind⟩
  have hkinds : ((fun a : AlertRecord => a.kind == kind) ∘ fun a : AlertRecord => if a.kind == kind then
      { a with count := min 255 (a.count + 1), seqValue := n, detail := d, stamp := stamp } else a) =
        fun a => a.kind == kind := by
    funext a
    simp only [Function.comp]
    split <;> rfl
  rw [foldAlert, if_pos hany, List.filter_map, hkinds, h]
  simp only [List.map_cons, hkind, if_true, List.map_nil]

/-- The alert list after the SEGMENT_RETIRED alert of a segment whose record stood as given (R172). -/
def retirementFolded (stamp : Stamp) (alerts : List AlertRecord) (x : SegId × Segment) : List AlertRecord :=
  foldAlert .segmentRetired (x.2.lastSeq.getD 0) (x.1.val + x.2.firstSeq.getD 0 * 2 ^ 16) stamp alerts

/-- With no alert waiter the reports of retirements fold into the alert list, in order, and touch no channel (R171). -/
theorem reportRetired_cc (l : List (SegId × Segment)) {s : State} (hw : s.cc.alertWaiters = []) :
    (reportRetired l s).cc = { s.cc with alerts := l.foldl (retirementFolded s.clock.reading) s.cc.alerts } := by
  induction l generalizing s with
  | nil => rfl
  | cons x l ih =>
    have hstep : (retiredAlert x.1 x.2 s).cc =
        { s.cc with alerts := retirementFolded s.clock.reading s.cc.alerts x } := by
      rw [retiredAlert, postAlert_eq (by simpa using hw)]
      rfl
    have hclock : (retiredAlert x.1 x.2 s).clock = s.clock := by simp
    rw [show reportRetired (x :: l) s = reportRetired l (retiredAlert x.1 x.2 s) from rfl, ih (by rw [hstep]; exact hw),
      hstep, hclock]
    rfl

/-- One record of the kind counts each retirement of a list after it, up to 255. -/
theorem retirementsFolded_count {stamp : Stamp} (l : List (SegId × Segment)) {alerts : List AlertRecord} {b : AlertRecord}
    (hb : b.count ≤ 255) (h : alerts.filter (fun a => a.kind == .segmentRetired) = [b]) :
    ∃ a, (l.foldl (retirementFolded stamp) alerts).filter (fun a => a.kind == .segmentRetired) = [a] ∧
      a.count = min 255 (b.count + l.length) := by
  induction l generalizing alerts b with
  | nil => exact ⟨b, h, by simp [hb]⟩
  | cons x l ih =>
    obtain ⟨a, ha, hcount⟩ := ih (Nat.min_le_left _ _) (foldAlert_filter_counts (x.2.lastSeq.getD 0)
      (x.1.val + x.2.firstSeq.getD 0 * 2 ^ 16) stamp h)
    refine ⟨a, ha, hcount.trans ?_⟩
    simp only [List.length_cons]
    omega

/-- After the retirements of a list that is not empty the record of the kind counts them, and those it counted before. -/
theorem retirementsFolded_counts {stamp : Stamp} {l : List (SegId × Segment)} (hl : l ≠ []) {alerts : List AlertRecord}
    {a : AlertRecord} (ha : a ∈ l.foldl (retirementFolded stamp) alerts) (hkind : a.kind = .segmentRetired) :
    (alerts.filter (fun a => a.kind == .segmentRetired) = [] → a.count = min 255 l.length) ∧
      ∀ b, alerts.filter (fun a => a.kind == .segmentRetired) = [b] → a.count = min 255 (b.count + l.length) := by
  obtain ⟨x, l, rfl⟩ := List.exists_cons_of_ne_nil hl
  have hmem := List.mem_filter (p := fun a => a.kind == .segmentRetired).mpr ⟨ha, by simp [hkind]⟩
  rw [List.foldl_cons] at hmem
  have honly : ∀ b, (retirementFolded stamp alerts x).filter (fun a => a.kind == .segmentRetired) = [b] →
      b.count ≤ 255 → a.count = min 255 (b.count + l.length) := fun b hb hle => by
    obtain ⟨a', ha', hcount⟩ := retirementsFolded_count l hle hb
    rw [ha', List.mem_singleton] at hmem
    rw [hmem, hcount]
  refine ⟨fun hnone => ?_, fun b hb => ?_⟩
  · rw [honly _ (foldAlert_filter_new _ _ stamp hnone) (by simp), List.length_cons, Nat.add_comm]
  · rw [honly _ (foldAlert_filter_counts _ _ stamp hb) (Nat.min_le_left _ _), List.length_cons]
    simp only
    omega

/-- After the retirements of a list that is not empty a record of the kind shows the last of them. -/
theorem retirementsFolded_last {stamp : Stamp} {l : List (SegId × Segment)} {alerts : List AlertRecord}
    {x : SegId × Segment} (h : l.getLast? = some x) :
    ∃ a ∈ l.foldl (retirementFolded stamp) alerts, a.kind = .segmentRetired ∧ a.seqValue = x.2.lastSeq.getD 0 ∧
      a.detail = x.1.val + x.2.firstSeq.getD 0 * 2 ^ 16 ∧ a.stamp = stamp := by
  obtain ⟨init, rfl⟩ := List.getLast?_eq_some_iff.mp h
  rw [List.foldl_append]
  exact foldAlert_mem _ _ _ _ _

/-- The alerts of a list of retirements, posted in its order with no alert waiter, stand at the end of the event. -/
theorem retiredAlerts_of_report {l : List SegId} {s t u : State} (hclock : t.clock = s.clock)
    (hw : t.cc.alertWaiters = []) (hbefore : KindKept .segmentRetired s t)
    (hafter : KindKept .segmentRetired (reportRetired (l.map fun i => (i, s.seg i)) t) u) : RetiredAlerts l s u := by
  obtain ⟨-, hs⟩ := hbefore
  obtain ⟨-, hu⟩ := hafter
  rw [reportRetired_cc _ hw, hclock] at hu
  refine ⟨fun hl => ?_, fun i hi => ?_⟩
  · subst hl
    exact hu.trans hs
  · have hlast : (l.map fun i => (i, s.seg i)).getLast? = some (i, s.seg i) := by simp [hi]
    obtain ⟨a, ha, hkind, hseq, hdetail, hstamp⟩ := retirementsFolded_last (stamp := s.clock.reading)
      (alerts := t.cc.alerts) hlast
    obtain ⟨hnew, hmore⟩ := retirementsFolded_counts (fun hnil => by rw [hnil] at hlast; cases hlast) ha hkind
    rw [List.length_map, hs] at hnew
    rw [List.length_map, hs] at hmore
    have hmem := List.mem_filter (p := fun a => a.kind == .segmentRetired).mpr ⟨ha, by simp [hkind]⟩
    refine ⟨a, (List.mem_filter.mp (hu.symm ▸ hmem)).1, hkind, hseq, hdetail, hstamp, fun hnone => hnew ?_, hmore⟩
    exact List.filter_eq_nil_iff.mpr fun b hb => by simpa using hnone b hb

end Sys2Proof.Machine


namespace Sys2Proof.Machine

/-! ### The reports of a release with no request held (R61, R97, log entry 18) -/

section
variable {s : State}

/-- Pressure that has been recomputed is as its recomputation leaves it. -/
theorem recomputePressure_stays (h : s.budget.pressure = s.pressureLevel) : recomputePressure s = s := by
  simp [recomputePressure, h]

/-- A further report of the same D changes nothing: exposure and pressure stand as the first report left them. -/
theorem onRelief_stays (hheld : s.budget.held = []) (hexposed : s.budget.exposed = decide (s.budget.b < s.dirtyCount))
    (hpressure : s.budget.pressure = s.pressureLevel) : onRelief s = s := by
  cases hlive : s.budgetLive with
  | false => exact onReliefBut_not_live _ hlive
  | true =>
    have hstays : evalExposureBut (fun _ => false) s = s := evalExposure_stays hexposed
    rw [onRelief, onReliefBut_none_held _ hheld hlive, hstays, recomputePressure_stays hpressure]

/-- What a report of a fall of D leaves for a further one to find. -/
theorem onRelief_settled (hheld : s.budget.held = []) (hlive : s.budgetLive = true) :
    onRelief (onRelief s) = onRelief s := by
  have heq : onRelief s = recomputePressure (evalExposure s) := onReliefBut_none_held _ hheld hlive
  have hjournal : (onRelief s).journal = s.journal := by rw [heq]; simp
  have hsame : SameSegments s (onRelief s) := SameSegments.of_segs (by rw [hjournal])
  have hnone : (onRelief s).budget.held = [] := onReliefBut_held_nil _ hheld
  refine onRelief_stays hnone ?_ ?_
  · rw [dirtyCount_congr hsame, show (onRelief s).budget.b = s.budget.b by simp, heq,
      ← evalExposureBut_exposed (fun _ => false) hlive]
    simp
  · have hlive' : (evalExposure s).budgetLive = true := by
      rw [← hlive]
      simp [State.budgetLive]
    rw [heq, recomputePressure_pressure hlive']
    refine (pressureLevel_congr (SameSegments.of_segs (by simp)) (by simp) (by simp) (by simp)).symm

/-- The reports of a release's falls do as one report of a fall does (log entry 18). -/
theorem reliefs_as_one (hheld : s.budget.held = []) (hlive : s.budgetLive = true) (falls : Nat) :
    (List.range (falls + 1)).foldl (fun s (_ : Nat) => onRelief s) s = onRelief s := by
  induction falls with
  | zero => rfl
  | succ n ih =>
    rw [List.range_succ, List.foldl_append, ih]
    exact onRelief_settled hheld hlive

/-- Outside the states of the budget unit a release reports nothing (R60, R118). -/
theorem reliefs_not_live (hlive : s.budgetLive = false) (falls : Nat) :
    (List.range falls).foldl (fun s (_ : Nat) => onRelief s) s = s := by
  induction falls with
  | zero => rfl
  | succ n ih =>
    rw [List.range_succ, List.foldl_append, ih]
    exact onReliefBut_not_live _ hlive

/-- The reports of a release and its recomputation of S, with no request held: a fall of D as at any other event, and
without one S alone. -/
theorem recomputeS_reportRelief (hheld : s.budget.held = []) (falls freed : Nat) :
    recomputeS (reportRelief falls freed s) =
      if s.budgetLive = true ∧ 0 < falls then relieved s else recomputeS s := by
  rw [reportRelief_none_held falls freed hheld]
  split
  · next h =>
    obtain ⟨n, rfl⟩ := Nat.exists_eq_add_of_lt h.2
    rw [Nat.zero_add, reliefs_as_one hheld h.1, onRelief_relieved hheld h.1]
  · next h =>
    rcases Nat.eq_zero_or_pos falls with hzero | hpos
    · rw [hzero]; rfl
    · rw [reliefs_not_live (by simpa [hpos] using h)]

end

/-! ### The walk over the covered members (R97, R98) -/

/-- The state after the walk: head has risen and the covered members are treated. -/
def walked (n : Nat) (s : State) : State := (s.coveredMembers n).foldl releaseMember { s with journal.head := n }

theorem walked_frame (n : Nat) (s : State) :
    (walked n s).cc = s.cc ∧ (walked n s).budget = s.budget ∧ (walked n s).txns = s.txns ∧
      (walked n s).clock = s.clock ∧ (walked n s).monitor = s.monitor ∧ (walked n s).device = s.device ∧
      (walked n s).store.storedThrough = s.store.storedThrough ∧ (walked n s).store.waiting = s.store.waiting ∧
      (walked n s).journal.sram = s.journal.sram ∧ (walked n s).journal.nextSeq = s.journal.nextSeq ∧
      (walked n s).journal.head = n ∧ (walked n s).journal.format = s.journal.format := by
  have h := foldl_keeps (fun s : State => (s.cc, s.budget, s.txns, s.clock, s.monitor, s.device, s.store.storedThrough,
    s.store.waiting, s.journal.sram, s.journal.nextSeq, s.journal.head, s.journal.format)) releaseMember
    (fun s i => by simp) (s.coveredMembers n) { s with journal.head := n }
  simpa only [walked, Prod.mk.injEq] using h

/-- Every record after the walk (R97, R98). -/
theorem walked_seg (n : Nat) (s : State) (i : SegId) : (walked n s).seg i = s.afterRelease n i :=
  releaseMembers_seg _ _ i

theorem walked_chain (n : Nat) (s : State) : (walked n s).journal.chain =
    s.journal.chain.filter (fun i => !((s.coveredMembers n).contains i && (s.seg i).leavesChain)) :=
  releaseMembers_chain _ _

/-- A release makes no record dirty. -/
theorem released_dirty {g : Segment} (h : g.released.dirty = true) : g.dirty = true := by
  cases hst : g.state with
  | full => cases hin : g.inStore <;> simp_all [Segment.released, Segment.dirty, Segment.freeForm]
  | openS => cases hin : g.inStore <;> simp_all [Segment.released, Segment.dirty]
  | failed => simp [Segment.released, hst, Segment.dirty, Segment.freeForm] at h
  | freeing => simpa [Segment.released, hst] using h
  | free => simpa [Segment.released, hst] using h
  | retired => simpa [Segment.released, hst] using h

/-- D by segment number. -/
theorem dirtyCount_eq (s : State) : s.dirtyCount = (List.finRange 512).countP (fun i => (s.seg i).dirty) := by
  have htable : s.journal.segs.toList = (List.finRange 512).map s.seg :=
    List.ext_getElem (by simp) fun n h1 h2 => by simp [State.seg]
  rw [State.dirtyCount, State.countSegs, htable, List.countP_map]
  rfl

/-- D does not rise at a release. -/
theorem walked_dirtyCount_le (n : Nat) (s : State) : (walked n s).dirtyCount ≤ s.dirtyCount := by
  rw [dirtyCount_eq, dirtyCount_eq]
  refine List.countP_mono_left fun i _ h => ?_
  rw [walked_seg, State.afterRelease] at h
  split at h
  · exact released_dirty h
  · exact h

/-! ### An applied release, up to its retirements' reports (R97) -/

/-- The state after the walk, its reports of falls of D, and S: what the reports of retirements find. -/
def reported (n : Nat) (s : State) : State :=
  recomputeS (reportRelief (s.dirtyCount - (walked n s).dirtyCount) ((s.coveredMembers n).countP s.relieves) (walked n s))

/-- The members that a release retires, in chain order. -/
def State.retiredBy (s : State) (n : Nat) : List SegId :=
  (s.coveredMembers n).filter (fun i => (s.seg i).state == .failed)

theorem applyRelease_eq (n : Nat) (s : State) :
    applyRelease n s = reportRetired ((s.retiredBy n).map fun i => (i, s.seg i)) (setMetadataDirty (reported n s)) := rfl

section
variable {n : Nat} {s : State}

theorem walked_live : (walked n s).budgetLive = s.budgetLive := by
  obtain ⟨-, -, -, -, -, hdevice, -⟩ := walked_frame n s
  rw [State.budgetLive, hdevice]
  rfl

/-- With no request held a release reports a fall of D once, and without a fall recomputes S alone. -/
theorem reported_eq (hheld : s.budget.held = []) : reported n s =
    if s.budgetLive = true ∧ (walked n s).dirtyCount < s.dirtyCount then relieved (walked n s)
    else recomputeS (walked n s) := by
  obtain ⟨-, hbudget, -⟩ := walked_frame n s
  rw [reported, recomputeS_reportRelief (by rw [hbudget]; exact hheld), walked_live]
  simp only [Nat.sub_pos_iff_lt]

/-- What the reports leave of the walk's state: the journal and the other units, with S recomputed. -/
theorem reported_recomputed (hheld : s.budget.held = []) : Recomputed (walked n s) (reported n s) := by
  rw [reported_eq hheld]
  split
  · exact recomputed_relieved _
  · exact recomputed_recomputeS _

/-- The reports leave every channel executing what it executed. -/
theorem reported_stands (hheld : s.budget.held = []) (c : ChanId) : ChannelStands c s (reported n s) := by
  obtain ⟨hcc, -⟩ := walked_frame n s
  refine (ChannelStands.of_cc (by rw [hcc])).trans (u := reported n s) (t := walked n s) ?_
  rw [reported_eq hheld]
  split
  · exact ((ChannelStands.evalExposureBut (fun _ => false) _).trans (.of_cc (by simp))).trans (.recomputeS _)
  · exact .recomputeS _

end

/-! ### Completions are only added (R160) -/

/-- `t` has taken the completions that `s` has taken, and none or more after them. -/
def TakenAdded (s t : State) : Prop := ∃ more, t.taken = s.taken ++ more

theorem TakenAdded.of_posts {s t : State} (h : t.cc.posts = s.cc.posts) : TakenAdded s t :=
  ⟨[], by rw [taken_of_posts h, List.append_nil]⟩

theorem TakenAdded.trans {s t u : State} (h : TakenAdded s t) (h' : TakenAdded t u) : TakenAdded s u := by
  obtain ⟨more, hmore⟩ := h
  obtain ⟨more', hmore'⟩ := h'
  exact ⟨more ++ more', by rw [hmore', hmore, List.append_assoc]⟩

theorem postAlert_takenAdded (kind : AlertKind) (n d : Nat) (s : State) : TakenAdded s (postAlert kind n d s) := by
  rw [postAlert]
  split
  · exact takeSlot_taken_append 0 _ _
  · exact .of_posts rfl

theorem recomputeS_takenAdded (s : State) : TakenAdded s (recomputeS s) := by
  rw [recomputeS]
  split
  · exact finishWaiters_taken_append _ _ { s with store.storedThrough := s.storedThroughNow }
  · exact .of_posts rfl

theorem evalExposureBut_takenAdded (lost : Waiter → Bool) (s : State) : TakenAdded s (evalExposureBut lost s) := by
  simp only [evalExposureBut]
  split
  · split
    · split
      · exact (postAlert_takenAdded _ _ _ { s with budget.exposed := false }).trans (finishWaiters_taken_append _ _ _)
      · exact .of_posts rfl
    · split
      · exact postAlert_takenAdded _ _ _ { s with budget.exposed := true }
      · exact .of_posts rfl
  · exact .of_posts rfl

theorem relieved_takenAdded (s : State) : TakenAdded s (relieved s) := by
  have hpressure : TakenAdded (evalExposure s) (recomputePressure (evalExposure s)) := .of_posts (by simp)
  exact ((evalExposureBut_takenAdded _ s).trans hpressure).trans (recomputeS_takenAdded _)

theorem reportRetired_takenAdded (l : List (SegId × Segment)) (s : State) : TakenAdded s (reportRetired l s) :=
  foldl_taken_append _ (fun t x => (TakenAdded.of_posts (by simp) : TakenAdded t (setMetadataDirty t)).trans
    (postAlert_takenAdded _ _ _ _)) l s

theorem retiredAlert_stands (c : ChanId) (i : SegId) (g : Segment) (s : State) :
    ChannelStands c s (retiredAlert i g s) := by
  have hdirty : ChannelStands c s (setMetadataDirty s) := .of_cc (by simp)
  exact hdirty.trans (.postAlert _ _ _ _)

theorem reportRetired_stands (c : ChanId) (l : List (SegId × Segment)) (s : State) :
    ChannelStands c s (reportRetired l s) :=
  foldl_invariant (P := ChannelStands c s) _ (fun _ x ht => ht.trans (retiredAlert_stands c x.1 x.2 _)) l (.of_cc rfl)

end Sys2Proof.Machine


namespace Sys2Proof.Machine

/-! ### Exposure and the wait list at a release (R61, R66, R67, R83) -/

/-- Without an evaluation the exposure state and its alerts stand. -/
theorem ExposureFollows.unevaluated (d : Nat) {s u : State} (hexposed : u.budget.exposed = s.budget.exposed)
    (halerts : u.cc.alerts = s.cc.alerts) : ExposureFollows false d s u := by
  refine ⟨by simp [hexposed], fun kind _ => ?_⟩
  rw [hexposed, halerts, if_neg]
  rintro (⟨-, h1, h2⟩ | ⟨-, h1, h2⟩) <;> rw [h1] at h2 <;> cases h2

/-- What an evaluation leaves stands where the exposure state, B and the alerts of both kinds do. -/
theorem ExposureFollows.of_kept {evaluated : Bool} {d : Nat} {s t u v : State} (h : ExposureFollows evaluated d t u)
    (hs : t.budget = s.budget ∧ t.clock = s.clock ∧ t.cc = s.cc)
    (hv : v.budget.exposed = u.budget.exposed ∧ v.budget.b = u.budget.b) (hexposed : KindKept .exposed u v)
    (hended : KindKept .exposureEnded u v) : ExposureFollows evaluated d s v := by
  obtain ⟨hbudget, hclock, hcc⟩ := hs
  obtain ⟨hvexposed, hb⟩ := hv
  unfold ExposureFollows at *
  rw [hbudget, hclock, hcc] at h
  rw [hvexposed, hb]
  refine ⟨h.1, fun kind hkind => Eq.trans ?_ (h.2 kind hkind)⟩
  rcases hkind with rfl | rfl
  · exact hexposed.2
  · exact hended.2

/-- A completion taken after the answers of an event is its own (log entry 29). -/
theorem Answers.with_own {ended : Bool} {own : List (ChanId × Completion)} {s u v : State} (h : Answers ended [] s u)
    (hw : v.store.waiting = u.store.waiting) (hs : v.store.storedThrough = u.store.storedThrough)
    (ht : v.takenBy = u.takenBy ++ own) : Answers ended own s v := by
  obtain ⟨hwaiting, htaken⟩ := h
  unfold Answers
  rw [hw, hs]
  refine ⟨hwaiting, fun hcan => ?_⟩
  rw [ht, htaken hcan, List.append_nil]

section
variable {n : Nat} {s : State} (hheld : s.budget.held = [])
include hheld

/-- With no alert waiter the reports of a release leave none (R173). -/
theorem reported_kindKept {k : AlertKind} (hexposed : .exposed ≠ k) (hended : .exposureEnded ≠ k) :
    KindKept k s (reported n s) := by
  obtain ⟨hcc, -⟩ := walked_frame n s
  refine KindKept.trans (t := walked n s) (.of_eq (by rw [hcc]) (by rw [hcc])) ?_
  rw [reported_eq hheld]
  split
  · exact (evalExposureBut_kindKept (fun _ => false) (walked n s) hexposed hended).trans
      (.of_eq (by simp [relieved]) (by simp [relieved]))
  · exact .of_eq (by simp) (by simp)

/-- Exposure is evaluated when D has fallen, with the D that the walk leaves, and the wait list is answered (log entry 18). -/
theorem reported_exposure (hlive : s.budgetLive = true) (hw : s.cc.alertWaiters = []) :
    ExposureFollows (decide ((walked n s).dirtyCount < s.dirtyCount)) (walked n s).dirtyCount (walked n s) (reported n s) ∧
      Answers (s.budget.exposed && decide ((walked n s).dirtyCount < s.dirtyCount) &&
        decide ((walked n s).dirtyCount ≤ s.budget.b)) [] (walked n s) (reported n s) := by
  obtain ⟨hcc, hbudget, -⟩ := walked_frame n s
  have hlive' : (walked n s).budgetLive = true := walked_live.trans hlive
  have hw' : (walked n s).cc.alertWaiters = [] := by rw [hcc]; exact hw
  rw [reported_eq hheld, hlive, ← hbudget]
  by_cases hfall : (walked n s).dirtyCount < s.dirtyCount
  · rw [if_pos ⟨rfl, hfall⟩, decide_eq_true hfall, Bool.and_true]
    exact ⟨relieved_exposure hlive' hw', relieved_answers hlive' hw'⟩
  · rw [if_neg fun h => hfall h.2, decide_eq_false hfall, Bool.and_false, Bool.false_and]
    exact ⟨.unevaluated _ (by simp) (by simp), recomputeS_answers _⟩

/-- Where the journal is not EXPOSED and D is not above B, a release changes neither: it posts no alert of exposure. -/
theorem reported_alertWaiters (hexposed : s.budget.exposed = false) (hd : s.dirtyCount ≤ s.budget.b) :
    (reported n s).cc.alertWaiters = s.cc.alertWaiters := by
  obtain ⟨hcc, hbudget, -⟩ := walked_frame n s
  have hbelow : (walked n s).dirtyCount ≤ s.budget.b := (walked_dirtyCount_le n s).trans hd
  have hstays : evalExposure (walked n s) = walked n s := evalExposure_stays (by simp [hbudget, hexposed, hbelow])
  rw [reported_eq hheld, ← hcc]
  split
  · simp [relieved, hstays]
  · simp

end

/-! ### An applied release (R96, R97) -/

/-- The oldest alert waiter takes an occurrence at once, on channel 0 (R171, R173). -/
theorem postAlert_answers {kind : AlertKind} (n d : Nat) {s : State} {tag : Tag} {rest : List Tag}
    (hw : s.cc.alertWaiters = tag :: rest) (hactive : (s.chan 0).state = .active) :
    (postAlert kind n d s).cc.alertWaiters = rest ∧
      (postAlert kind n d s).takenBy = s.takenBy ++ [(0, AlertRecord.completion
        { kind := kind, count := 1, seqValue := n, detail := d, stamp := s.clock.reading } tag true)] := by
  have hlive : (State.chan { s with cc.alertWaiters := rest } 0).live = true := live_of_active hactive
  simp only [postAlert, hw]
  refine ⟨by simp, ?_⟩
  rw [takenBy_eq, takeSlot_taken _ hlive, List.map_append, ← takenBy_eq]
  rfl

/-- A retirement answers the oldest alert waiter with its SEGMENT_RETIRED alert (R102, R173). -/
theorem retiredAlert_answers (i : SegId) (g : Segment) {s : State} {tag : Tag} {rest : List Tag}
    (hw : s.cc.alertWaiters = tag :: rest) (hactive : (s.chan 0).state = .active) :
    (retiredAlert i g s).cc.alertWaiters = rest ∧
      (0, { tag := tag, kindCode := 0x17, status := .ok, deferred := true, alertCode := 4, alertCount := 1,
            seq := g.lastSeq.getD 0, stamp := s.clock.reading, detail := i.val + g.firstSeq.getD 0 * 2 ^ 16 }) ∈
        (retiredAlert i g s).takenBy := by
  obtain ⟨hrest, htaken⟩ := postAlert_answers (kind := .segmentRetired) (g.lastSeq.getD 0)
    (i.val + g.firstSeq.getD 0 * 2 ^ 16) (s := setMetadataDirty s) hw hactive
  refine ⟨hrest, ?_⟩
  rw [retiredAlert, htaken]
  exact List.mem_append_right _ (List.mem_singleton_self _)

/-- Reports of retirements leave metadata-dirty set (R91, R102). -/
theorem reportRetired_metadata (l : List (SegId × Segment)) {s : State} (h : s.store.metadataDirty = true) :
    (reportRetired l s).store.metadataDirty = true :=
  foldl_invariant (P := fun t => t.store.metadataDirty = true) _
    (fun t x _ => by simp [retiredAlert, setMetadataDirty]) l h

/-- Reports of retirements leave the alerts of every other kind (R171). -/
theorem reportRetired_kindKept {k : AlertKind} (l : List (SegId × Segment)) (s : State) (h : .segmentRetired ≠ k) :
    KindKept k s (reportRetired l s) :=
  foldl_invariant (P := KindKept k s) _
    (fun t x ht => (ht.trans (.of_eq (by simp) (by simp))).trans (postAlert_kindKept _ _ (setMetadataDirty t) h)) l
    (.of_eq rfl rfl)

section
variable {n : Nat} {s : State} (hheld : s.budget.held = [])
include hheld

/-- The journal after an applied release is that of its walk. -/
theorem applyRelease_log : SameLog (walked n s) (applyRelease n s) := by
  refine SameLog.of_journal ?_
  rw [applyRelease_eq]
  simpa using (reported_recomputed hheld).journal

/-- What else an applied release leaves, S, and the metadata report (R82, R91). -/
theorem applyRelease_units : (applyRelease n s).txns = s.txns ∧ (applyRelease n s).clock = s.clock ∧
    (applyRelease n s).store.storedThrough = (walked n s).storedThroughNow ∧
    (applyRelease n s).store.metadataDirty = true := by
  obtain ⟨-, -, htxns, hclock, -⟩ := walked_frame n s
  obtain ⟨-, hztxns, hzclock, -, hthrough, -⟩ := reported_recomputed (n := n) hheld
  rw [applyRelease_eq]
  exact ⟨by simp [hztxns, htxns], by simp [hzclock, hclock], by simp [hthrough], reportRetired_metadata _ rfl⟩

theorem applyRelease_stands (c : ChanId) : ChannelStands c s (applyRelease n s) := by
  have hdirty : ChannelStands c (reported n s) (setMetadataDirty (reported n s)) := .of_cc (by simp)
  rw [applyRelease_eq]
  exact ((reported_stands hheld c).trans hdirty).trans (reportRetired_stands c _ _)

theorem applyRelease_takenAdded : TakenAdded s (applyRelease n s) := by
  obtain ⟨hcc, -⟩ := walked_frame n s
  have hwalk : TakenAdded s (walked n s) := .of_posts (by rw [hcc])
  have hreports : TakenAdded (walked n s) (reported n s) := by
    rw [reported_eq hheld]
    split
    · exact relieved_takenAdded _
    · exact recomputeS_takenAdded _
  have hdirty : TakenAdded (reported n s) (setMetadataDirty (reported n s)) := .of_posts (by simp)
  rw [applyRelease_eq]
  exact ((hwalk.trans hreports).trans hdirty).trans (reportRetired_takenAdded _ _)

omit hheld in
/-- The retirements of a release leave the alerts of exposure as its reports have left them. -/
theorem applyRelease_kindKept {k : AlertKind} (h : .segmentRetired ≠ k) : KindKept k (reported n s) (applyRelease n s) := by
  have hdirty : KindKept k (reported n s) (setMetadataDirty (reported n s)) := .of_eq (by simp) (by simp)
  rw [applyRelease_eq]
  exact hdirty.trans (reportRetired_kindKept _ _ h)

/-- With no alert waiter the retirements of a release take no slot (R171). -/
theorem applyRelease_posts (hw : s.cc.alertWaiters = []) : (applyRelease n s).cc.posts = (reported n s).cc.posts := by
  have hnone : (setMetadataDirty (reported n s)).cc.alertWaiters = [] := by
    simpa using (reported_kindKept (k := .segmentRetired) hheld (by decide) (by decide)).1 hw
  rw [applyRelease_eq, reportRetired_cc _ hnone]
  simp

/-- The SEGMENT_RETIRED alerts of a release, with no alert waiter (R102, log entry 34). -/
theorem applyRelease_retiredAlerts (hw : s.cc.alertWaiters = []) {u : State}
    (hu : KindKept .segmentRetired (applyRelease n s) u) : RetiredAlerts (s.retiredBy n) s u := by
  obtain ⟨-, -, -, hclock, -⟩ := walked_frame n s
  have hkept : KindKept .segmentRetired s (reported n s) := reported_kindKept hheld (by decide) (by decide)
  refine retiredAlerts_of_report (t := setMetadataDirty (reported n s)) ?_ (by simpa using hkept.1 hw)
    (hkept.trans (.of_eq (by simp) (by simp))) hu
  simp [(reported_recomputed hheld).clock, hclock]

/-- One retirement answers the oldest alert waiter, where exposure posts nothing before it (R173). -/
theorem applyRelease_answersWaiter {i : SegId} {tag : Tag} {rest : List Tag} (hone : s.retiredBy n = [i])
    (hw : s.cc.alertWaiters = tag :: rest) (hactive : (s.chan 0).state = .active) (hexposed : s.budget.exposed = false)
    (hd : s.dirtyCount ≤ s.budget.b) :
    (applyRelease n s).cc.alertWaiters = rest ∧
      (0, { tag := tag, kindCode := 0x17, status := .ok, deferred := true, alertCode := 4, alertCount := 1,
            seq := (s.seg i).lastSeq.getD 0, stamp := s.clock.reading,
            detail := i.val + (s.seg i).firstSeq.getD 0 * 2 ^ 16 }) ∈ (applyRelease n s).takenBy := by
  obtain ⟨-, -, -, hclock, -⟩ := walked_frame n s
  obtain ⟨hstate, -⟩ := (reported_stands (n := n) hheld 0).2 hactive
  have hwaiters : (setMetadataDirty (reported n s)).cc.alertWaiters = tag :: rest := by
    simpa using (reported_alertWaiters hheld hexposed hd).trans hw
  have hreading : (setMetadataDirty (reported n s)).clock.reading = s.clock.reading := by
    simp [(reported_recomputed hheld).clock, hclock]
  have hstate' : ((setMetadataDirty (reported n s)).chan 0).state = .active := by simpa [State.chan] using hstate
  rw [applyRelease_eq, hone, ← hreading]
  exact retiredAlert_answers i (s.seg i) hwaiters hstate'

end

/-! ### The event of an applied RELEASE (R96) -/

section
variable {c : ChanId} {x : Completion} {n : Nat} {s u : State} (hheld : s.budget.held = [])
  (hu : u = settle true (completeExec c x (applyRelease n s)))
include hheld hu

/-- What the walk leaves of the journal stands at the end of the event. -/
theorem release_log : SameLog (walked n s) u := by
  rw [hu]
  exact ((applyRelease_log hheld).trans (completeExec_contents _ _ _).1).trans (settle_contents _ _).1

theorem release_dirtyCount : u.dirtyCount = (walked n s).dirtyCount := by
  obtain ⟨-, -, -, -, -, -, hsame⟩ := release_log hheld hu
  exact dirtyCount_congr hsame

/-- The request's completion takes its slot after all that the event has brought about (log entry 29). -/
theorem release_taken (hactive : (s.chan c).state = .active) : (∃ more slot, u.taken = s.taken ++ more ++ [(c, slot, x)]) ∧
    u.takenBy = (applyRelease n s).takenBy ++ [(c, x)] ∧ (u.chan c).exec = none := by
  obtain ⟨hstate, -⟩ := (applyRelease_stands (n := n) hheld c).2 hactive
  obtain ⟨more, hmore⟩ := applyRelease_takenAdded (n := n) hheld
  obtain ⟨htaken, hchan, -⟩ := completeExec_completed x hstate
  have hposts : u.cc.posts = (completeExec c x (applyRelease n s)).cc.posts := by rw [hu]; simp
  refine ⟨⟨more, _, by rw [taken_of_posts hposts, htaken, hmore]⟩, ?_, ?_⟩
  · rw [State.takenBy, hposts]
    exact completeExec_takenBy x hstate
  · rw [hu, settle_channels (fun _ => False) true _ c (by simp), hchan]

/-- S, the metadata report and the units that a release leaves alone, at the end of the event. -/
theorem release_units : u.txns = s.txns ∧ u.clock = s.clock ∧ u.monitor = s.monitor ∧
    u.store.storedThrough = u.storedThroughNow ∧
    (u.store.metadataDirty = true ∨ ∃ slot x k, u.store.op = some (.checkpoint slot x k)) := by
  obtain ⟨htxns, hclock, hthrough, hmetadata⟩ := applyRelease_units (n := n) hheld
  refine ⟨by simp [hu, htxns], by simp [hu, hclock], by simp [hu], ?_, ?_⟩
  · rw [storedThroughNow_sameLog (release_log hheld hu), ← hthrough, hu]
    simp
  · rw [hu]
    exact settle_metadata_or true (by simpa using hmetadata)

/-- The exposure state and the answers of a release in the states of the budget unit, with no alert waiter. -/
theorem release_exposure (hactive : (s.chan c).state = .active) (hlive : s.budgetLive = true)
    (hw : s.cc.alertWaiters = []) :
    ExposureFollows (decide (u.dirtyCount < s.dirtyCount)) u.dirtyCount s u ∧ u.budget.b = s.budget.b ∧
      Answers (s.budget.exposed && decide (u.dirtyCount < s.dirtyCount) && decide (u.dirtyCount ≤ s.budget.b))
        [(c, x)] s u := by
  obtain ⟨hcc, hbudget, -, hclock, -, -, hwalked, hwaiting, -⟩ := walked_frame n s
  obtain ⟨hfollows, hanswers⟩ := reported_exposure (n := n) hheld hlive hw
  obtain ⟨-, htaken, -⟩ := release_taken hheld hu hactive
  have hafter : ∀ k, .segmentRetired ≠ k → KindKept k (reported n s) u := fun k hk => by
    rw [hu]
    exact (applyRelease_kindKept hk).trans (.of_eq (by simp) (by simp))
  rw [release_dirtyCount hheld hu]
  refine ⟨hfollows.of_kept ⟨hbudget, hclock, hcc⟩ ⟨?_, ?_⟩ (hafter _ (by decide)) (hafter _ (by decide)), by simp [hu],
    (hanswers.of_eq hwaiting hwalked hcc).with_own ?_ ?_ ?_⟩
  · rw [hu]
    simp [applyRelease_eq]
  · simp [hu, applyRelease_eq]
  · simp [hu, applyRelease_eq]
  · simp [hu, applyRelease_eq]
  · rw [htaken, State.takenBy, applyRelease_posts hheld hw]
    rfl

end

/-- Settles O34: the walk over the covered members, the reports of falls of D and S, the retirements' alerts, and the
request's own completion. -/
theorem releaseApplied : Obligations.ReleaseApplied := by
  intro s c r h hf hn hh hheld htxns
  have hexec : exec (.release c) s = .next (settle true (completeExec c (r.req.completion .ok r.req.seq Stamp.zero
      ((s.coveredMembers r.req.seq).countP (fun i => (s.seg i).state == .full) +
        (s.coveredMembers r.req.seq).countP (fun i => (s.seg i).state == .failed) * 2 ^ 16)) (applyRelease r.req.seq s))) := by
    rw [exec_release h, releaseExecute_applied hf hn hh (openTxnInRange_none htxns)]
    rfl
  refine ⟨_, hexec, ?_⟩
  generalize hu : settle true _ = u
  obtain ⟨hactive, -⟩ := h
  obtain ⟨-, -, -, -, -, -, -, -, hsram, hseq, hhead, hformat⟩ := walked_frame r.req.seq s
  obtain ⟨hsram', hchain', hseq', hhead', hformat', -, hsame⟩ := release_log hheld hu.symm
  obtain ⟨hutxns, hclock, hmonitor, hthrough, hmetadata⟩ := release_units hheld hu.symm
  obtain ⟨htaken, htakenBy, hnone⟩ := release_taken hheld hu.symm hactive
  refine ⟨hhead'.trans hhead, hseq'.trans hseq, hformat'.trans hformat, hsram'.trans hsram, hutxns, fun i => ?_,
    hchain'.trans (walked_chain _ _), hthrough, hmetadata, hnone, hclock, hmonitor, ?_⟩
  · rw [← walked_seg]
    exact hsame i
  · obtain ⟨more, slot, hmore⟩ := htaken
    refine ⟨more, slot, hmore, fun hw => ?_, fun i tag rest hone hw hctrl hexposed hd => ?_, fun hlive hw =>
      release_exposure hheld hu.symm hactive hlive hw⟩
    · exact applyRelease_retiredAlerts hheld hw (.of_eq (by simp [← hu]) (by simp [← hu]))
    · obtain ⟨hrest, hmem⟩ := applyRelease_answersWaiter hheld hone hw hctrl hexposed hd
      refine ⟨by simp [← hu, hrest], ?_⟩
      rw [htakenBy]
      exact List.mem_append_left _ hmem

end Sys2Proof.Machine


namespace Sys2Proof.Machine

/-! ### The retirements of FORMAT and the cleared journal (R105) -/

theorem mem_segsIn {s : State} {st : SegState} {i : SegId} : i ∈ s.segsIn st ↔ (s.seg i).state = st := by
  simp [State.segsIn]

/-- The records after a list of retirements. -/
theorem retireSegments_seg (l : List (SegId × Segment)) (s : State) (i : SegId) :
    (l.foldl (fun s x => retireSegment x.1 s) s).seg i =
      if i ∈ l.map Prod.fst then { Segment.freeForm with state := .retired } else s.seg i := by
  induction l generalizing s with
  | nil => rfl
  | cons x l ih =>
    rw [List.foldl_cons, ih, retireSegment_seg, List.map_cons]
    by_cases hx : i = x.1
    · rw [if_pos hx, ite_self, if_pos (hx ▸ List.mem_cons_self)]
    · rw [if_neg hx]
      exact if_congr (by simp [hx]) rfl rfl

/-- The queue emptied, the idle timer stopped and the FAILED segments retired, before their reports (R105). -/
def retiredSegments (s : State) : State :=
  ((s.segsIn .failed).map fun i => (i, s.seg i)).foldl (fun s x => retireSegment x.1 s)
    { s with store.queue := [], store.idleTimer := none }

theorem retireFailed_eq (s : State) :
    retireFailed s = reportRetired ((s.segsIn .failed).map fun i => (i, s.seg i)) (retiredSegments s) := rfl

theorem retiredSegments_seg (s : State) (i : SegId) : (retiredSegments s).seg i =
    if (s.seg i).state = .failed then { Segment.freeForm with state := .retired } else s.seg i := by
  rw [retiredSegments, retireSegments_seg, List.map_map]
  simp [Function.comp_def, mem_segsIn]
  rfl

theorem retiredSegments_frame (s : State) : (retiredSegments s).cc = s.cc ∧ (retiredSegments s).clock = s.clock ∧
    (retiredSegments s).store.queue = [] ∧ (retiredSegments s).store.idleTimer = none := by
  have h := foldl_keeps (fun s : State => (s.cc, s.clock, s.store.queue, s.store.idleTimer))
    (fun s x => retireSegment x.1 s) (fun s x => by simp) ((s.segsIn .failed).map fun i => (i, s.seg i))
    { s with store.queue := [], store.idleTimer := none }
  simpa only [retiredSegments, Prod.mk.injEq] using h

/-- What FORMAT's reset event makes of a record (R102, R105). -/
def Segment.formatted (g : Segment) : Segment :=
  if g.state = .failed then { Segment.freeForm with state := .retired } else if g.state = .retired then g
  else Segment.freeForm

/-- The journal cleared by the reset event, before the report of its fall of D (R105). -/
def cleared (s : State) : State := setMetadataDirty (clearJournal (retireFailed s))

theorem cleared_seg (s : State) (i : SegId) : (cleared s).seg i = (s.seg i).formatted := by
  have hretired : (retireFailed s).seg i = (retiredSegments s).seg i := by rw [retireFailed_eq]; simp [State.seg]
  have hclear : (cleared s).seg i =
      if ((retireFailed s).seg i).state = .retired then (retireFailed s).seg i else Segment.freeForm :=
    State.getElem_buildSegs _ i
  rw [hclear, hretired, retiredSegments_seg, Segment.formatted]
  by_cases hfailed : (s.seg i).state = .failed <;> simp [hfailed]

theorem cleared_journal (s : State) : (cleared s).journal.format = s.journal.format + 1 ∧
    (cleared s).journal.head = 0 ∧ (cleared s).journal.nextSeq = 1 ∧ (cleared s).journal.formatted = true ∧
    (cleared s).journal.chain = [] ∧ (cleared s).journal.full = false ∧
    (cleared s).journal.sram = s.journal.sram := by
  simp [cleared, clearJournal]

theorem cleared_units (s : State) : (cleared s).txns.nextSerial = 1 ∧ (cleared s).store.storedThrough = 0 ∧
    (cleared s).store.queue = [] ∧ (cleared s).store.idleTimer = none ∧
    (cleared s).clock = { s.clock with transfer := none } ∧ (cleared s).budget = s.budget ∧
    (cleared s).device = s.device ∧ (cleared s).array = s.array ∧ (cleared s).monitor = s.monitor ∧
    (cleared s).store.newest = s.store.newest ∧ (cleared s).cc = (retireFailed s).cc := by
  obtain ⟨-, -, hqueue, htimer⟩ := retiredSegments_frame s
  have hqueue' : (retireFailed s).store.queue = [] := by rw [retireFailed_eq]; simpa using hqueue
  have htimer' : (retireFailed s).store.idleTimer = none := by rw [retireFailed_eq]; simpa using htimer
  simp [cleared, clearJournal, hqueue', htimer']

/-! ### The reset event of FORMAT (R105) -/

/-- A change of pressure queues nothing where no segment is OPEN (R73). -/
theorem recomputePressure_noOpen {s : State} (h : s.openSegment = none) :
    (recomputePressure s).store.queue = s.store.queue := by
  have hopen : State.openSegment { s with budget.pressure := s.pressureLevel } = none := h
  unfold recomputePressure
  by_cases hlive : s.budgetLive = true
  · by_cases hsame : s.pressureLevel = s.budget.pressure
    · simp [hlive, hsame]
    · cases hlevel : s.pressureLevel <;> simp_all [queueOpen]
  · simp [hlive]

theorem openSegment_emptyChain {s : State} (h : s.journal.chain = []) : s.openSegment = none := by
  simp [State.openSegment, h]

/-- The state in which the reset event begins its checkpoint write: the journal cleared and its fall of D reported. -/
def formatReported (s : State) : State := recomputePressure (evalExposure (cleared s))

/-- The reset event begins FORMAT's checkpoint write, a running line store's (R105, R130). -/
def formatWriteBegun (s : State) : State :=
  let s := setStage 0 .formatCheckpoint (startCheckpoint s)
  { s with store.lineStore := if s.store.lineStore = .none then .none else .checkpoint }

theorem resetJournal_eq (s : State) : resetJournal s = formatWriteBegun (onRelief (cleared s)) := by
  unfold resetJournal formatWriteBegun cleared
  rfl

section
variable {s : State}

theorem cleared_live (hw : s.working = true) : (cleared s).budgetLive = true := by
  obtain ⟨-, -, -, -, -, -, hdevice, -⟩ := cleared_units s
  rw [State.budgetLive, hdevice]
  exact budgetLive_of_working hw

theorem exec_formatReset {r : Executing} (h : Executes 0 .format .formatWait r s) (hw : s.working = true)
    (hop : s.store.op = none) (hheld : s.budget.held = []) :
    exec .formatReset s = .next (fetchArbiter (formatWriteBegun (formatReported s))) := by
  obtain ⟨-, hexec, -, hstage⟩ := h
  obtain ⟨-, -, -, -, -, hbudget, -⟩ := cleared_units s
  have hhold : s.formatHold = true := by simp [State.formatHold, hexec, hstage]
  have hrelief : onRelief (cleared s) = formatReported s :=
    onReliefBut_none_held _ (by rw [hbudget]; exact hheld) (cleared_live hw)
  have hbusy : (formatWriteBegun (formatReported s)).store.op ≠ none := by simp [formatWriteBegun, startCheckpoint]
  simp only [exec, execFormatReset]
  rw [if_pos ⟨hw, hhold, hop⟩, resetJournal_eq, hrelief, settle_busy false hbusy]

/-- The report of the fall of D leaves the cleared journal, its store queue and the other units (R66, R68). -/
theorem formatReported_leaves (s : State) : (formatReported s).journal = (cleared s).journal ∧
    (formatReported s).txns = (cleared s).txns ∧ (formatReported s).clock = (cleared s).clock ∧
    (formatReported s).array = (cleared s).array ∧ (formatReported s).monitor = (cleared s).monitor ∧
    (formatReported s).store.storedThrough = (cleared s).store.storedThrough ∧
    (formatReported s).store.queue = (cleared s).store.queue ∧
    (formatReported s).store.idleTimer = (cleared s).store.idleTimer ∧
    (formatReported s).store.newest = (cleared s).store.newest := by
  obtain ⟨-, -, -, -, hchain, -⟩ := cleared_journal s
  have hqueue := recomputePressure_noOpen (s := evalExposure (cleared s)) (openSegment_emptyChain (by simpa using hchain))
  simp [formatReported, hqueue]

theorem formatReported_seg (s : State) (i : SegId) : (formatReported s).seg i = (s.seg i).formatted := by
  obtain ⟨hjournal, -⟩ := formatReported_leaves s
  rw [State.seg, hjournal]
  exact cleared_seg s i

theorem formatted_state (g : Segment) : g.formatted.state ≠ .failed ∧
    (g.formatted.state = .retired ↔ g.state = .failed ∨ g.state = .retired) := by
  unfold Segment.formatted
  split
  · simp [*]
  · split <;> simp [*, Segment.freeForm]

theorem formatted_clean {g : Segment} (h : g.state = .retired → g.dirty = false) : g.formatted.dirty = false := by
  unfold Segment.formatted
  split
  · rfl
  · split
    · next hretired => exact h hretired
    · rfl

theorem mem_checkpoint_failed {t : State} {i : SegId} :
    i ∈ t.backgroundCheckpoint.failed ↔ (t.seg i).state = .failed := by
  simp [State.backgroundCheckpoint, mem_segsIn]

theorem mem_checkpoint_retired {t : State} {i : SegId} :
    i ∈ t.backgroundCheckpoint.retired ↔ (t.seg i).state = .retired := by
  simp [State.backgroundCheckpoint, mem_segsIn]

theorem backgroundCheckpoint_generation (t : State) : t.backgroundCheckpoint.generation = t.nextSlot.2 := rfl

theorem backgroundCheckpoint_emergency (t : State) : t.backgroundCheckpoint.emergency = false := rfl

/-- What FORMAT's checkpoint holds of the segments: the retired set with those retired now, and no failed one (R105). -/
theorem formatCheckpoint_sets (s : State) : (formatReported s).backgroundCheckpoint.failed = [] ∧
    ∀ i, i ∈ (formatReported s).backgroundCheckpoint.retired ↔ (s.seg i).state = .failed ∨ (s.seg i).state = .retired := by
  refine ⟨List.eq_nil_iff_forall_not_mem.mpr fun i hi => ?_, fun i => ?_⟩
  · rw [mem_checkpoint_failed, formatReported_seg] at hi
    exact (formatted_state _).1 hi
  · rw [mem_checkpoint_retired, formatReported_seg]
    exact (formatted_state _).2

/-- What the beginning of FORMAT's checkpoint write leaves (R105). -/
theorem formatWriteBegun_leaves (t : State) : (formatWriteBegun t).journal = t.journal ∧
    (formatWriteBegun t).txns = t.txns ∧ (formatWriteBegun t).clock = t.clock ∧ (formatWriteBegun t).array = t.array ∧
    (formatWriteBegun t).budget = t.budget ∧ (formatWriteBegun t).cc.alerts = t.cc.alerts ∧
    (formatWriteBegun t).cc.alertWaiters = t.cc.alertWaiters ∧
    (formatWriteBegun t).store.storedThrough = t.store.storedThrough ∧
    (formatWriteBegun t).store.queue = t.store.queue ∧ (formatWriteBegun t).store.idleTimer = t.store.idleTimer ∧
    (formatWriteBegun t).store.op = some (.checkpoint t.nextSlot.1 t.backgroundCheckpoint 0) := by
  simp [formatWriteBegun, startCheckpoint]

/-- FORMAT goes on to its checkpoint write. -/
theorem formatWriteBegun_exec {r : Executing} {t : State} (h : (t.chan 0).exec = some r) :
    ((formatWriteBegun t).chan 0).exec = some { r with stage := .formatCheckpoint } := by
  have hchan : (formatWriteBegun t).chan 0 = (setStage 0 .formatCheckpoint (startCheckpoint t)).chan 0 := rfl
  have hsame : (startCheckpoint t).chan 0 = t.chan 0 := rfl
  rw [hchan, setStage, State.chan_modChan_same, hsame, h]
  rfl

/-- The arbiter leaves a channel that executes a request as it is (R157). -/
theorem fetchArbiter_chan_busy {t : State} {c : ChanId} (h : (t.chan c).exec ≠ none) :
    (fetchArbiter t).chan c = t.chan c := by
  rcases fetchArbiter_chan t c with hsame | ⟨heligible, -⟩
  · exact hsame
  · simp only [State.eligible, Bool.and_eq_true, Option.isNone_iff_eq_none] at heligible
    exact absurd heligible.2 h

/-- Channel 0 goes on executing FORMAT while the alerts and waiting records of the reset event are answered. -/
theorem formatReported_stands (s : State) : ChannelStands 0 s (formatReported s) := by
  obtain ⟨hcc, -⟩ := retiredSegments_frame s
  obtain ⟨-, -, -, -, -, -, -, -, -, -, hccCleared⟩ := cleared_units s
  have hretired : ChannelStands 0 s (retiredSegments s) := .of_cc (by rw [hcc])
  have hreported : ChannelStands 0 (retiredSegments s) (retireFailed s) := reportRetired_stands 0 _ _
  have hcleared : ChannelStands 0 (retireFailed s) (cleared s) := .of_cc (by rw [hccCleared])
  have hexposure : ChannelStands 0 (cleared s) (evalExposure (cleared s)) := .evalExposureBut _ _
  exact (((hretired.trans hreported).trans hcleared).trans hexposure).trans (.of_cc (by simp [formatReported]))

end

section
variable {s u : State} (hu : u = fetchArbiter (formatWriteBegun (formatReported s)))
include hu

/-- What the event leaves of the channels' alerts and of exposure is what the evaluation of exposure leaves. -/
theorem formatReset_alerts : u.cc.alerts = (evalExposure (cleared s)).cc.alerts ∧
    u.cc.alertWaiters = (evalExposure (cleared s)).cc.alertWaiters ∧
    u.budget.exposed = (evalExposure (cleared s)).budget.exposed := by
  obtain ⟨-, -, -, -, hbudget, halerts, hwaiters, -⟩ := formatWriteBegun_leaves (formatReported s)
  have hreported : (formatReported s).cc = (evalExposure (cleared s)).cc ∧
      (formatReported s).budget.exposed = (evalExposure (cleared s)).budget.exposed := by simp [formatReported]
  simp [hu, hbudget, halerts, hwaiters, hreported]

/-- The SEGMENT_RETIRED alerts of the reset event, in ascending number, with no alert waiter (R102, log entry 34). -/
theorem formatReset_retiredAlerts (hw : s.cc.alertWaiters = []) : RetiredAlerts (s.segsIn .failed) s u := by
  obtain ⟨hcc, hclock, -⟩ := retiredSegments_frame s
  obtain ⟨-, -, -, -, -, -, -, -, -, -, hccCleared⟩ := cleared_units s
  obtain ⟨halerts, hwaiters, -⟩ := formatReset_alerts hu
  have hcleared : KindKept .segmentRetired (retireFailed s) (cleared s) := .of_eq (by rw [hccCleared]) (by rw [hccCleared])
  have hexposure : KindKept .segmentRetired (cleared s) (evalExposure (cleared s)) :=
    evalExposureBut_kindKept _ _ (by decide) (by decide)
  exact retiredAlerts_of_report (t := retiredSegments s) hclock (by rw [hcc]; exact hw)
    (.of_eq (by rw [hcc]) (by rw [hcc])) ((hcleared.trans hexposure).trans (.of_eq hwaiters halerts))

theorem formatReset_seg (i : SegId) : u.seg i = (s.seg i).formatted := by
  obtain ⟨hjournal, -⟩ := formatWriteBegun_leaves (formatReported s)
  rw [hu, fetchArbiter_seg, State.seg, hjournal]
  exact formatReported_seg s i

/-- The reset event leaves D at 0 and ends an exposure, with its alert (R66, R105, R172). -/
theorem formatReset_exposure (hworking : s.working = true)
    (hclean : ∀ i, (s.seg i).state = .retired → (s.seg i).dirty = false) :
    u.dirtyCount = 0 ∧ u.budget.exposed = false ∧ (s.budget.exposed = true → s.cc.alertWaiters = [] →
      ∃ a ∈ u.cc.alerts, a.kind = .exposureEnded ∧ a.seqValue = 0 ∧ a.detail = s.budget.b * 2 ^ 16) := by
  obtain ⟨hcc, -⟩ := retiredSegments_frame s
  obtain ⟨-, -, -, -, -, hbudget, -, -, -, -, hccCleared⟩ := cleared_units s
  obtain ⟨halerts, -, hexposed⟩ := formatReset_alerts hu
  have hlive := cleared_live hworking
  have hzero : (cleared s).dirtyCount = 0 := dirtyCount_of_clean fun i => by
    rw [cleared_seg]
    exact formatted_clean (hclean i)
  refine ⟨dirtyCount_of_clean fun i => ?_, ?_, fun hx hw => ?_⟩
  · rw [formatReset_seg hu]
    exact formatted_clean (hclean i)
  · rw [hexposed, evalExposureBut_exposed _ hlive, hzero]
    simp
  · have hnone : (cleared s).cc.alertWaiters = [] := by
      rw [hccCleared, retireFailed_eq, reportRetired_cc _ (by rw [hcc]; exact hw), hcc]
      exact hw
    rw [halerts, evalExposure_ends hlive hnone (by rw [hbudget]; exact hx) (by rw [hzero]; exact Nat.zero_le _), hzero,
      hbudget]
    simp only [finishWaiters_frame]
    obtain ⟨a, ha, hkind, hseq, hdetail, -⟩ := foldAlert_mem .exposureEnded 0 (exposureDetail 0 s.budget.b)
      (cleared s).clock.reading (cleared s).cc.alerts
    exact ⟨a, ha, hkind, hseq, hdetail.trans (Nat.zero_add _)⟩

end

/-- Settles O38: the retirements and their alerts, the cleared journal, the report of its fall of D, and the checkpoint write
begun with what these leave. -/
theorem formatResetEffect : Obligations.FormatResetEffect := by
  intro s r h hworking hop hheld
  refine ⟨_, (formatReported s).backgroundCheckpoint, exec_formatReset h hworking hop hheld, ?_⟩
  generalize hu : fetchArbiter (formatWriteBegun (formatReported s)) = u
  obtain ⟨hactive, hexec, -⟩ := h
  obtain ⟨hformat, hhead, hseq, hformatted, hchain, hfull, hsram⟩ := cleared_journal s
  obtain ⟨hserial, hthrough, hqueue, htimer, hclock, -, -, harray, hmonitor, hnewest, -⟩ := cleared_units s
  obtain ⟨rjournal, rtxns, rclock, rarray, rmonitor, rthrough, rqueue, rtimer, rnewest⟩ := formatReported_leaves s
  obtain ⟨wjournal, wtxns, wclock, warray, -, -, -, wthrough, wqueue, wtimer, wop⟩ :=
    formatWriteBegun_leaves (formatReported s)
  obtain ⟨hfailed, hretired⟩ := formatCheckpoint_sets s
  have hslot : (formatReported s).nextSlot = s.nextSlot := nextSlot_congr (rnewest.trans hnewest)
  have hgoes := formatWriteBegun_exec (((formatReported_stands s).2 hactive).2.trans hexec)
  have hseg := formatReset_seg hu.symm
  have hexposure := formatReset_exposure hu.symm hworking
  have hretirements := formatReset_retiredAlerts hu.symm
  have hjournal : u.journal = (cleared s).journal := by simp [← hu, wjournal, rjournal]
  rw [hslot] at wop
  rw [hjournal]
  refine ⟨hformat, hhead, hseq, hformatted, hchain, hfull, ?_, ?_, ?_, ?_, hseg, hsram, ?_, ?_, ?_, ?_, ?_, ?_, ?_, hfailed,
    backgroundCheckpoint_emergency _, ?_, ?_, hretired, ?_, ?_, hretirements, hexposure⟩
  · simp [← hu, wthrough, rthrough, hthrough]
  · simp [← hu, wqueue, rqueue, hqueue]
  · simp [← hu, wtimer, rtimer, htimer]
  · simp [← hu, wtxns, rtxns, hserial]
  · rw [← hu, fetchArbiter_chan_busy (by simp [hgoes]), hgoes]
  · simpa [← hu] using wop
  · rw [backgroundCheckpoint_generation, hslot]
  · simp [State.backgroundCheckpoint, rjournal, hformat]
  · simp [State.backgroundCheckpoint, rjournal, hhead]
  · simp [State.backgroundCheckpoint, rjournal, hseq]
  · simp [State.backgroundCheckpoint, rtxns, hserial]
  · simp [← hu, wclock, rclock, hclock]
  · simp [← hu, warray, rarray, harray]
  · simp [State.backgroundCheckpoint, rclock, hclock]
  · simp [State.backgroundCheckpoint, rmonitor, hmonitor]

end Sys2Proof.Machine

namespace Sys2Proof.Machine

/-! ### SET_CLOCK (R107, R111, R112) -/

/-- (epoch, T) is not below last stamp (R111 test 2, R112 step 1). -/
theorem Clock.regresses_false_iff (k : Clock) (ticks : Nat) :
    k.regresses ticks = false ↔
      ∀ m, k.lastStamp = some m → Stamp.le m { epoch := k.epoch, ticks := ticks } = true := by
  cases h : k.lastStamp <;> simp [Clock.regresses, h]

/-- (epoch, T) is below last stamp. -/
theorem Clock.regresses_of_below {k : Clock} {ticks : Nat} {m : Stamp} (h : k.lastStamp = some m)
    (hm : Stamp.le m { epoch := k.epoch, ticks := ticks } = false) : k.regresses ticks = true := by
  simp [Clock.regresses, h, hm]

section
variable {r : Executing} {s : State}

/-- At epoch 65535 no epoch is left for NEW_EPOCH (R111 test 1). -/
theorem setClockExecute_limit (h : s.clock.transfer = none) (hnew : r.req.newEpochFlag = true)
    (hepoch : s.clock.epoch = 65535) :
    setClockExecute r s = completeExec 0 (r.req.completion .limit 0 s.clock.reading s.clock.detail) s := by
  simp [setClockExecute, h, hnew, hepoch]

/-- Within an epoch the clock is not set below last stamp (R111 test 2). -/
theorem setClockExecute_regress {m : Stamp} (h : s.clock.transfer = none) (hnew : r.req.newEpochFlag = false)
    (hlast : s.clock.lastStamp = some m)
    (hm : Stamp.le m { epoch := s.clock.epoch, ticks := r.req.param 32 6 } = false) :
    setClockExecute r s = completeExec 0 (r.req.completion .clockRegress 0 m s.clock.detail) s := by
  have hbelow := Clock.regresses_of_below hlast hm
  simp [setClockExecute, h, hnew, hbelow, hlast]

/-- The state in which a SET_CLOCK that passed its tests has its transfer pending (R112). -/
def withTransfer (r : Request) (s : State) : State :=
  { s with clock.transfer := some { ticks := r.param 32 6, newEpoch := r.newEpochFlag, tag := r.tag } }

/-- A SET_CLOCK that passes both tests begins its transfer and waits for it (R111, R112). -/
theorem setClockExecute_transfer (h : s.clock.transfer = none)
    (hpass : (r.req.newEpochFlag = true ∧ s.clock.epoch ≠ 65535) ∨
      (r.req.newEpochFlag = false ∧ s.clock.regresses (r.req.param 32 6) = false)) :
    setClockExecute r s = setStage 0 .clockTransfer (withTransfer r.req s) := by
  rcases hpass with ⟨hnew, hepoch⟩ | ⟨hnew, hnot⟩
  · simp [setClockExecute, withTransfer, h, hnew, hepoch]
  · simp [setClockExecute, withTransfer, h, hnew, hnot]

/-- The event of a SET_CLOCK that passes both tests: the request has moved on and the transfer is pending. -/
theorem exec_setClock_transfer (hx : Executes 0 .setClock .handed r s) (h : s.clock.transfer = none)
    (hpass : (r.req.newEpochFlag = true ∧ s.clock.epoch ≠ 65535) ∨
      (r.req.newEpochFlag = false ∧ s.clock.regresses (r.req.param 32 6) = false)) :
    ∃ u, exec .setClock s = .next u ∧ MovedTo 0 { r with stage := .clockTransfer } s u ∧
      SameContents (withTransfer r.req s) u := by
  obtain ⟨-, hexec, hkind, hstage⟩ := hx
  have hevent : exec .setClock s = .next (settle false (setStage 0 .clockTransfer (withTransfer r.req s))) := by
    simp only [exec, execSetClock]
    rw [withExec_eq hexec hkind (by simp [hstage, Stage.isHanded]), setClockExecute_transfer h hpass]
  exact ⟨_, hevent, movedTo_settle false hexec rfl, (setStage_contents 0 _ _).trans (settle_contents false _)⟩

/-! ### The application of a transfer (R112) -/

/-- An ACTIVE channel's request completes at the end of an event that left the channel controller and the other requests'
holdings alone: the completion is one from the state before, and the contents stay as the event left them. -/
theorem completeExec_settle_apart {c : ChanId} {t : State} (x : Completion) (test : Bool)
    (h : (s.chan c).state = .active) (ht : ApartFrom c s t) :
    Completed c x s (settle test (completeExec c x t)) ∧ SameContents t (settle test (completeExec c x t)) := by
  have hc : t.chan c = s.chan c := by simp [State.chan, ht.1]
  exact ⟨(completed_settle x test (by rw [hc]; exact h)).of_apart ht,
    (completeExec_contents c x t).trans (settle_contents test _)⟩

/-- The SET_CLOCK that waits for its transfer completes. -/
theorem completeSetClock_eq (h : Executes 0 .setClock .clockTransfer r s) (status : Status) (stamp : Stamp) {t : State}
    (ht : ApartFrom 0 s t) :
    completeSetClock status stamp t = completeExec 0 (r.req.completion status 0 stamp t.clock.detail) t := by
  obtain ⟨-, hexec, hkind, hstage⟩ := h
  have hc : t.chan 0 = s.chan 0 := by simp [State.chan, ht.1]
  exact withExec_eq (hc ▸ hexec) hkind (by simp [hstage])

theorem SameContents.refl (s : State) : SameContents s s :=
  ⟨⟨rfl, rfl, rfl, rfl, rfl, rfl, SameSegments.of_segs rfl⟩, by simp [SameUnits]⟩

/-- The checkpoint bookkeeping is no part of the journal or of the other units (R91). -/
theorem setMetadataDirty_contents (s : State) : SameContents s (setMetadataDirty s) :=
  ⟨⟨rfl, rfl, rfl, rfl, rfl, rfl, SameSegments.of_segs rfl⟩, by simp [SameUnits]⟩

/-- The state in which a transfer has ended without a load (R112 step 1). -/
def withoutTransfer (s : State) : State := { s with clock.transfer := none }

theorem withoutTransfer_apart (s : State) : ApartFrom 0 s (withoutTransfer s) :=
  ⟨rfl, rfl, rfl, rfl, rfl, rfl, rfl, rfl⟩

/-- The state in which a transfer has been loaded; a change of the epoch is a metadata-dirty event (R91, R112). -/
def withLoaded (t : Transfer) (s : State) : State :=
  if t.newEpoch then setMetadataDirty { s with clock := s.clock.load t } else { s with clock := s.clock.load t }

@[simp] theorem withLoaded_clock (t : Transfer) (s : State) : (withLoaded t s).clock = s.clock.load t := by
  unfold withLoaded
  split <;> simp

theorem withLoaded_apart (t : Transfer) (s : State) : ApartFrom 0 s (withLoaded t s) := by
  unfold withLoaded ApartFrom
  split <;> simp

theorem withLoaded_contents (t : Transfer) (s : State) :
    SameContents { s with clock := s.clock.load t } (withLoaded t s) := by
  unfold withLoaded
  split
  · exact setMetadataDirty_contents _
  · exact SameContents.refl _

theorem withLoaded_metadata {t : Transfer} (h : t.newEpoch = true) (s : State) :
    (withLoaded t s).store.metadataDirty = true := by
  simp [withLoaded, h, setMetadataDirty]

/-- The application of a transfer that fell below last stamp meanwhile (R112 step 1). -/
theorem exec_clockTransferApplication_regress {t : Transfer} {m : Stamp} (ht : s.clock.transfer = some t)
    (hnew : t.newEpoch = false) (hlast : s.clock.lastStamp = some m)
    (hm : Stamp.le m { epoch := s.clock.epoch, ticks := t.ticks } = false) :
    exec .clockTransferApplication s =
      .next (settle false (completeSetClock .clockRegress m (withoutTransfer s))) := by
  have hbelow := Clock.regresses_of_below hlast hm
  simp [exec, execClockTransferApplication, withoutTransfer, ht, hnew, hbelow, hlast]

/-- The application of a transfer that the clock takes (R112 steps 2 and 3). -/
theorem exec_clockTransferApplication_load {t : Transfer} (ht : s.clock.transfer = some t)
    (hpass : t.newEpoch = true ∨ s.clock.regresses t.ticks = false) :
    exec .clockTransferApplication s =
      .next (settle t.newEpoch (completeSetClock .ok (s.clock.load t).reading (withLoaded t s))) := by
  have hnot : ¬((!t.newEpoch) = true ∧ s.clock.regresses t.ticks = true) := by
    rintro ⟨hnew, hbelow⟩
    rcases hpass with h | h <;> simp_all
  rw [← withLoaded_clock t s]
  simp only [exec, execClockTransferApplication, ht, if_neg hnot]
  rfl

end

/-- Settles O45: the acceptance answers or begins the transfer, and the application answers or loads; each completion
takes its slot at the end of an event that has changed the clock alone, and the metadata flag with the epoch. -/
theorem setClockRule : Obligations.SetClockRule := by
  refine ⟨fun s r hx hnone => ⟨fun hnew hepoch => ?_, fun m hnew hlast hm => ?_, fun hpass => ?_⟩,
    fun s r t hx ht => ⟨fun m hnew hlast hm => ?_, fun hpass => ?_⟩⟩
  · exact onlyCompletes_withExec hx (setClockExecute_limit hnone hnew hepoch)
  · exact onlyCompletes_withExec hx (setClockExecute_regress hnone hnew hlast hm)
  · exact exec_setClock_transfer hx hnone
      (hpass.imp_right fun ⟨hnew, hnot⟩ => ⟨hnew, (Clock.regresses_false_iff _ _).mpr hnot⟩)
  · refine ⟨_, exec_clockTransferApplication_regress ht hnew hlast hm, ?_⟩
    rw [completeSetClock_eq hx _ _ (withoutTransfer_apart s)]
    exact completeExec_settle_apart _ _ hx.1 (withoutTransfer_apart s)
  · refine ⟨_, exec_clockTransferApplication_load ht (hpass.imp_right (Clock.regresses_false_iff _ _).mpr), ?_⟩
    rw [completeSetClock_eq hx _ _ (withLoaded_apart t s)]
    obtain ⟨hcompleted, hcontents⟩ := completeExec_settle_apart (r.req.completion .ok 0 (s.clock.load t).reading
      (withLoaded t s).clock.detail) t.newEpoch hx.1 (withLoaded_apart t s)
    refine ⟨(withLoaded_contents t s).trans hcontents, ?_,
      fun hnew => settle_metadata_or _ (by simp [withLoaded_metadata hnew])⟩
    simpa using hcompleted

end Sys2Proof.Machine

namespace Sys2Proof.Machine

/-! ### Ticks, the oscillator and VBAT (R108, R109, R114) -/

section
variable {s : State}

theorem exec_clockTick_counts (h : s.clock.oscRunning = true ∨ s.device = .off) :
    exec .clockTick s = .next { s with clock.ticks := min (s.clock.ticks + 1) (2 ^ 48 - 1) } := by
  simp only [exec, execClockTick, if_pos h]

theorem exec_clockTick_frozen (hstopped : s.clock.oscRunning = false) (hon : s.device ≠ .off) :
    exec .clockTick s = .next s := by
  simp [exec, execClockTick, hstopped, hon]

theorem exec_oscillatorStop_off (h : s.device = .off) :
    exec .oscillatorStop s = .next { s with clock.stopLatch := true } := by
  simp only [exec, execOscillatorStop, if_pos h]

theorem exec_oscillatorStop_declared (hon : s.device ≠ .off) (hrunning : s.clock.oscRunning = true) :
    exec .oscillatorStop s = .next (postAlert .clockStopped 0 1
      { s with clock.oscRunning := false, clock.clockValid := false, clock.stopRecorded := true }) := by
  simp only [exec, execOscillatorStop, if_neg hon, if_pos hrunning]

theorem exec_oscillatorStop_again (hon : s.device ≠ .off) (hstopped : s.clock.oscRunning = false) :
    exec .oscillatorStop s = .next s := by
  simp [exec, execOscillatorStop, hstopped, hon]

theorem exec_oscillatorRestart_on (h : s.device ≠ .off) :
    exec .oscillatorRestart s = .next { s with clock.oscRunning := true } := by
  simp only [exec, execOscillatorRestart, if_neg h]

theorem exec_oscillatorRestart_off (h : s.device = .off) : exec .oscillatorRestart s = .next s := by
  simp only [exec, execOscillatorRestart, if_pos h]

theorem exec_batteryCrossing_on (h : s.device ≠ .off) (good : Bool) :
    exec (.batteryCrossing good) s = .next { s with clock.vbatGood := good, clock.batteryGood := good } := by
  simp only [exec, execBatteryCrossing, if_neg h]

theorem exec_batteryCrossing_rise_off (h : s.device = .off) :
    exec (.batteryCrossing true) s = .next { s with clock.vbatGood := true } := by
  simp only [exec, execBatteryCrossing, if_pos h, if_true]

theorem exec_batteryDomainLoss_off (h : s.device = .off) :
    exec .batteryDomainLoss s = .next (loseBatteryDomain { s with clock.vbatGood := false }) := by
  simp only [exec, execBatteryDomainLoss, if_pos h]

theorem exec_batteryDomainLoss_on (h : s.device ≠ .off) : exec .batteryDomainLoss s = .next s := by
  simp only [exec, execBatteryDomainLoss, if_neg h]

/-- A fall of VBAT in OFF is the loss of the battery domain (log entry 9). -/
theorem exec_batteryCrossing_fall_off (h : s.device = .off) :
    exec (.batteryCrossing false) s = exec .batteryDomainLoss s := by
  rw [exec_batteryDomainLoss_off h]
  simp [exec, execBatteryCrossing, h]

end

/-! ### What leaves the oscillator status, clock-valid and the stop record alone -/

/-- The oscillator status, clock-valid and the stop record are the same. -/
def SameOscillator (s t : State) : Prop :=
  t.clock.oscRunning = s.clock.oscRunning ∧ t.clock.clockValid = s.clock.clockValid ∧
    t.clock.stopRecorded = s.clock.stopRecorded

theorem SameOscillator.of_clock {s t : State} (h : t.clock = s.clock) : SameOscillator s t := by
  simp [SameOscillator, h]

theorem SameOscillator.trans {s t u : State} (a : SameOscillator s t) (b : SameOscillator t u) : SameOscillator s u :=
  ⟨b.1.trans a.1, b.2.1.trans a.2.1, b.2.2.trans a.2.2⟩

/-- The law of a stopped oscillator speaks of these three alone. -/
theorem SameOscillator.stopHolds {s t : State} (e : SameOscillator s t) (h : s.clock.StopHolds) : t.clock.StopHolds :=
  h.of_eq e.1 e.2.1 e.2.2

theorem settle_oscillator (test : Bool) (s : State) : SameOscillator s (settle test s) := .of_clock (by simp)

/-- A request that its owning block takes, and the end of the event. -/
theorem settleWithExec_oscillator {s : State} (test : Bool) (c : ChanId) (k : Kind) (p : Stage → Bool)
    (f : Executing → State → State) (hf : ∀ r, SameOscillator s (f r s)) :
    NextHolds (SameOscillator s) (.next (settle test (withExec c k p f s))) :=
  .next ((Steady.withExec (P := SameOscillator s) (.of_clock rfl) c k p f hf).trans (settle_oscillator test _))

/-- SET_CLOCK at its acceptance touches nothing of the clock but the transfer (R111). -/
theorem setClockExecute_oscillator (r : Executing) (s : State) : SameOscillator s (setClockExecute r s) := by
  simp only [setClockExecute]
  split
  · exact .of_clock rfl
  · split
    · exact .of_clock (by simp)
    · split
      · exact .of_clock (by simp)
      · simp [SameOscillator]

theorem releaseExecute_oscillator (c : ChanId) (r : Executing) (s : State) :
    SameOscillator s (releaseExecute c r s).1 := by
  simp only [releaseExecute]
  (repeat' split) <;> simp [SameOscillator]

theorem execHoldoffExpiry_oscillator (c : ChanId) (s : State) :
    NextHolds (SameOscillator s) (execHoldoffExpiry c s) := by
  refine .next ?_
  split
  · exact .of_clock rfl
  · dsimp only
    split <;> exact .of_clock (by simp)

theorem execStorePassEnd_oscillator (agree : Bool) (s : State) :
    NextHolds (SameOscillator s) (execStorePassEnd agree s) := by
  refine .next ?_
  split
  · dsimp only
    split <;> simp [SameOscillator]
  · exact .of_clock rfl

/-- What follows the end of a checkpoint write leaves the clock alone (R93). -/
theorem afterCheckpoint_oscillator (ok : Bool) (s : State) : SameOscillator s (afterCheckpoint ok s) := by
  simp only [afterCheckpoint]
  (repeat' split) <;> simp [SameOscillator]

theorem execCheckpointWriteEnd_oscillator (verified : Bool) (s : State) :
    NextHolds (SameOscillator s) (execCheckpointWriteEnd verified s) := by
  refine .next ?_
  split
  · next slot x failures _ =>
    have hstored : SameOscillator s (checkpointStored slot x s) := by simp [SameOscillator]
    have hlost : SameOscillator s (checkpointLost slot x s) := by simp [SameOscillator]
    split
    · exact hstored.trans (afterCheckpoint_oscillator true _)
    · split
      · simp [SameOscillator]
      · exact hlost.trans (afterCheckpoint_oscillator false _)
  · exact .of_clock rfl

/-- The loss of the battery domain at the entry to OFF leaves the device side as it was (R108). -/
theorem enterOff_oscillator (s : State) : SameOscillator s (enterOff s) := by
  simp only [enterOff]
  split <;> simp [SameOscillator, loseBatteryDomain]

theorem powerDecision_oscillator (v : Nat) (s : State) : SameOscillator s (powerDecision v s) := by
  simp only [powerDecision]
  split
  · exact (SameOscillator.of_clock (by simp)).trans (enterOff_oscillator (cutOperation s))
  · exact .of_clock rfl

theorem execMeasurement_oscillator (v : Nat) (s : State) : NextHolds (SameOscillator s) (execMeasurement v s) := by
  refine .next ?_
  split
  · exact .of_clock rfl
  · have hmeasured : SameOscillator s (sagWatch v (recomputeBudget (recordMeasurement v s))) := by
      simp [SameOscillator]
    exact (hmeasured.trans (powerDecision_oscillator v _)).trans (settle_oscillator false _)

/-- The entry to EMERGENCY drops a pending transfer and leaves the rest of the clock (R113, R118). -/
theorem enterEmergency_oscillator (s : State) : SameOscillator s (enterEmergency s) := by
  simp [SameOscillator, enterEmergency, emergencyBlocks]

theorem abandonStart_oscillator (s : State) : SameOscillator s (abandonStart s) :=
  (SameOscillator.of_clock (by simp)).trans (enterOff_oscillator
    { cutRecoveryWrite s with recovery.building := none, recovery.scanning := false })

theorem execSupplyFail_oscillator (s : State) : NextHolds (SameOscillator s) (execSupplyFail s) := by
  refine .next ?_
  split
  · exact .of_clock rfl
  · dsimp only
    split
    · exact enterEmergency_oscillator { s with supply.good := false }
    · split
      · exact abandonStart_oscillator { s with supply.good := false }
      · exact .of_clock rfl

/-- The commands that can change the oscillator status, clock-valid or the stop record. -/
def movesOscillator : Instr → Bool
  | .oscillatorStop | .oscillatorRestart | .clockTransferApplication | .supplyReturn _ | .closingMarkWriteEnd _ _
  | .endOfScan => true
  | _ => false

theorem exec_oscillator (s : State) (i : Instr) (hi : movesOscillator i = false) :
    NextHolds (SameOscillator s) (exec i s) := by
  cases i with
  | oscillatorStop | oscillatorRestart | clockTransferApplication | supplyReturn | closingMarkWriteEnd | endOfScan =>
    exact absurd hi (by simp [movesOscillator])
  | append | sealTxn | flush | abort | read | format | recoveryReport | openChannel | closeChannel | configure | query
  | alertWait | payloadReadEnd | readDataWriteEnd | reportWriteEnd | snapshotWriteEnd =>
    refine settleWithExec_oscillator _ _ _ _ _ (fun r => ?_)
    (repeat' split) <;> simp [SameOscillator]
  | setClock => exact settleWithExec_oscillator _ _ _ _ _ (fun r => setClockExecute_oscillator r s)
  | release =>
    refine .next ?_
    split
    · exact .of_clock rfl
    · split
      · exact (releaseExecute_oscillator _ _ s).trans (settle_oscillator _ _)
      · exact .of_clock rfl
  | measurement v => exact execMeasurement_oscillator v s
  | supplyFail => exact execSupplyFail_oscillator s
  | hostReset | enable | notify | retire => exact .next (by simp [SameOscillator])
  | holdoffExpiry c => exact execHoldoffExpiry_oscillator c s
  | storePassEnd agree => exact execStorePassEnd_oscillator agree s
  | checkpointWriteEnd verified => exact execCheckpointWriteEnd_oscillator verified s
  | formatReset =>
    refine .next ?_
    split <;> simp [SameOscillator, resetJournal]
  | registerWrite | fetchEnd | completionRecordWriteEnd | statusBlockWriteEnd | waitListReservation | stagingBufferClaim
  | txnExpiry | readBufferClaim | idleTimerExpiry | pstoreRequest | charged | notCharged | learnStart | learnEnd
  | learnTimeout =>
    refine .next ?_
    (repeat' split) <;> simp [SameOscillator]
  | recallCompletion =>
    refine .next ?_
    split <;> exact .of_clock rfl
  | clockTick | batteryCrossing | batteryDomainLoss =>
    refine .next ?_
    (repeat' split) <;> simp [SameOscillator, loseBatteryDomain]

/-! ### The law of a stopped oscillator (R110, R114, R116, log entry 32) -/

/-- A declared stop clears clock-valid and records itself; in OFF it sets the latch alone. -/
theorem execOscillatorStop_stopHolds {s : State} (h : s.clock.StopHolds) :
    NextHolds (fun t => t.clock.StopHolds) (execOscillatorStop s) := by
  refine .next ?_
  split
  · exact h
  · split
    · simp [Clock.StopHolds]
    · exact h

theorem execOscillatorRestart_stopHolds {s : State} (h : s.clock.StopHolds) :
    NextHolds (fun t => t.clock.StopHolds) (execOscillatorRestart s) := by
  refine .next ?_
  split
  · exact h
  · simp [Clock.StopHolds]

theorem execClockTransferApplication_stopHolds {s : State} (h : s.clock.StopHolds) :
    NextHolds (fun t => t.clock.StopHolds) (execClockTransferApplication s) := by
  refine .next ?_
  split
  · exact h
  · rename_i t _
    split
    · exact SameOscillator.stopHolds (s := s) (by simp [SameOscillator]) h
    · have hloaded : ({ s with clock := s.clock.load t } : State).clock.StopHolds := h.load t
      refine SameOscillator.stopHolds (.of_clock ?_) hloaded
      cases t.newEpoch <;> simp

/-- At entry to RECALL the oscillator counts as RUNNING (R115). -/
theorem enterRecall_stopHolds (s : State) (v : Nat) : (enterRecall v s).clock.StopHolds := by
  have hpowered : (powerOn v s).clock.StopHolds := Clock.atRecall_stopHolds s.clock
  simp only [enterRecall]
  split
  · exact SameOscillator.stopHolds (.of_clock (by simp)) hpowered
  · exact hpowered

theorem execSupplyReturn_stopHolds {s : State} (h : s.clock.StopHolds) (v : Nat) :
    NextHolds (fun t => t.clock.StopHolds) (execSupplyReturn v s) := by
  refine .next ?_
  split
  · exact enterRecall_stopHolds s v
  · split
    · exact h
    · split
      · exact enterRecall_stopHolds s v
      · exact h

theorem endSequence_stopHolds {s : State} (h : s.clock.StopHolds) (v : Nat) :
    (endSequence v s).clock.StopHolds := by
  simp only [endSequence]
  split
  · exact enterRecall_stopHolds _ v
  · exact h

theorem execClosingMarkWriteEnd_stopHolds {s : State} (h : s.clock.StopHolds) (verified : Bool) (v : Nat) :
    NextHolds (fun t => t.clock.StopHolds) (execClosingMarkWriteEnd verified v s) := by
  have hend : ∀ {t : State}, t.clock = s.clock → (endSequence v t).clock.StopHolds :=
    fun e => endSequence_stopHolds (e ▸ h) v
  refine .next ?_
  split
  · split
    · exact hend rfl
    · split
      · exact h
      · exact hend rfl
  · exact h

/-- The end of the scan changes the clock by its decision alone (R116, R142). -/
theorem endScan_clock (s : State) : ∃ m valid, (endScan s).clock = s.clock.decided m valid := by
  have hmarked : ∀ head all, (markDiscarded head all s).clock = s.clock := fun head all =>
    foldl_keeps State.clock _ (fun t x => by simp) _ s
  simp only [endScan, decideAndReport, rebuildJournal, startCheckpoint, setMetadataDirty_frame, hmarked]
  exact ⟨_, _, rfl⟩

theorem execEndOfScan_stopHolds {s : State} (h : s.clock.StopHolds) :
    NextHolds (fun t => t.clock.StopHolds) (execEndOfScan s) := by
  refine .next ?_
  split
  · obtain ⟨m, valid, hclock⟩ := endScan_clock s
    rw [hclock]
    exact h.decided m valid
  · exact h

theorem exec_stopHolds {s : State} (h : s.clock.StopHolds) (i : Instr) :
    NextHolds (fun t => t.clock.StopHolds) (exec i s) := by
  cases i with
  | oscillatorStop => exact execOscillatorStop_stopHolds h
  | oscillatorRestart => exact execOscillatorRestart_stopHolds h
  | clockTransferApplication => exact execClockTransferApplication_stopHolds h
  | supplyReturn v => exact execSupplyReturn_stopHolds h v
  | closingMarkWriteEnd verified v => exact execClosingMarkWriteEnd_stopHolds h verified v
  | endOfScan => exact execEndOfScan_stopHolds h
  | _ => exact fun t ht => (exec_oscillator s _ rfl t ht).stopHolds h

theorem step_stopHolds {s : State} (h : s.clock.StopHolds) : NextHolds (fun t => t.clock.StopHolds) (step s) := by
  unfold step
  split
  · exact .next h
  · next i rest _ => exact exec_stopHolds (s := { s with pending := rest }) h i

/-- Settles O46: each event's own equation, and the law of a stopped oscillator over every step. -/
theorem clockEvents : Obligations.ClockEvents :=
  ⟨fun _ t h hstep => step_stopHolds h t hstep, fun _ =>
    ⟨exec_clockTick_counts, exec_clockTick_frozen, exec_oscillatorStop_off, exec_oscillatorStop_declared,
      exec_oscillatorRestart_on, fun good hon => exec_batteryCrossing_on hon good,
      ⟨_, _, _, _, exec_batteryDomainLoss_off⟩, exec_batteryDomainLoss_on,
      fun hoff => ⟨exec_oscillatorRestart_off hoff, exec_batteryCrossing_rise_off hoff,
        exec_batteryCrossing_fall_off hoff⟩,
      exec_oscillatorStop_again⟩⟩

end Sys2Proof.Machine


namespace Sys2Proof.Machine

/-! ### Entry to RECALL (R115, R132) -/

theorem reset_chan (c : ChanId) : State.reset.chan c = Channel.closed := by
  simp [State.chan, State.reset]

/-- Settles O3: the channel table holds CLOSED records; every other value is read off the state at reset. -/
theorem resetValues : Obligations.ResetValues := by
  refine ⟨rfl, rfl, rfl, rfl, reset_chan, ?_⟩
  simp [State.reset]

/-- With the power-on values no alert waits to be handed over: CLOCK_STOPPED joins the empty alert list (R115, R171). -/
theorem enterRecall_eq (v : Nat) (s : State) : enterRecall v s = { powerOn v s with
    cc.alerts := if s.clock.intact && s.clock.stopLatch then
        [{ kind := .clockStopped, count := 1, seqValue := 0, detail := 2, stamp := s.clock.atRecall.reading }]
      else [] } := by
  simp only [enterRecall]
  split
  · exact postAlert_eq rfl
  · rfl

end Sys2Proof.Machine


namespace Sys2Proof.Machine

/-! ### Whether an operation is in flight (R75)

Outside the store engine nothing begins an operation or ends one: the most that happens to a pass in flight is that it
copies on. -/

@[simp] theorem advanceCopy_opNone (i : SegId) (s : State) :
    (advanceCopy i s).store.op.isNone = s.store.op.isNone := by
  simp only [advanceCopy]
  (repeat' split) <;> simp [*]

@[simp] theorem writeSegment_opNone (i : SegId) (off : Nat) (bytes : List Byte) (s : State) :
    (writeSegment i off bytes s).store.op.isNone = s.store.op.isNone := advanceCopy_opNone i s

@[simp] theorem voidTxn_opNone (t : TxnRecord) (s : State) :
    (voidTxn t s).store.op.isNone = s.store.op.isNone :=
  foldl_keeps (fun s => s.store.op.isNone) markVoid (fun s e => writeSegment_opNone e.1 _ _ s) _ s

@[simp] theorem endTxns_opNone (p : ChanId → Bool) (s : State) :
    (endTxns p s).store.op.isNone = s.store.op.isNone :=
  foldl_keeps (fun s => s.store.op.isNone) (fun s t => voidTxn t s) (fun s t => voidTxn_opNone t s) _ s

@[simp] theorem recordEntry_opNone (i : SegId) (c : ChanId) (r : Request) (h : Header) (payload : List Byte)
    (s : State) : (recordEntry i c r h payload s).store.op.isNone = s.store.op.isNone := by
  simp [recordEntry, placeEntry]

@[simp] theorem commit_opNone (c : ChanId) (r : Request) (s : State) :
    (commit c r s).store.op.isNone = s.store.op.isNone := by
  simp only [commit]
  split <;> simp

@[simp] theorem commitAttempt_opNone (grant : Bool) (c : ChanId) (r : Executing) (s : State) :
    (commitAttempt grant c r s).store.op.isNone = s.store.op.isNone := by
  simp only [commitAttempt]
  (repeat' split) <;> simp

@[simp] theorem grantLoop_opNone (n : Nat) (s : State) :
    (grantLoop n s).store.op.isNone = s.store.op.isNone := by
  induction n generalizing s with
  | zero => rfl
  | succ n ih =>
    simp only [grantLoop]
    (repeat' split) <;> simp [ih]

@[simp] theorem grantRun_opNone (s : State) : (grantRun s).store.op.isNone = s.store.op.isNone := grantLoop_opNone _ s

@[simp] theorem grantAfter_opNone (b : Bool) (s : State) :
    (grantAfter b s).store.op.isNone = s.store.op.isNone := by
  cases b
  · rfl
  · exact grantRun_opNone s

@[simp] theorem onReliefBut_opNone (lost : Waiter → Bool) (s : State) :
    (onReliefBut lost s).store.op.isNone = s.store.op.isNone := by
  simp only [onReliefBut]
  split <;> simp

@[simp] theorem onFreed_opNone (s : State) : (onFreed s).store.op.isNone = s.store.op.isNone := by
  simp only [onFreed]
  split <;> simp

@[simp] theorem faultChannel_opNone (c : ChanId) (reason : FaultReason) (s : State) :
    (faultChannel c reason s).store.op.isNone = s.store.op.isNone := by
  simp only [faultChannel]
  split <;> simp

@[simp] theorem takeReservation_opNone (c : ChanId) (r : Executing) (s : State) :
    (takeReservation c r s).store.op.isNone = s.store.op.isNone := by
  simp only [takeReservation, afterReservation]
  split <;> simp

@[simp] theorem beginDurable_opNone (c : ChanId) (r : Executing) (s : State) :
    (beginDurable c r s).store.op.isNone = s.store.op.isNone := by
  simp only [beginDurable]
  (repeat' split) <;> simp

@[simp] theorem abortExecute_opNone (c : ChanId) (r : Executing) (s : State) :
    (abortExecute c r s).store.op.isNone = s.store.op.isNone := by
  simp only [abortExecute]
  (repeat' split) <;> simp

@[simp] theorem applyRelease_opNone (n : Nat) (s : State) :
    (applyRelease n s).store.op.isNone = s.store.op.isNone := by
  have hwalk : ∀ (l : List SegId) (t : State), (l.foldl releaseMember t).store.op.isNone = t.store.op.isNone :=
    foldl_keeps (fun s => s.store.op.isNone) releaseMember (fun s i => by simp)
  have hrelief : ∀ falls freed t, (reportRelief falls freed t).store.op.isNone = t.store.op.isNone :=
    fun falls freed t => (foldl_keeps (fun s => s.store.op.isNone) _ (fun s _ => onFreed_opNone s) _ _).trans
      (foldl_keeps (fun s => s.store.op.isNone) _ (fun s _ => onReliefBut_opNone _ s) _ t)
  simp [applyRelease, hrelief, hwalk]

@[simp] theorem releaseExecute_opNone (c : ChanId) (r : Executing) (s : State) :
    (releaseExecute c r s).1.store.op.isNone = s.store.op.isNone := by
  simp only [releaseExecute]
  (repeat' split) <;> simp

@[simp] theorem closeExecute_opNone (r : Executing) (s : State) :
    (closeExecute r s).store.op.isNone = s.store.op.isNone := by
  simp only [closeExecute, beginDrain]
  (repeat' split) <;> simp

@[simp] theorem recomputeBudget_opNone (s : State) :
    (recomputeBudget s).store.op.isNone = s.store.op.isNone := by
  simp only [recomputeBudget]
  split <;> simp

@[simp] theorem configureExecute_opNone (r : Executing) (s : State) :
    (configureExecute r s).store.op.isNone = s.store.op.isNone := by
  simp only [configureExecute, applyConfigure]
  (repeat' split) <;> simp

@[simp] theorem expireTxn_opNone (t : TxnRecord) (s : State) :
    (expireTxn t s).store.op.isNone = s.store.op.isNone := voidTxn_opNone t _

@[simp] theorem expireHeld_opNone (c : ChanId) (n : Nat) (s : State) :
    (expireHeld c n s).store.op.isNone = s.store.op.isNone := by
  simp only [expireHeld]
  (repeat' split) <;> simp

/-! ### What leaves OFF as it is (R125, R127, R146) -/

/-- `t` is in OFF only when `s` is, and then the operation and the drive stand as in `s`. -/
def KeepsOff (s t : State) : Prop :=
  t.device = .off →
    s.device = .off ∧ t.store.op.isNone = s.store.op.isNone ∧ t.supply.driveLow = s.supply.driveLow

theorem KeepsOff.of_eq {s t : State} (h : t.device = s.device ∧ t.store.op.isNone = s.store.op.isNone ∧
    t.supply.driveLow = s.supply.driveLow) : KeepsOff s t := fun hoff => ⟨h.1 ▸ hoff, h.2⟩

theorem KeepsOff.refl (s : State) : KeepsOff s s := .of_eq ⟨rfl, rfl, rfl⟩

/-- Out of OFF nothing is asked. -/
theorem KeepsOff.of_on {s t : State} (h : t.device ≠ .off) : KeepsOff s t := fun hoff => absurd hoff h

theorem KeepsOff.trans {s t u : State} (a : KeepsOff s t) (b : KeepsOff t u) : KeepsOff s u := fun hoff => by
  obtain ⟨hoff', hop, hdrive⟩ := b hoff
  obtain ⟨hoff'', hop', hdrive'⟩ := a hoff'
  exact ⟨hoff'', hop.trans hop', hdrive.trans hdrive'⟩

theorem KeepsOff.offIsQuiet {s t : State} (e : KeepsOff s t) (h : s.OffIsQuiet) : t.OffIsQuiet := fun hoff => by
  obtain ⟨hoff', hop, hdrive⟩ := e hoff
  obtain ⟨hnone, hreleased⟩ := h hoff'
  exact ⟨Option.isNone_iff_eq_none.mp (by rw [hop, hnone]; rfl), hdrive.trans hreleased⟩

theorem on_of_working {s : State} (h : s.working = true) : s.device ≠ .off :=
  ((budgetLive_iff s).mp (budgetLive_of_working h)).2.2

/-- In OFF nothing starts at the end of an event. -/
theorem settle_keepsOff (test : Bool) (s : State) : KeepsOff s (settle test s) := by
  cases hw : s.working with
  | true => exact .of_on (by simpa using on_of_working hw)
  | false => rw [settle_idle test hw]; exact .refl s

theorem settleWithExec_keepsOff {s : State} (test : Bool) (c : ChanId) (k : Kind) (p : Stage → Bool)
    (f : Executing → State → State) (hf : ∀ r, KeepsOff s (f r s)) :
    NextHolds (KeepsOff s) (.next (settle test (withExec c k p f s))) :=
  .next ((Steady.withExec (P := KeepsOff s) (.refl s) c k p f hf).trans (settle_keepsOff test _))

theorem hostReset_keepsOff (s : State) : KeepsOff s (hostReset s) := by
  simp only [hostReset]
  split
  · exact .refl s
  · next hon =>
    refine .of_on ?_
    simp only [startNext_frame, heldChanged_frame, dropHostWork]
    split <;> simp [hon]

theorem enableWrite_keepsOff (s : State) : KeepsOff s (enableWrite s) := by
  simp only [enableWrite]
  split
  · exact .refl s
  · next hon =>
    refine .of_on ?_
    (repeat' split) <;> simp [hon, enterRunning]

theorem notifyWrite_keepsOff (c : ChanId) (p : Nat) (s : State) : KeepsOff s (notifyWrite c p s) := by
  by_cases hw : s.working ∧ (s.chan c).live
  · exact .of_on (by simpa using on_of_working hw.1)
  · rw [notifyWrite, if_neg hw]
    exact .refl s

theorem retireWrite_keepsOff (c : ChanId) (r : Nat) (s : State) : KeepsOff s (retireWrite c r s) := by
  by_cases hw : s.working ∧ (s.chan c).live
  · exact .of_on (by simpa using on_of_working hw.1)
  · rw [retireWrite, if_neg hw]
    exact .refl s

theorem windowWrite_keepsOff (off : BitVec 12) (v : BitVec 32) (s : State) : KeepsOff s (windowWrite off v s) := by
  simp only [windowWrite]
  split
  · split
    · exact enableWrite_keepsOff s
    · exact hostReset_keepsOff s
  · split
    · exact .of_eq ⟨rfl, rfl, rfl⟩
    · split
      · exact .of_eq ⟨rfl, rfl, rfl⟩
      · split
        · exact notifyWrite_keepsOff _ _ s
        · split
          · exact retireWrite_keepsOff _ _ s
          · exact .refl s

theorem endStatusWrite_keepsOff (c : ChanId) (w : StatusPurpose) (ok : Bool) (s : State) :
    KeepsOff s (endStatusWrite c w ok s) := by
  have hfault : KeepsOff s (settle false (faultChannel c .statusWrite s)) :=
    (KeepsOff.of_eq (by simp)).trans (settle_keepsOff false _)
  cases w with
  | ignored => exact .refl s
  | becameActive => cases ok with
    | true => exact .refl s
    | false => exact hfault
  | post => cases ok with
    | true => exact .of_eq (by simp [endStatusWrite])
    | false => exact hfault
  | postDetached => cases ok <;> exact .of_eq (by simp [endStatusWrite])

theorem execFetchEnd_keepsOff (result : ReadResult) (s : State) : NextHolds (KeepsOff s) (execFetchEnd result s) := by
  refine .next ?_
  split
  · exact .refl s
  · refine KeepsOff.trans (.of_eq ?_) (settle_keepsOff false _)
    cases result <;> simp

theorem execCompletionRecordWriteEnd_keepsOff (c : ChanId) (ok : Bool) (s : State) :
    NextHolds (KeepsOff s) (execCompletionRecordWriteEnd c ok s) := by
  refine .next ?_
  split
  · exact .refl s
  · split
    · split
      · exact .of_eq (by simp)
      · split
        · exact KeepsOff.trans (.of_eq (by simp)) (settle_keepsOff false _)
        · exact .of_eq (by simp)
    · exact .refl s

theorem execHoldoffExpiry_keepsOff (c : ChanId) (s : State) : NextHolds (KeepsOff s) (execHoldoffExpiry c s) := by
  refine .next ?_
  split
  · exact .refl s
  · dsimp only
    split <;> exact .of_eq (by simp)

/-- A hand-over, and the end of its event. -/
theorem settled_keepsOff {s t : State} (test : Bool) (h : t.device = s.device ∧
    t.store.op.isNone = s.store.op.isNone ∧ t.supply.driveLow = s.supply.driveLow) : KeepsOff s (settle test t) :=
  (KeepsOff.of_eq h).trans (settle_keepsOff test t)

theorem execPstoreRequest_keepsOff (low : Nat) (s : State) : NextHolds (KeepsOff s) (execPstoreRequest low s) := by
  refine .next ?_
  split
  · split
    · next hw => split <;> exact .of_on (by simpa using on_of_working hw)
    · split <;> exact .of_eq ⟨rfl, rfl, rfl⟩
  · exact .refl s

theorem execFormatReset_keepsOff (s : State) : NextHolds (KeepsOff s) (execFormatReset s) := by
  refine .next ?_
  split
  · next hw => exact .of_on (by simpa [resetJournal] using on_of_working hw.1)
  · exact .refl s

theorem releaseExecute_keepsOff (c : ChanId) (r : Executing) (s : State) : KeepsOff s (releaseExecute c r s).1 := by
  refine .of_eq ⟨?_, releaseExecute_opNone c r s, ?_⟩ <;> simp only [releaseExecute] <;> (repeat' split) <;> simp

theorem endScan_device (s : State) : (endScan s).device = s.device := by
  have hmarked : ∀ head all, (markDiscarded head all s).device = s.device := fun head all =>
    foldl_keeps State.device _ (fun t x => by simp) _ s
  simp [endScan, decideAndReport, rebuildJournal, hmarked]

/-- The commands that can enter OFF or end the operation in flight. -/
def touchesPower : Instr → Bool
  | .measurement _ | .supplyFail | .supplyReturn _ | .closingMarkWriteEnd _ _ | .storePassEnd _
  | .checkpointWriteEnd _ => true
  | _ => false

theorem exec_keepsOff (s : State) (i : Instr) (hi : touchesPower i = false) : NextHolds (KeepsOff s) (exec i s) := by
  cases i with
  | measurement | supplyFail | supplyReturn | closingMarkWriteEnd | storePassEnd | checkpointWriteEnd =>
    exact absurd hi (by simp [touchesPower])
  | hostReset => exact .next (hostReset_keepsOff s)
  | enable => exact .next (enableWrite_keepsOff s)
  | notify => exact .next (notifyWrite_keepsOff _ _ s)
  | retire => exact .next (retireWrite_keepsOff _ _ s)
  | registerWrite =>
    refine .next ?_
    split
    · exact windowWrite_keepsOff _ _ s
    · exact .refl s
  | fetchEnd result => exact execFetchEnd_keepsOff result s
  | completionRecordWriteEnd c ok => exact execCompletionRecordWriteEnd_keepsOff c ok s
  | statusBlockWriteEnd c ok =>
    refine .next ?_
    split
    · exact .refl s
    · exact KeepsOff.trans (.of_eq ⟨rfl, rfl, rfl⟩) (endStatusWrite_keepsOff c _ ok _)
  | holdoffExpiry c => exact execHoldoffExpiry_keepsOff c s
  | append | sealTxn | flush | abort | read | format | setClock | recoveryReport | openChannel | closeChannel
  | configure | query | alertWait | readDataWriteEnd | reportWriteEnd | snapshotWriteEnd =>
    exact settleWithExec_keepsOff _ _ _ _ _ (fun r => .of_eq (by simp))
  | payloadReadEnd c result =>
    refine settleWithExec_keepsOff _ _ _ _ _ (fun r => .of_eq ?_)
    cases result <;> simp
  | release =>
    refine .next ?_
    split
    · exact .refl s
    · split
      · exact (releaseExecute_keepsOff _ _ s).trans (settle_keepsOff _ _)
      · exact .refl s
  | waitListReservation | txnExpiry | readBufferClaim | idleTimerExpiry =>
    refine .next ?_
    (repeat' split) <;> first
      | with_reducible exact .refl s
      | exact settled_keepsOff _ (by simp)
  | formatReset => exact execFormatReset_keepsOff s
  | pstoreRequest low => exact execPstoreRequest_keepsOff low s
  | recallCompletion =>
    refine .next ?_
    split
    · exact .of_on (by simp [completeRecall])
    · exact .refl s
  | endOfScan =>
    refine .next ?_
    split
    · next h => exact .of_on (by simp [endScan_device, h.1])
    · exact .refl s
  | clockTransferApplication =>
    refine .next ?_
    split
    · exact .refl s
    · split
      · exact settled_keepsOff _ (by simp)
      · refine settled_keepsOff _ ?_
        split <;> simp
  | stagingBufferClaim | charged | notCharged | learnStart | learnEnd | learnTimeout | clockTick | oscillatorStop
  | oscillatorRestart | batteryCrossing | batteryDomainLoss =>
    refine .next ?_
    (repeat' split) <;> exact .of_eq (by simp)

/-! ### The commands of the power controller and of the array (R117, R125, R126, R146) -/

theorem enterOff_offIsQuiet (s : State) : (enterOff s).OffIsQuiet := by
  obtain ⟨-, hop, hdrive, -⟩ := enterOff_quiet s
  exact fun _ => ⟨hop, hdrive⟩

theorem State.OffIsQuiet.of_on {s : State} (h : s.device ≠ .off) : s.OffIsQuiet := fun hoff => absurd hoff h

theorem execMeasurement_offIsQuiet {s : State} (h : s.OffIsQuiet) (v : Nat) :
    NextHolds State.OffIsQuiet (execMeasurement v s) := by
  refine .next ?_
  split
  · exact h
  · next hon =>
    refine (settle_keepsOff false _).offIsQuiet ?_
    simp only [powerDecision]
    split
    · exact enterOff_offIsQuiet _
    · exact .of_on (by simpa using hon)

theorem execSupplyFail_offIsQuiet {s : State} (h : s.OffIsQuiet) : NextHolds State.OffIsQuiet (execSupplyFail s) := by
  refine .next ?_
  split
  · exact h
  · next hon =>
    dsimp only
    split
    · exact .of_on (by simp [enterEmergency, emergencyBlocks])
    · split
      · exact enterOff_offIsQuiet _
      · exact .of_on fun hoff => hon (Or.inl hoff)

theorem enterRecall_device (v : Nat) (s : State) : (enterRecall v s).device = .recall := by
  rw [enterRecall_eq]
  rfl

theorem execSupplyReturn_offIsQuiet {s : State} (v : Nat) : NextHolds State.OffIsQuiet (execSupplyReturn v s) := by
  have hrecall : (enterRecall v s).OffIsQuiet := .of_on (by simp [enterRecall_device])
  refine .next ?_
  split
  · exact hrecall
  · next hon =>
    split
    · exact .of_on hon
    · split
      · exact hrecall
      · exact .of_on hon

theorem endSequence_offIsQuiet (v : Nat) (s : State) : (endSequence v s).OffIsQuiet := by
  simp only [endSequence]
  split
  · exact .of_on (by simp [enterRecall_device])
  · exact .of_on (by simp)

/-- The end of an operation cannot be met in OFF, where none is in flight; elsewhere it does not enter OFF. -/
theorem offIsQuiet_of_operation {s t : State} {x : Operation} (h : s.OffIsQuiet) (hop : s.store.op = some x)
    (ht : s.device ≠ .off → t.device ≠ .off) : t.OffIsQuiet :=
  .of_on (ht fun hoff => by simpa [hop] using (h hoff).1)

theorem execClosingMarkWriteEnd_offIsQuiet {s : State} (h : s.OffIsQuiet) (verified : Bool) (v : Nat) :
    NextHolds State.OffIsQuiet (execClosingMarkWriteEnd verified v s) := by
  refine .next ?_
  split
  · next hop =>
    split
    · exact endSequence_offIsQuiet v _
    · split
      · exact offIsQuiet_of_operation h hop id
      · exact endSequence_offIsQuiet v _
  · exact h

theorem execStorePassEnd_offIsQuiet {s : State} (h : s.OffIsQuiet) (agree : Bool) :
    NextHolds State.OffIsQuiet (execStorePassEnd agree s) := by
  refine .next ?_
  split
  · next hop =>
    refine offIsQuiet_of_operation h hop fun hon => ?_
    dsimp only
    split <;> simpa using hon
  · exact h

/-- What follows the end of a checkpoint write keeps the device state, or leaves RECOVER for READY or RUNNING (R134). -/
theorem afterCheckpoint_on {ok : Bool} {s : State} (hon : s.device ≠ .off) : (afterCheckpoint ok s).device ≠ .off := by
  simp only [afterCheckpoint]
  split
  · simpa using hon
  · split
    · simp only [settle_frame, endRecover, leaveRecover]
      (repeat' split) <;> simp [enterRunning]
    · simpa using hon

theorem execCheckpointWriteEnd_offIsQuiet {s : State} (h : s.OffIsQuiet) (verified : Bool) :
    NextHolds State.OffIsQuiet (execCheckpointWriteEnd verified s) := by
  refine .next ?_
  split
  · next hop =>
    refine offIsQuiet_of_operation h hop fun hon => ?_
    split
    · exact afterCheckpoint_on (by simpa using hon)
    · split
      · simpa using hon
      · exact afterCheckpoint_on (by simpa using hon)
  · exact h

theorem exec_offIsQuiet {s : State} (h : s.OffIsQuiet) (i : Instr) : NextHolds State.OffIsQuiet (exec i s) := by
  cases i with
  | measurement v => exact execMeasurement_offIsQuiet h v
  | supplyFail => exact execSupplyFail_offIsQuiet h
  | supplyReturn v => exact execSupplyReturn_offIsQuiet v
  | closingMarkWriteEnd verified v => exact execClosingMarkWriteEnd_offIsQuiet h verified v
  | storePassEnd agree => exact execStorePassEnd_offIsQuiet h agree
  | checkpointWriteEnd verified => exact execCheckpointWriteEnd_offIsQuiet h verified
  | _ => exact fun t ht => (exec_keepsOff s _ rfl t ht).offIsQuiet h

/-- Settles O8: OFF is entered with the operation and the drive ended, no command begins one there, and the end of an
operation cannot be met there. -/
theorem stepKeepsOffQuiet : Obligations.StepKeepsOffQuiet := by
  intro s t h hstep
  unfold step at hstep
  split at hstep
  · exact Host.Outcome.next.inj hstep ▸ h
  · next i rest _ => exact exec_offIsQuiet (s := { s with pending := rest }) h i t hstep

end Sys2Proof.Machine


namespace Sys2Proof.Machine

/-! ### The closing mark's write (R124, R126) -/

section
variable {m : ClosingMark} {k v : Nat} {s : State}

theorem exec_closingMark_verified (hop : s.store.op = some (.closingMark m k)) :
    exec (.closingMarkWriteEnd true v) s = .next (endSequence v { s with array.closing := some m }) := by
  simp only [exec, execClosingMarkWriteEnd, hop, if_true]

theorem exec_closingMark_retried (hop : s.store.op = some (.closingMark m k)) (hk : k < 2) :
    exec (.closingMarkWriteEnd false v) s =
      .next { s with array.closing := none, store.op := some (.closingMark m (k + 1)) } := by
  simp only [exec, execClosingMarkWriteEnd, hop, Bool.false_eq_true, if_false, if_pos hk]

theorem exec_closingMark_given_up (hop : s.store.op = some (.closingMark m k)) (hk : 2 ≤ k) :
    exec (.closingMarkWriteEnd false v) s = .next (endSequence v { s with array.closing := none }) := by
  simp only [exec, execClosingMarkWriteEnd, hop, Bool.false_eq_true, if_false, if_neg (Nat.not_lt.mpr hk)]

/-- With the supply still FAILED the device stays in HALTED (R118, R126). -/
theorem endSequence_failed (h : s.supply.good = false) : endSequence v s =
    { s with store.op := none, store.phase := .ended, device := .halted, supply.driveLow := false } :=
  if_neg (by simp [h])

/-- With a supply that has returned the device goes on to RECALL at the same event (R126). -/
theorem endSequence_good (h : s.supply.good = true) : endSequence v s = enterRecall v
    { s with store.op := none, store.phase := .ended, device := .halted, supply.driveLow := false } :=
  if_pos h

end

/-- Settles O57: a verified mark and one given up end the sequence, and the supply state decides what follows. -/
theorem closingMarkRule : Obligations.ClosingMarkRule := by
  intro s m k v hop
  refine ⟨fun hfailed => ⟨_, exec_closingMark_verified hop, ?_⟩, fun hgood => ⟨_, exec_closingMark_verified hop, ?_⟩,
    exec_closingMark_retried hop, fun hk hfailed => ⟨_, exec_closingMark_given_up hop hk, ?_⟩⟩
  · rw [endSequence_failed (s := { s with array.closing := some m }) hfailed]
    exact ⟨rfl, rfl, rfl, rfl, rfl, .of_journal rfl⟩
  · rw [endSequence_good (s := { s with array.closing := some m }) hgood, enterRecall_eq]
    exact ⟨rfl, rfl, rfl⟩
  · rw [endSequence_failed (s := { s with array.closing := none }) hfailed]
    exact ⟨rfl, rfl, rfl, rfl⟩

/-! ### The supply's crossings (R117, R118, R126, R146) -/

section
variable {v : Nat} {s : State}

theorem exec_supplyFail_idle (h : s.device = .off ∨ s.supply.good = false) : exec .supplyFail s = .next s := by
  simp only [exec, execSupplyFail]
  rw [if_pos (by simpa using h)]

theorem exec_supplyFail_working (hw : s.working = true) (hgood : s.supply.good = true) :
    exec .supplyFail s = .next (enterEmergency { s with supply.good := false }) := by
  have hacts : ¬ (s.device = .off ∨ (!s.supply.good) = true) := by simp [on_of_working hw, hgood]
  have hw' : ({ s with supply.good := false } : State).working = true := hw
  simp only [exec, execSupplyFail, if_neg hacts, if_pos hw']

theorem exec_supplyFail_starting (hd : s.device = .recall ∨ s.device = .recover) (hgood : s.supply.good = true) :
    exec .supplyFail s = .next (abandonStart { s with supply.good := false }) := by
  have hacts : ¬ (s.device = .off ∨ (!s.supply.good) = true) := by rcases hd with h | h <;> simp [h, hgood]
  have hidle : ({ s with supply.good := false } : State).working ≠ true := by
    rcases hd with h | h <;> simp [State.working, h]
  simp only [exec, execSupplyFail, if_neg hacts, if_neg hidle]
  rw [if_pos hd]

theorem exec_supplyFail_dead (hd : s.device = .emergency ∨ s.device = .halted) (hgood : s.supply.good = true) :
    exec .supplyFail s = .next { s with supply.good := false } := by
  have hacts : ¬ (s.device = .off ∨ (!s.supply.good) = true) := by rcases hd with h | h <;> simp [h, hgood]
  have hidle : ({ s with supply.good := false } : State).working ≠ true := by
    rcases hd with h | h <;> simp [State.working, h]
  have hstarted : ¬ (s.device = .recall ∨ s.device = .recover) := by rcases hd with h | h <;> simp [h]
  simp only [exec, execSupplyFail, if_neg hacts, if_neg hidle]
  rw [if_neg hstarted]

theorem exec_supplyReturn_enters (h : s.device = .off ∨ (s.device = .halted ∧ s.supply.good = false)) :
    exec (.supplyReturn v) s = .next (enterRecall v s) := by
  rcases h with hoff | ⟨hhalted, hfailed⟩
  · simp [exec, execSupplyReturn, hoff]
  · simp [exec, execSupplyReturn, hhalted, hfailed]

theorem exec_supplyReturn_emergency (hd : s.device = .emergency) (hfailed : s.supply.good = false) :
    exec (.supplyReturn v) s = .next { s with supply.good := true } := by
  simp [exec, execSupplyReturn, hd, hfailed]

theorem exec_supplyReturn_good (hon : s.device ≠ .off) (hgood : s.supply.good = true) :
    exec (.supplyReturn v) s = .next s := by
  simp [exec, execSupplyReturn, hon, hgood]

/-- A recovery checkpoint write cut short: its slot is invalid, or, with no failed verify, as it was (R146, log
entry 8). -/
theorem cutRecoveryWrite_slots (s : State) :
    (∀ slot x k, s.store.op = some (.checkpoint slot x k) →
      ((cutRecoveryWrite s).slotOf slot = none ∨ k = 0 ∧ (cutRecoveryWrite s).slotOf slot = s.slotOf slot) ∧
      ∀ other, other ≠ slot → (cutRecoveryWrite s).slotOf other = s.slotOf other) ∧
    ((∀ slot x k, s.store.op ≠ some (.checkpoint slot x k)) →
      ∀ slot, (cutRecoveryWrite s).slotOf slot = s.slotOf slot) := by
  refine ⟨fun slot x k hop => ?_, fun hnone slot => ?_⟩
  · simp only [cutRecoveryWrite, hop, cutCheckpointWrite]
    split
    · next hsurvives => exact ⟨Or.inr ⟨hsurvives.1, slotOf_of_array rfl slot⟩, fun _ _ => slotOf_of_array rfl _⟩
    · obtain ⟨hslot, hothers, -⟩ := setSlot_slotOf slot none { s with free := s.free + 1 }
      exact ⟨Or.inl hslot, fun other hne => (hothers other hne).trans (slotOf_of_array rfl other)⟩
  · rw [cutRecoveryWrite]
    split
    · next slot x k hop => exact absurd hop (hnone slot x k)
    · rfl

/-- The start that is abandoned ends in OFF with the array as the cut leaves it, and with its report (R146). -/
theorem abandonStart_leaves (s : State) :
    (abandonStart s).device = .off ∧ (abandonStart s).store.op = none ∧ (abandonStart s).supply.driveLow = false ∧
      (abandonStart s).array = (cutRecoveryWrite s).array ∧ (abandonStart s).recovery.report = s.recovery.report := by
  obtain ⟨hdevice, hop, hdrive, harray, -⟩ :=
    enterOff_quiet { cutRecoveryWrite s with recovery.building := none, recovery.scanning := false }
  exact ⟨hdevice, hop, hdrive, harray, by simp [abandonStart]⟩

/-- The clock at entry to RECALL: an intact battery domain keeps its counter, a lost one counts as zero (R115). -/
theorem atRecall_values (k : Clock) :
    k.atRecall.intact = true ∧ k.atRecall.clockValid = false ∧ k.atRecall.lastStamp = none ∧
      (k.intact = true → k.atRecall.ticks = k.ticks ∧ k.atRecall.epoch = k.epoch) ∧
      (k.intact = false → k.atRecall.ticks = 0 ∧ k.atRecall.epoch = 0 ∧ k.atRecall.validMarker = false) := by
  refine ⟨rfl, rfl, rfl, fun h => ?_, fun h => ?_⟩ <;> simp [Clock.atRecall, h]

end

/-- Settles O56: a fall by the device states that it meets, and a rise by whether the part enters RECALL. -/
theorem supplyCrossings : Obligations.SupplyCrossings := by
  refine fun s v => ⟨fun hd hgood => ⟨_, exec_supplyFail_starting hd hgood, ?_⟩, exec_supplyFail_dead,
    exec_supplyFail_idle, fun h => ⟨_, exec_supplyReturn_enters h, ?_⟩, exec_supplyReturn_emergency,
    exec_supplyReturn_good⟩
  · obtain ⟨hdevice, hop, hdrive, harray, hreport⟩ := abandonStart_leaves { s with supply.good := false }
    obtain ⟨hcut, hkept⟩ := cutRecoveryWrite_slots { s with supply.good := false }
    simp only [slotOf_of_array harray]
    exact ⟨hdevice, hop, hdrive, by simp [harray], hreport, by simp [harray], hcut, hkept⟩
  · obtain ⟨hintact, hvalid, hstamp, hheld, hlost⟩ := atRecall_values s.clock
    rw [enterRecall_eq]
    refine ⟨rfl, rfl, rfl, rfl, rfl, rfl, hintact, hvalid, hstamp, hheld, hlost, fun hi hl => ?_, reset_chan, rfl⟩
    simp [hi, hl]

end Sys2Proof.Machine


namespace Sys2Proof.Machine

/-! ### Entry to EMERGENCY (R118 to R122) -/

/-- The state of every block at the entry, before the store engine's sequence begins (R118, R119). -/
def emergencyState (s : State) : State := emergencyBlocks (abandonTransfers s)

theorem enterEmergency_eq (s : State) : enterEmergency s = beginSequence (queueOpen (emergencyState s)) := rfl

/-- The sequence that begins touches the store engine alone, and there the queue only for the OPEN segment (R121). -/
theorem enterEmergency_leaves (s : State) :
    (enterEmergency s).device = (emergencyState s).device ∧ (enterEmergency s).supply = (emergencyState s).supply ∧
      (enterEmergency s).cc = (emergencyState s).cc ∧ (enterEmergency s).staging = (emergencyState s).staging ∧
      (enterEmergency s).journal = (emergencyState s).journal ∧
      (enterEmergency s).budget = (emergencyState s).budget ∧
      (enterEmergency s).monitor = (emergencyState s).monitor ∧
      (enterEmergency s).clock = (emergencyState s).clock ∧ (enterEmergency s).txns = (emergencyState s).txns ∧
      (enterEmergency s).array = (emergencyState s).array ∧ (enterEmergency s).out = (emergencyState s).out := by
  simp [enterEmergency_eq]

/-- What the beginning sequence leaves of the store engine (R121). -/
theorem beginSequence_store (t : State) :
    (beginSequence t).store.queue = t.store.queue ∧ (beginSequence t).store.waiting = t.store.waiting ∧
      (beginSequence t).store.reservationWaiters = t.store.reservationWaiters ∧
      (beginSequence t).store.idleTimer = t.store.idleTimer ∧
      (beginSequence t).store.lineStore = t.store.lineStore ∧ (beginSequence t).store.handedD = t.store.handedD ∧
      (beginSequence t).store.handedExposed = t.store.handedExposed := by
  simp only [beginSequence]
  split <;> simp

/-- The store engine at the entry: nothing waits, no timer and no line store run, D and exposure are handed over. -/
theorem enterEmergency_store (s : State) :
    (enterEmergency s).store.waiting = [] ∧ (enterEmergency s).store.reservationWaiters = [] ∧
      (enterEmergency s).store.idleTimer = none ∧ (enterEmergency s).store.lineStore = .none ∧
      (enterEmergency s).store.handedD = s.dirtyCount ∧ (enterEmergency s).store.handedExposed = s.budget.exposed := by
  obtain ⟨-, hwaiting, hreserve, htimer, hline, hD, hexposed⟩ := beginSequence_store (queueOpen (emergencyState s))
  simp only [queueOpen_frame] at hwaiting hreserve htimer hline hD hexposed
  exact ⟨hwaiting, hreserve, htimer, hline, hD, hexposed⟩

/-- The OPEN segment joins the queue's tail when it is dirty and not in store, and not queued already (R71). -/
theorem queueOpen_tail (t : State) :
    (∀ i, t.openSegment = some i → (t.seg i).dirty = true → (t.seg i).inStore = false →
      (queueOpen t).store.queue = t.store.queue ++ (if i ∈ t.store.queue then [] else [i])) ∧
    ((∀ i, t.openSegment = some i → (t.seg i).dirty = false ∨ (t.seg i).inStore = true) →
      (queueOpen t).store.queue = t.store.queue) := by
  refine ⟨fun i hi hdirty hin => ?_, fun hnot => ?_⟩
  · have hopen := (openSegment_spec hi).2
    by_cases hmem : i ∈ t.store.queue <;> simp [queueOpen, hi, queueSeg, hopen, hdirty, hin, hmem]
  · cases hi : t.openSegment with
    | none => simp [queueOpen, hi]
    | some i => rcases hnot i hi with h | h <;> simp [queueOpen, hi, queueSeg, h]

theorem enterEmergency_queue (s : State) :
    (∀ i, s.openSegment = some i → (s.seg i).dirty = true → (s.seg i).inStore = false →
      (enterEmergency s).store.queue = s.store.queue ++ (if i ∈ s.store.queue then [] else [i])) ∧
    ((∀ i, s.openSegment = some i → (s.seg i).dirty = false ∨ (s.seg i).inStore = true) →
      (enterEmergency s).store.queue = s.store.queue) := by
  obtain ⟨hqueue, -⟩ := beginSequence_store (queueOpen (emergencyState s))
  rw [enterEmergency_eq, hqueue]
  exact queueOpen_tail (emergencyState s)

/-- An operation found in flight is finished first (R121). -/
theorem enterEmergency_busy {s : State} (h : s.store.op ≠ none) :
    (enterEmergency s).store.phase = .finishing ∧ (enterEmergency s).store.op = s.store.op := by
  have hop : (queueOpen (emergencyState s)).store.op = s.store.op := by
    rw [show (queueOpen (emergencyState s)).store.op = (emergencyState s).store.op by simp]
    rfl
  have hbusy : (queueOpen (emergencyState s)).store.op.isSome = true := by
    rw [hop]
    exact Option.isSome_iff_ne_none.mpr h
  rw [enterEmergency_eq, beginSequence, if_pos hbusy]
  exact ⟨rfl, hop⟩

/-- With none in flight the emergency checkpoint begins, with the values at the entry (R122). -/
theorem enterEmergency_idle {s : State} (h : s.store.op = none) :
    (enterEmergency s).store.phase = .checkpoint ∧
      ∃ x, (enterEmergency s).store.op = some (.checkpoint s.nextSlot.1 x 0) ∧ x.generation = s.nextSlot.2 ∧
        x.emergency = true ∧ x.head = s.journal.head ∧ x.nextSeq = s.journal.nextSeq ∧
        x.dirtyAtEmergency = s.dirtyCount ∧ x.exposedAtEmergency = s.budget.exposed := by
  obtain ⟨hop, hnewest, hhead, hseq, hD, hexposed⟩ :
      (queueOpen (emergencyState s)).store.op = (emergencyState s).store.op ∧
      (queueOpen (emergencyState s)).store.newest = (emergencyState s).store.newest ∧
      (queueOpen (emergencyState s)).journal.head = (emergencyState s).journal.head ∧
      (queueOpen (emergencyState s)).journal.nextSeq = (emergencyState s).journal.nextSeq ∧
      (queueOpen (emergencyState s)).store.handedD = (emergencyState s).store.handedD ∧
      (queueOpen (emergencyState s)).store.handedExposed = (emergencyState s).store.handedExposed := by simp
  have hslot : (queueOpen (emergencyState s)).nextSlot = s.nextSlot := nextSlot_congr hnewest
  have hidle : ¬ (queueOpen (emergencyState s)).store.op.isSome = true := by
    rw [hop, show (emergencyState s).store.op = none from h]
    simp
  rw [enterEmergency_eq, beginSequence, if_neg hidle, ← hslot]
  exact ⟨rfl, _, rfl, rfl, rfl, hhead, hseq, hD, hexposed⟩

/-- Settles O54: what every block takes at the entry, the OPEN segment that joins the queue, the transfers that stop,
and the first operation of the sequence. -/
theorem emergencyEntry : Obligations.EmergencyEntry := by
  intro s hw hgood
  refine ⟨_, exec_supplyFail_working hw hgood, ?_⟩
  obtain ⟨hdevice, hsupply, hcc, hstaging, hjournal, hbudget, hmonitor, hclock, htxns, harray, hout⟩ :=
    enterEmergency_leaves { s with supply.good := false }
  obtain ⟨hwaiting, hreserve, htimer, hline, hD, hexposed⟩ := enterEmergency_store { s with supply.good := false }
  obtain ⟨hqueued, hunqueued⟩ := enterEmergency_queue { s with supply.good := false }
  have hchan : ∀ c, (emergencyState { s with supply.good := false }).chan c = Channel.closed :=
    fun c => by simp [State.chan, emergencyState, emergencyBlocks]
  have hlog : SameLog s (enterEmergency { s with supply.good := false }) := by
    refine ⟨?_, ?_, ?_, ?_, ?_, ?_, SameSegments.of_segs ?_⟩ <;> rw [hjournal] <;> rfl
  simp only [hdevice, hsupply, hcc, hstaging, hjournal, hbudget, hmonitor, hclock, htxns, harray, hout,
    State.chan] at hchan ⊢
  exact ⟨rfl, rfl, rfl, rfl, hchan, rfl, rfl, rfl, rfl, rfl, rfl, rfl, rfl, rfl, rfl, hqueued, hunqueued, rfl, hwaiting,
    hreserve, htimer, hline, hD, hexposed, rfl, rfl, rfl, rfl, hlog, rfl, ⟨_, rfl⟩, writeCuts_addresses s,
    writeCuts_le s, enterEmergency_busy (s := { s with supply.good := false }),
    enterEmergency_idle (s := { s with supply.good := false })⟩

end Sys2Proof.Machine


namespace Sys2Proof.Machine

/-! ### What the sequence does next (R121 to R124) -/

/-- The contents of the emergency checkpoint (R122). -/
def State.emergencyCheckpoint (s : State) : Checkpoint :=
  { s.backgroundCheckpoint with
    emergency := true, dirtyAtEmergency := s.store.handedD, exposedAtEmergency := s.store.handedExposed }

/-- The emergency checkpoint begins with the values as they stand (R122). -/
theorem startEmergencyCheckpoint_begun (s : State) : EmergencyCheckpointBegun (startEmergencyCheckpoint s) := by
  refine ⟨rfl, s.emergencyCheckpoint, rfl, rfl, rfl, rfl, rfl, rfl, rfl, rfl, rfl, rfl, rfl, fun i => ?_⟩
  have hseg : (startEmergencyCheckpoint s).seg i = s.seg i := by simp [State.seg]
  rw [hseg]
  simp only [State.emergencyCheckpoint]
  exact ⟨mem_checkpoint_failed, mem_checkpoint_retired⟩

/-- The search of the chain round does not see a job that has begun (R123). -/
theorem find_dirty_congr {s u : State} (hchain : u.journal.chain = s.journal.chain) (h : SameSegments s u) :
    u.journal.chain.find? (fun j => (u.seg j).dirty && (u.seg j).state != .failed) =
      s.journal.chain.find? (fun j => (s.seg j).dirty && (s.seg j).state != .failed) := by
  rw [hchain]
  congr 1
  funext j
  obtain ⟨hstate, -, -, -, hunstored⟩ := h j
  simp only [Segment.dirty, hstate, hunstored]

/-- The next operation of the SEGMENTS phase: the queue's head, the chain's first dirty segment, the closing mark. -/
theorem nextEmergencySegment_goesOn {s : State} (hphase : s.store.phase = .segments) :
    SequenceGoesOn s.store.queue (nextEmergencySegment s) := by
  cases hq : s.store.queue with
  | cons i rest =>
    obtain ⟨hstore, hseg, -⟩ := startJobOn_starts i { s with store.queue := rest }
    have hnext : nextEmergencySegment s = startJobOn i { s with store.queue := rest } := by
      simp only [nextEmergencySegment, hq]
    rw [hnext]
    refine ⟨fun j l h => ?_, fun h => absurd h (by simp)⟩
    obtain ⟨rfl, rfl⟩ := List.cons.inj h
    rw [hstore, hseg]
    exact ⟨hphase, rfl, rfl, rfl, rfl, rfl⟩
  | nil =>
    refine ⟨fun j l h => absurd h (by simp), fun _ => ?_⟩
    rw [find_dirty_congr (s := s) (by simp) (nextEmergencySegment_segments s)]
    cases hfind : s.journal.chain.find? (fun j => (s.seg j).dirty && (s.seg j).state != .failed) with
    | some i =>
      obtain ⟨hstore, hseg, -⟩ := startJobOn_starts i s
      have hnext : nextEmergencySegment s = startJobOn i s := by simp only [nextEmergencySegment, hq, hfind]
      rw [hnext]
      refine ⟨by rw [hstore]; exact hq, fun j h => ?_, fun hnone => ?_⟩
      · obtain rfl := Option.some.inj h
        rw [hstore, hseg]
        exact ⟨hphase, rfl, rfl, rfl, rfl⟩
      · obtain ⟨hstate, -, -, -, hunstored⟩ := startJobOn_segments i s i
        have hgood := List.find?_some hfind
        have hbad := hnone i (by simpa using List.mem_of_find?_eq_some hfind)
        simp only [Segment.dirty, hstate, hunstored] at hgood hbad
        simp at hgood
        rcases hbad with h | h
        · simp [h] at hgood
        · exact absurd h hgood.2
    | none =>
      have hnext : nextEmergencySegment s =
          { s with store.phase := .closing, store.op := some (.closingMark s.closingMark 0) } := by
        simp only [nextEmergencySegment, hq, hfind]
      rw [hnext]
      exact ⟨hq, fun j h => absurd h (by simp), fun _ => ⟨rfl, rfl⟩⟩

section
variable {s : State}

theorem emergencyAdvance_finishing (h : s.store.phase = .finishing) :
    EmergencyCheckpointBegun (emergencyAdvance s) ∧ (emergencyAdvance s).store.queue = s.store.queue := by
  have hnext : emergencyAdvance s = startEmergencyCheckpoint s := by simp only [emergencyAdvance, h]
  rw [hnext]
  exact ⟨startEmergencyCheckpoint_begun s, rfl⟩

theorem emergencyAdvance_segmentsPhase (h : s.store.phase = .segments) :
    SequenceGoesOn s.store.queue (emergencyAdvance s) := by
  have hnext : emergencyAdvance s = nextEmergencySegment s := by simp only [emergencyAdvance, h]
  rw [hnext]
  exact nextEmergencySegment_goesOn h

theorem emergencyAdvance_checkpointPhase (h : s.store.phase = .checkpoint) :
    SequenceGoesOn s.store.queue (emergencyAdvance s) ∧
      (emergencyAdvance s).store.emergencyGeneration = s.store.emergencyGeneration := by
  have hnext : emergencyAdvance s = nextEmergencySegment { s with store.phase := .segments } := by
    simp only [emergencyAdvance, h]
  rw [hnext]
  exact ⟨nextEmergencySegment_goesOn (s := { s with store.phase := .segments }) rfl, by simp⟩

/-- A segment that is neither queued nor in the chain is not touched. -/
theorem emergencyAdvance_seg_apart {i : SegId} (hq : i ∉ s.store.queue) (hc : i ∉ s.journal.chain) :
    (emergencyAdvance s).seg i = s.seg i := by
  have hnext : ∀ t : State, t.store.queue = s.store.queue → t.journal = s.journal →
      (nextEmergencySegment t).seg i = t.seg i := fun t htq htj => by
    simp only [nextEmergencySegment]
    split
    · next j rest hj =>
      obtain ⟨-, -, hother⟩ := startJobOn_starts j { t with store.queue := rest }
      exact hother i fun e => hq (by rw [← htq, hj, e]; exact List.mem_cons_self)
    · split
      · next j hj =>
        obtain ⟨-, -, hother⟩ := startJobOn_starts j t
        exact hother i fun e => hc (by rw [e, ← htj]; exact List.mem_of_find?_eq_some hj)
      · rfl
  simp only [emergencyAdvance]
  split
  · rfl
  · exact hnext { s with store.phase := .segments } rfl rfl
  · exact hnext s rfl rfl
  all_goals rfl

end

/-! ### What the sequence leaves (R121) -/

theorem SequenceLeaves.trans {s t u : State} (a : SequenceLeaves s t) (b : SequenceLeaves t u) :
    SequenceLeaves s u := by
  unfold SequenceLeaves at *
  simp_all

theorem emergencyAdvance_leaves (s : State) : SequenceLeaves s (emergencyAdvance s) := by simp [SequenceLeaves]

theorem passBytes_leaves (i : SegId) (w : Nat) (agree : Bool) (s : State) :
    SequenceLeaves s (passBytes i w agree s) := by
  simp [SequenceLeaves]

/-- The segments but one that stand before the sequence goes on stand after it. -/
theorem SameSegmentsBut.emergencyAdvance {p : SegId → Prop} {s t : State} (h : SameSegmentsBut p s t) :
    SameSegmentsBut p s (emergencyAdvance t) := fun j hj => (h j hj).trans (emergencyAdvance_segments t j)

/-- What stands of the store engine, the chain and the alerts when the sequence goes on. -/
theorem emergencyAdvance_keeps (s : State) :
    (emergencyAdvance s).journal.chain = s.journal.chain ∧
      (emergencyAdvance s).store.storedCount = s.store.storedCount ∧
      (emergencyAdvance s).store.failedList = s.store.failedList ∧
      (emergencyAdvance s).store.failedOverflow = s.store.failedOverflow ∧
      (emergencyAdvance s).cc.alerts = s.cc.alerts ∧
      (emergencyAdvance s).store.metadataDirty = s.store.metadataDirty ∧
      (emergencyAdvance s).array = s.array ∧ (emergencyAdvance s).store.newest = s.store.newest := by
  simp

/-! ### The end of a job in the sequence (R77, R79, R80, R121, R123) -/

section
variable {i : SegId} {w : Nat} {agree : Bool} {s : State}

theorem emergencyPassEnd_freeing (h : (s.seg i).state = .freeing) :
    emergencyPassEnd i agree s = emergencyAdvance (endFreeing i s) := by
  simp only [emergencyPassEnd, if_pos h]

theorem emergencyPassEnd_verified (h : (s.seg i).state = .openS ∨ (s.seg i).state = .full) :
    emergencyPassEnd i true s = emergencyAdvance (countStored (endJob i s)) := by
  have hfreeing : (s.seg i).state ≠ .freeing := by rcases h with h | h <;> simp [h]
  simp only [emergencyPassEnd, if_neg hfreeing, if_true]

theorem emergencyPassEnd_failed (h : (s.seg i).state = .openS ∨ (s.seg i).state = .full) (hr : 2 ≤ (s.seg i).retry) :
    emergencyPassEnd i false s =
      emergencyAdvance (emergencyFailure i ((s.seg i).unstoredFrom.getD 0) (failSegment i s)) := by
  have hfreeing : (s.seg i).state ≠ .freeing := by rcases h with h | h <;> simp [h]
  simp only [emergencyPassEnd, if_neg hfreeing, Bool.false_eq_true, if_false, if_neg (Nat.not_lt.mpr hr)]

/-- A FREEING segment becomes FREE, leaves the queue and the chain, and is not met again by the sequence (R80). -/
theorem emergencyAdvance_freed (i : SegId) (s : State) :
    SameSegmentsBut (fun j => j = i) s (emergencyAdvance (endFreeing i s)) ∧
      (emergencyAdvance (endFreeing i s)).seg i = Segment.freeForm := by
  have hsame : SameSegmentsBut (fun j => j = i) s (endFreeing i s) := fun j hj => by
    rw [endFreeing_seg, if_neg hj]
    exact Segment.SameLog.refl _
  have hqueue : i ∉ (endFreeing i s).store.queue := by simp [endFreeing, freeSegment]
  have hchain : i ∉ (endFreeing i s).journal.chain := by simp [endFreeing, freeSegment]
  refine ⟨hsame.emergencyAdvance, ?_⟩
  rw [emergencyAdvance_seg_apart hqueue hchain, endFreeing_seg, if_pos rfl]

/-- A verified job queues its segment again when it has grown, unless it is queued (R77, step 3). -/
theorem endJob_requeues (h : (s.seg i).state = .openS ∨ (s.seg i).state = .full) :
    (endJob i s).store.queue = s.store.queue ++
      (if (s.seg i).grewInStore && !s.store.queue.contains i then [i] else []) := by
  cases hgrew : (s.seg i).grewInStore with
  | true => by_cases hmem : i ∈ s.store.queue <;> simp [endJob_queue h hgrew, hmem]
  | false =>
    have hseg : (State.modSeg { s with store.op := none } i Segment.stored).seg i = (s.seg i).stored :=
      State.seg_modSeg_same _ i Segment.stored
    simp [endJob, queueSeg, hseg, stored_clean hgrew]

/-- A failure in the SEGMENTS phase is listed, or marked as one too many; no alert and no metadata report follow
(R123). -/
theorem emergencyFailure_listed {u : Nat} (h : s.store.phase = .segments) :
    (emergencyFailure i u s).cc = s.cc ∧ (emergencyFailure i u s).out = s.out ∧
      (emergencyFailure i u s).store.metadataDirty = s.store.metadataDirty ∧
      (emergencyFailure i u s).store.failedList =
        (if s.store.failedList.length < 8 then s.store.failedList ++ [i] else s.store.failedList) ∧
      (emergencyFailure i u s).store.failedOverflow =
        (s.store.failedOverflow || decide (8 ≤ s.store.failedList.length)) := by
  have heq : emergencyFailure i u s = listFailure i s := if_pos h
  refine ⟨by simp [heq], by simp [heq], by simp [heq], ?_⟩
  rw [heq, listFailure]
  split
  · next hfew => exact ⟨rfl, by simp [hfew]⟩
  · next hmany => exact ⟨rfl, by simp [Nat.not_lt.mp hmany]⟩

/-- The finishing job's failure is metadata and alert only (R121). -/
theorem emergencyFailure_finishing {u : Nat} (h : s.store.phase = .finishing) (hw : s.cc.alertWaiters = []) :
    emergencyFailure i u s = { setMetadataDirty s with
      cc.alerts := foldAlert .mediaFault u i.val s.clock.reading s.cc.alerts } := by
  rw [emergencyFailure, if_neg (by simp [h]), mediaFaultAlert, postAlert_eq (by simpa using hw)]
  simp

/-- In either phase the failure leaves what the sequence leaves. -/
theorem emergencyFailure_sequence {u : Nat} (h : s.store.phase = .finishing ∨ s.store.phase = .segments)
    (hw : s.cc.alertWaiters = []) : SequenceLeaves s (emergencyFailure i u s) := by
  rcases h with h | h
  · rw [emergencyFailure_finishing h hw]
    simp [SequenceLeaves]
  · obtain ⟨hcc, hout, -⟩ := emergencyFailure_listed (i := i) (u := u) h
    simp [SequenceLeaves, hcc, hout]

end

section
variable {i : SegId} {w : Nat} {s : State} (hd : s.device = .emergency) (hop : s.store.op = some (.job i w))
include hd hop

/-- The end of a FREEING segment's job, by any outcome (R80, R121, R123). -/
theorem sequence_jobFreed (agree : Bool) (hst : (s.seg i).state = .freeing) :
    ∃ u, exec (.storePassEnd agree) s = .next u ∧ SequenceLeaves s u ∧ SameSegmentsBut (fun j => j = i) s u ∧
      u.seg i = Segment.freeForm ∧ u.journal.chain = s.journal.chain.filter (fun j => j != i) ∧
      u.store.storedCount = s.store.storedCount ∧ u.store.failedList = s.store.failedList ∧
      u.store.failedOverflow = s.store.failedOverflow ∧ u.cc.alerts = s.cc.alerts ∧
      (s.store.phase = .finishing → EmergencyCheckpointBegun u) ∧
      (s.store.phase = .segments → SequenceGoesOn (s.store.queue.filter (fun j => j != i)) u) := by
  have hseg : ∀ j, (passBytes i w agree s).seg j = s.seg j := fun j => passBytes_seg i j w agree s
  refine ⟨_, exec_storePassEnd_emergency hop hd, ?_⟩
  rw [emergencyPassEnd_freeing (by rwa [hseg])]
  have hleaves := passBytes_leaves i w agree s
  have hbytes : (passBytes i w agree s).store = s.store ∧ (passBytes i w agree s).cc = s.cc ∧
      (passBytes i w agree s).journal.chain = s.journal.chain := by simp
  generalize passBytes i w agree s = x at hseg hleaves hbytes ⊢
  obtain ⟨hstore, hcc, hchain⟩ := hbytes
  obtain ⟨hsame, hfree⟩ := emergencyAdvance_freed i x
  obtain ⟨hchain', hcount, hlist, hover, halerts, -⟩ := emergencyAdvance_keeps (endFreeing i x)
  have hfreed : SequenceLeaves x (endFreeing i x) := by simp [SequenceLeaves]
  have hqueue : (endFreeing i x).store.queue = s.store.queue.filter (fun j => j != i) := by
    rw [← hstore]
    rfl
  refine ⟨(hleaves.trans hfreed).trans (emergencyAdvance_leaves _), fun j hj => hseg j ▸ hsame j hj, hfree, ?_,
    hcount.trans (by simp [hstore]), hlist.trans (by simp [hstore]), hover.trans (by simp [hstore]),
    halerts.trans (by simp [hcc]), fun hphase => ?_, fun hphase => ?_⟩
  · rw [hchain', ← hchain]
    rfl
  · exact (emergencyAdvance_finishing (by simpa [hstore] using hphase)).1
  · rw [← hqueue]
    exact emergencyAdvance_segmentsPhase (by simpa [hstore] using hphase)

/-- A verified job in the sequence: its bytes stand in the shadow, and it is counted in the SEGMENTS phase (R77, R121,
R123). -/
theorem sequence_jobVerified (hst : (s.seg i).state = .openS ∨ (s.seg i).state = .full) :
    ∃ u, exec (.storePassEnd true) s = .next u ∧ SequenceLeaves s u ∧ SameSegmentsBut (fun j => j = i) s u ∧
      ({ s.seg i with unstoredFrom :=
          if (s.seg i).grewInStore then (s.seg i).snapshot.map (· + 1) else none } : Segment).SameLog (u.seg i) ∧
      (∀ a, segBase i + w ≤ a → a < segBase i + 4096 → u.array.shadow.read a = s.journal.sram.read a) ∧
      u.journal.chain = s.journal.chain ∧ u.store.failedList = s.store.failedList ∧
      u.store.failedOverflow = s.store.failedOverflow ∧ u.cc.alerts = s.cc.alerts ∧
      (s.store.phase = .finishing → u.store.storedCount = s.store.storedCount ∧ EmergencyCheckpointBegun u ∧
        ((s.seg i).grewInStore = true → i ∈ u.store.queue)) ∧
      (s.store.phase = .segments → u.store.storedCount = s.store.storedCount + 1 ∧
        SequenceGoesOn (s.store.queue ++
          (if (s.seg i).grewInStore && !s.store.queue.contains i then [i] else [])) u) := by
  have hseg : ∀ j, (passBytes i w true s).seg j = s.seg j := fun j => passBytes_seg i j w true s
  have hcopied : ∀ a, segBase i + w ≤ a → a < segBase i + 4096 →
      (passBytes i w true s).array.shadow.read a = s.journal.sram.read a := fun a hlow hhigh =>
    (finishCopy_read i w a s).trans (if_pos ⟨hlow, hhigh⟩)
  refine ⟨_, exec_storePassEnd_emergency hop hd, ?_⟩
  rw [emergencyPassEnd_verified (by rwa [hseg])]
  have hleaves := passBytes_leaves i w true s
  have hbytes : (passBytes i w true s).store = s.store ∧ (passBytes i w true s).cc = s.cc ∧
      (passBytes i w true s).journal.chain = s.journal.chain := by simp
  generalize passBytes i w true s = x at hseg hleaves hbytes hcopied ⊢
  obtain ⟨hstore, hcc, hchain⟩ := hbytes
  rw [← hseg] at hst
  rw [← hstore, ← hcc, ← hchain, ← hseg]
  have hended : ∀ j, (countStored (endJob i x)).seg j = (endJob i x).seg j := fun j => by simp [State.seg]
  obtain ⟨hothers, hown⟩ := endJob_segments i x
  have hsame : SameSegmentsBut (fun j => j = i) s (countStored (endJob i x)) := fun j hj => by
    rw [hended, ← hseg]
    exact hothers j hj
  have hqueue : (countStored (endJob i x)).store.queue = x.store.queue ++
      (if (x.seg i).grewInStore && !x.store.queue.contains i then [i] else []) := by
    rw [← endJob_requeues hst]
    simp
  have hphase : (countStored (endJob i x)).store.phase = x.store.phase := by simp
  have hjob : SequenceLeaves x (countStored (endJob i x)) := by simp [SequenceLeaves]
  obtain ⟨hchain', hcount, hlist, hover, halerts, -, harray, -⟩ := emergencyAdvance_keeps (countStored (endJob i x))
  refine ⟨(hleaves.trans hjob).trans (emergencyAdvance_leaves _), hsame.emergencyAdvance,
    (hended i ▸ hown).trans (emergencyAdvance_segments _ i), fun a hlow hhigh => ?_, hchain'.trans (by simp),
    hlist.trans (by simp), hover.trans (by simp), halerts.trans (by simp), fun h => ⟨?_, ?_⟩, fun h => ⟨?_, ?_⟩⟩
  · rw [harray, show (countStored (endJob i x)).array = x.array by simp]
    exact hcopied a hlow hhigh
  · rw [hcount]
    simp [countStored, h]
  · obtain ⟨hbegun, hkept⟩ := emergencyAdvance_finishing (hphase.trans h)
    refine ⟨hbegun, fun hgrew => ?_⟩
    rw [hkept, hqueue, hgrew]
    by_cases hmem : i ∈ x.store.queue <;> simp [hmem]
  · rw [hcount]
    simp [countStored, h]
  · rw [← hqueue]
    exact emergencyAdvance_segmentsPhase (hphase.trans h)

/-- The third failure in the sequence: metadata and an alert while FINISHING, the failed list in the SEGMENTS phase
(R121, R123). -/
theorem sequence_jobFails (hw : s.cc.alertWaiters = []) (hst : (s.seg i).state = .openS ∨ (s.seg i).state = .full)
    (hr : 2 ≤ (s.seg i).retry) (hphase : s.store.phase = .finishing ∨ s.store.phase = .segments) :
    ∃ u, exec (.storePassEnd false) s = .next u ∧ SequenceLeaves s u ∧ SameSegmentsBut (fun j => j = i) s u ∧
      ({ s.seg i with state := .failed, unstoredFrom := none } : Segment).SameLog (u.seg i) ∧
      u.journal.chain = s.journal.chain ∧ u.store.storedCount = s.store.storedCount ∧
      (s.store.phase = .finishing → EmergencyCheckpointBegun u ∧ u.store.metadataDirty = true ∧
        u.store.failedList = s.store.failedList ∧ u.store.failedOverflow = s.store.failedOverflow ∧
        ∃ a ∈ u.cc.alerts, a.kind = .mediaFault ∧ a.seqValue = (s.seg i).unstoredFrom.getD 0 ∧ a.detail = i.val) ∧
      (s.store.phase = .segments → u.cc.alerts = s.cc.alerts ∧ u.store.metadataDirty = s.store.metadataDirty ∧
        u.store.failedList =
          (if s.store.failedList.length < 8 then s.store.failedList ++ [i] else s.store.failedList) ∧
        u.store.failedOverflow = (s.store.failedOverflow || decide (8 ≤ s.store.failedList.length)) ∧
        SequenceGoesOn s.store.queue u) := by
  have hseg : ∀ j, (passBytes i w false s).seg j = s.seg j := fun j => passBytes_seg i j w false s
  refine ⟨_, exec_storePassEnd_emergency hop hd, ?_⟩
  rw [emergencyPassEnd_failed (by rwa [hseg]) (by rwa [hseg]), hseg]
  have hfailed : ∀ j, (failSegment i (passBytes i w false s)).seg j =
      if j = i then (s.seg i).failedForm else s.seg j := fun j => by rw [failSegment_seg, hseg, hseg]
  have hleaves : SequenceLeaves s (failSegment i (passBytes i w false s)) :=
    (passBytes_leaves i w false s).trans (by simp [SequenceLeaves])
  obtain ⟨hchain, hcc, hqueue, hcount, hlist, hover, hdirty, hsame⟩ :
      (failSegment i (passBytes i w false s)).journal.chain = s.journal.chain ∧
      (failSegment i (passBytes i w false s)).cc = s.cc ∧
      (failSegment i (passBytes i w false s)).store.queue = s.store.queue ∧
      (failSegment i (passBytes i w false s)).store.storedCount = s.store.storedCount ∧
      (failSegment i (passBytes i w false s)).store.failedList = s.store.failedList ∧
      (failSegment i (passBytes i w false s)).store.failedOverflow = s.store.failedOverflow ∧
      (failSegment i (passBytes i w false s)).store.metadataDirty = s.store.metadataDirty ∧
      (failSegment i (passBytes i w false s)).store.phase = s.store.phase := by simp
  generalize failSegment i (passBytes i w false s) = x
    at hfailed hleaves hchain hcc hqueue hcount hlist hover hdirty hsame ⊢
  generalize (s.seg i).unstoredFrom.getD 0 = n
  rw [← hcc] at hw
  rw [← hsame, ← hchain, ← hcount, ← hlist, ← hover, ← hdirty, ← hqueue, ← hcc]
  rw [← hsame] at hphase
  have hjournal : (emergencyFailure i n x).journal = x.journal := by simp
  have hrecord : ∀ j, (emergencyFailure i n x).seg j = if j = i then (s.seg i).failedForm else s.seg j :=
    fun j => by rw [← hfailed, State.seg, hjournal, State.seg]
  have hothers : SameSegmentsBut (fun j => j = i) s (emergencyFailure i n x) := fun j hj => by
    rw [hrecord, if_neg hj]
    exact Segment.SameLog.refl _
  have hown : ((s.seg i).failedForm).SameLog ((emergencyAdvance (emergencyFailure i n x)).seg i) := by
    have hadvance := emergencyAdvance_segments (emergencyFailure i n x) i
    rwa [hrecord, if_pos rfl] at hadvance
  obtain ⟨hchain', hcount', hlist', hover', halerts', hdirty', -⟩ := emergencyAdvance_keeps (emergencyFailure i n x)
  refine ⟨(hleaves.trans (emergencyFailure_sequence hphase hw)).trans (emergencyAdvance_leaves _),
    hothers.emergencyAdvance, (failedForm_sameLog _).trans hown, hchain'.trans (by simp), hcount'.trans (by simp),
    fun h => ?_, fun h => ?_⟩
  · obtain ⟨hbegun, -⟩ := emergencyAdvance_finishing (s := emergencyFailure i n x) (by simpa using h)
    rw [hdirty', hlist', hover', halerts']
    rw [emergencyFailure_finishing h hw] at hbegun ⊢
    obtain ⟨a, ha, hkind, hseq, hdetail, -⟩ := foldAlert_mem .mediaFault n i.val x.clock.reading x.cc.alerts
    exact ⟨hbegun, rfl, rfl, rfl, a, ha, hkind, hseq, hdetail⟩
  · obtain ⟨hcc', -, hclean, hlisted, hmarked⟩ := emergencyFailure_listed (i := i) (u := n) h
    have hgoes := emergencyAdvance_segmentsPhase (s := emergencyFailure i n x) (by simpa using h)
    rw [show (emergencyFailure i n x).store.queue = x.store.queue by simp] at hgoes
    exact ⟨halerts'.trans (by rw [hcc']), hdirty'.trans hclean, hlist'.trans hlisted, hover'.trans hmarked, hgoes⟩

end

/-! ### The end of a checkpoint write in the sequence (R93, R121, R122) -/

section
variable {slot : Slot} {x : Checkpoint} {k : Nat} {verified : Bool} {s : State}

/-- The emergency checkpoint's third failure posts no alert (log entry 20). -/
theorem checkpointLost_emergencyWrite (he : x.emergency = true) :
    checkpointLost slot x s = setSlot slot none { s with store.op := none } := by
  simp only [checkpointLost, checkpointAlert, if_pos he]

/-- The write's end is one of three: the checkpoint stands, its slot holds nothing, or that and an alert. -/
theorem writeResult_cases (slot : Slot) (x : Checkpoint) (hw : s.cc.alertWaiters = []) :
    writeResult true slot x s =
        setSlot slot (some x) { s with store.newest := some (slot, x.generation), store.op := none } ∧
      (x.emergency = true → writeResult false slot x s = setSlot slot none { s with store.op := none }) ∧
      (x.emergency = false → writeResult false slot x s = { setSlot slot none { s with store.op := none } with
        store.metadataDirty := true, store.jobsSinceDirty := 0,
        cc.alerts := foldAlert .mediaFault 0 (slot.code * 2 ^ 16) s.clock.reading s.cc.alerts }) :=
  ⟨rfl, checkpointLost_emergencyWrite, fun he => checkpointLost_background he hw⟩

/-- What the end of a checkpoint write leaves to the sequence, whatever it comes to. -/
theorem writeResult_sequence (verified : Bool) (slot : Slot) (x : Checkpoint) (hw : s.cc.alertWaiters = []) :
    SequenceLeaves s (writeResult verified slot x s) ∧ (writeResult verified slot x s).journal = s.journal ∧
      (writeResult verified slot x s).store.queue = s.store.queue ∧
      (writeResult verified slot x s).store.phase = s.store.phase ∧
      (writeResult verified slot x s).store.storedCount = s.store.storedCount ∧
      (writeResult verified slot x s).store.failedList = s.store.failedList ∧
      (writeResult verified slot x s).store.emergencyGeneration = s.store.emergencyGeneration ∧
      (∀ other, other ≠ slot → (writeResult verified slot x s).slotOf other = s.slotOf other) ∧
      (x.emergency = true → (writeResult verified slot x s).cc.alerts = s.cc.alerts) := by
  obtain ⟨hstored, hlost, halerted⟩ := writeResult_cases (s := s) slot x hw
  cases verified with
  | true =>
    obtain ⟨-, hothers, -⟩ := setSlot_slotOf slot (some x)
      { s with store.newest := some (slot, x.generation), store.op := none }
    rw [hstored]
    refine ⟨?_, ?_, ?_, ?_, ?_, ?_, ?_, hothers, ?_⟩ <;> simp [SequenceLeaves]
  | false =>
    obtain ⟨-, hothers, -⟩ := setSlot_slotOf slot none { s with store.op := none }
    cases he : x.emergency with
    | true =>
      rw [hlost he]
      refine ⟨?_, ?_, ?_, ?_, ?_, ?_, ?_, hothers, ?_⟩ <;> simp [SequenceLeaves]
    | false =>
      rw [halerted he]
      refine ⟨?_, ?_, ?_, ?_, ?_, ?_, ?_,
        fun other hne => (slotOf_of_array rfl other).trans (hothers other hne), ?_⟩ <;> simp [SequenceLeaves]

/-- The third failure of a background write that is finished in EMERGENCY names its slot (R93, R172). -/
theorem writeResult_alert (hw : s.cc.alertWaiters = []) (he : x.emergency = false) :
    ∃ a ∈ (writeResult false slot x s).cc.alerts, a.kind = .mediaFault ∧ a.seqValue = 0 ∧
      a.detail = slot.code * 2 ^ 16 := by
  obtain ⟨-, -, halerted⟩ := writeResult_cases (s := s) slot x hw
  obtain ⟨a, ha, hkind, hseq, hdetail, -⟩ :=
    foldAlert_mem .mediaFault 0 (slot.code * 2 ^ 16) s.clock.reading s.cc.alerts
  rw [halerted he]
  exact ⟨a, ha, hkind, hseq, hdetail⟩

/-- The end of a checkpoint write in EMERGENCY: the finishing one is followed by the emergency checkpoint, and that by
the stores (R121 to R123). -/
theorem sequence_writeEnds (hd : s.device = .emergency) (hw : s.cc.alertWaiters = [])
    (hop : s.store.op = some (.checkpoint slot x k)) (hends : verified = true ∨ 2 ≤ k) :
    ∃ u, exec (.checkpointWriteEnd verified) s = .next u ∧ SequenceLeaves s u ∧
      SameSegmentsBut (fun _ => False) s u ∧ u.journal.chain = s.journal.chain ∧
      u.slotOf slot = (if verified then some x else none) ∧
      (∀ other, other ≠ slot → u.slotOf other = s.slotOf other) ∧
      u.store.newest = (if verified then some (slot, x.generation) else s.store.newest) ∧
      u.store.storedCount = s.store.storedCount ∧ u.store.failedList = s.store.failedList ∧
      (s.store.phase = .finishing → EmergencyCheckpointBegun u ∧
        (verified = false → x.emergency = false →
          ∃ a ∈ u.cc.alerts, a.kind = .mediaFault ∧ a.seqValue = 0 ∧ a.detail = slot.code * 2 ^ 16)) ∧
      (s.store.phase = .checkpoint → SequenceGoesOn s.store.queue u ∧
        u.store.emergencyGeneration = s.store.emergencyGeneration ∧
        (x.emergency = true → u.cc.alerts = s.cc.alerts)) := by
  have hdevice : (writeResult verified slot x s).device = .emergency :=
    (writeResult_ends verified slot x s).device.trans hd
  have halert : verified = false → x.emergency = false → ∃ a ∈ (writeResult verified slot x s).cc.alerts,
      a.kind = .mediaFault ∧ a.seqValue = 0 ∧ a.detail = slot.code * 2 ^ 16 := fun hv he => by
    rw [hv]
    exact writeResult_alert hw he
  obtain ⟨hleaves, hjournal, hqueue, hphase, hcount, hlist, hgeneration, hothers, halerts⟩ :=
    writeResult_sequence (s := s) verified slot x hw
  obtain ⟨hslot, hnewest⟩ := writeResult_slots verified slot x s
  refine ⟨_, exec_write_ends hop hends, ?_⟩
  rw [afterCheckpoint, if_pos hdevice]
  generalize writeResult verified slot x s = y at *
  obtain ⟨hchain', hcount', hlist', -, halerts', -, harray', hnewest'⟩ := emergencyAdvance_keeps y
  have hsame : SameSegmentsBut (fun _ => False) s y := fun j _ => SameSegments.of_segs (by rw [hjournal]) j
  have hslots := slotOf_of_array harray'
  rw [hcount', hlist', hchain', hnewest', halerts', hslots, hjournal, ← hqueue, ← hgeneration]
  refine ⟨hleaves.trans (emergencyAdvance_leaves y), hsame.emergencyAdvance, rfl, hslot,
    fun other hne => (hslots other).trans (hothers other hne), hnewest, hcount, hlist,
    fun h => ⟨(emergencyAdvance_finishing (hphase.trans h)).1, halert⟩, fun h => ?_⟩
  obtain ⟨hgoes, hkept⟩ := emergencyAdvance_checkpointPhase (hphase.trans h)
  exact ⟨hgoes, hkept, halerts⟩

end

/-- Settles O55: the end of a job by what it comes to, and the end of a checkpoint write; each leaves the sequence to
its phase. -/
theorem emergencySequence : Obligations.EmergencySequence := by
  refine fun s hd hw => ⟨fun i w agree hop hphase => ⟨sequence_jobFreed hd hop agree, fun hst hagree => ?_,
    fun hst hagree hr => ?_⟩, fun slot x k verified hop hends _ => sequence_writeEnds hd hw hop hends⟩
  · rw [hagree]
    exact sequence_jobVerified hd hop hst
  · rw [hagree]
    exact sequence_jobFails hd hop hw hst hr hphase

end Sys2Proof.Machine


namespace Sys2Proof.Machine

/-! ### The invariants at reset (R132) -/

theorem reset_seg (i : SegId) : State.reset.seg i = Segment.freeForm := by
  simp [State.seg, State.reset]

theorem freeForm_below (n : Nat) : Segment.freeForm.Below n := by
  simp [Segment.Below, Segment.freeForm]

theorem reset_sequenceLaw : State.reset.SequenceLaw := by
  refine ⟨by decide, by decide, fun i => ?_⟩
  rw [reset_seg]
  exact freeForm_below _

/-- Settles O4: both memories are empty, nothing is claimed, every segment is FREE, the device is in RECALL, and the
oscillator runs. -/
theorem resetSatisfiesInvariants : Obligations.ResetSatisfiesInvariants := by
  refine ⟨⟨Memory.wf_nil, Memory.wf_nil⟩, ?_, reset_sequenceLaw, fun hoff => ?_, fun hstopped => ?_⟩
  · simp [State.WithinLimits, State.reset]
  · simp [State.reset] at hoff
  · simp [State.reset] at hstopped

/-! ### The recall completion (R133, R135, R136, R144) -/

section
variable {s : State}

theorem exec_recallCompletion_elsewhere (h : s.device ≠ .recall) : exec .recallCompletion s = .next s := by
  simp only [exec, execRecallCompletion, if_neg h]

theorem exec_recallCompletion_recall (h : s.device = .recall) :
    exec .recallCompletion s = .next (completeRecall s) := by
  simp only [exec, execRecallCompletion, if_pos h]

/-- The checkpoint that the recall takes is the chosen one, and its slot goes with it (R135). -/
theorem completeRecall_choice {c : Option (Slot × Checkpoint)}
    (h : chooseCheckpoint s.array.slotA s.array.slotB = c) :
    (completeRecall s).recovery.checkpoint = c.map Prod.snd ∧ (completeRecall s).recovery.slot = c.map Prod.fst ∧
      (completeRecall s).store.newest = c.map (fun z => (z.1, z.2.generation)) := by
  subst h
  exact ⟨rfl, rfl, rfl⟩

/-- The closing mark is judged against the checkpoint that the recall takes (R136). -/
theorem completeRecall_judged (s : State) :
    ((completeRecall s).recovery.outcome, (completeRecall s).recovery.mark) =
      judgeOutcome (completeRecall s).recovery.checkpoint s.array.closing := rfl

/-- Of two valid slots the one whose generation follows is chosen; when neither follows, the greater, slot A at a
tie (R135). -/
theorem chooseCheckpoint_two (x y : Checkpoint) :
    (y.generation = x.generation + 1 → chooseCheckpoint (some x) (some y) = some (.b, y)) ∧
    (y.generation ≠ x.generation + 1 → x.generation = y.generation + 1 →
      chooseCheckpoint (some x) (some y) = some (.a, x)) ∧
    (y.generation ≠ x.generation + 1 → x.generation ≠ y.generation + 1 →
      (y.generation.toNat ≤ x.generation.toNat → chooseCheckpoint (some x) (some y) = some (.a, x)) ∧
      (x.generation.toNat < y.generation.toNat → chooseCheckpoint (some x) (some y) = some (.b, y))) := by
  refine ⟨fun hb => if_pos hb, fun hb ha => (if_neg hb).trans (if_pos ha), fun hb ha => ⟨fun hle => ?_, fun hlt => ?_⟩⟩
  · exact ((if_neg hb).trans (if_neg ha)).trans (if_pos hle)
  · exact ((if_neg hb).trans (if_neg ha)).trans (if_neg (Nat.not_le.mpr hlt))

/-- A mark that matches decides for a checkpoint with the emergency flag set, one that follows for a checkpoint with the
flag clear (R136). -/
theorem judgeOutcome_decides (x : Checkpoint) (m : ClosingMark) :
    (x.emergency = true → m.generation = x.generation → (judgeOutcome (some x) (some m)).1 = .clean) ∧
    (x.emergency = true → m.generation ≠ x.generation → (judgeOutcome (some x) (some m)).1 = .incomplete) ∧
    (x.emergency = false → m.generation = x.generation + 1 → (judgeOutcome (some x) (some m)).1 = .clean) ∧
    (x.emergency = false → m.generation ≠ x.generation + 1 → (judgeOutcome (some x) (some m)).1 = .incomplete) := by
  refine ⟨fun he hm => if_pos ?_, fun he hm => if_neg ?_, fun he hm => if_pos ?_, fun he hm => if_neg ?_⟩ <;>
    simpa [markDecides, he] using hm

/-- The mark's count is kept when the mark follows, or matches a checkpoint with the emergency flag set (log
entry 31). -/
theorem judgeOutcome_keeps (x : Checkpoint) (m : ClosingMark) :
    (m.generation = x.generation + 1 ∨ (x.emergency = true ∧ m.generation = x.generation) →
      (judgeOutcome (some x) (some m)).2 = some m) ∧
    (m.generation ≠ x.generation + 1 → ¬ (x.emergency = true ∧ m.generation = x.generation) →
      (judgeOutcome (some x) (some m)).2 = none) := by
  have hcounts : markCounts x m = true ↔
      m.generation = x.generation + 1 ∨ (x.emergency = true ∧ m.generation = x.generation) := by
    simp [markCounts]
  exact ⟨fun h => if_pos (hcounts.mpr h), fun hfollow hmatch =>
    if_neg fun h => (hcounts.mp h).elim hfollow hmatch⟩

end

/-- Settles O58: the choice among the slots, and what the closing mark says of the checkpoint chosen. -/
theorem recallRule : Obligations.RecallRule := by
  refine fun s => ⟨exec_recallCompletion_elsewhere, fun hrecall =>
    ⟨_, exec_recallCompletion_recall hrecall, rfl, rfl, rfl, rfl, fun ha hb => ?_, fun x ha hb => ?_, fun y ha hb => ?_,
      fun x y ha hb => ?_, fun x hx => ?_⟩⟩
  · obtain ⟨hcheckpoint, -, hnewest⟩ := completeRecall_choice (s := s) (c := none) (by rw [ha, hb]; rfl)
    have hjudged := completeRecall_judged s
    rw [hcheckpoint] at hjudged
    exact ⟨hcheckpoint, (Prod.mk.inj hjudged).1, hnewest⟩
  · obtain ⟨hcheckpoint, hslot, -⟩ := completeRecall_choice (s := s) (c := some (.a, x)) (by rw [ha, hb]; rfl)
    exact ⟨hcheckpoint, hslot⟩
  · obtain ⟨hcheckpoint, hslot, -⟩ := completeRecall_choice (s := s) (c := some (.b, y)) (by rw [ha, hb]; rfl)
    exact ⟨hcheckpoint, hslot⟩
  · have htaken : ∀ c, chooseCheckpoint (some x) (some y) = some c →
        (completeRecall s).recovery.checkpoint = some c.2 ∧
          (completeRecall s).recovery.slot = some c.1 := fun c hc => by
      obtain ⟨hcheckpoint, hslot, -⟩ := completeRecall_choice (s := s) (c := some c) (by rw [ha, hb, hc])
      exact ⟨hcheckpoint, hslot⟩
    obtain ⟨hnext, hprevious, hneither⟩ := chooseCheckpoint_two x y
    exact ⟨fun h => htaken _ (hnext h), fun h h' => htaken _ (hprevious h h'), fun h h' =>
      ⟨fun hle => htaken _ ((hneither h h').1 hle), fun hlt => htaken _ ((hneither h h').2 hlt)⟩⟩
  · obtain ⟨houtcome, hmark⟩ := Prod.mk.inj (completeRecall_judged s)
    rw [hx] at houtcome hmark
    refine ⟨fun hnone => ?_, fun m hm => ?_⟩
    · rw [houtcome, hnone]
    · rw [houtcome, hmark, hm]
      obtain ⟨hmatch, hother, hfollows, hnot⟩ := judgeOutcome_decides x m
      obtain ⟨hkept, hdropped⟩ := judgeOutcome_keeps x m
      exact ⟨hmatch, hother, hfollows, hnot, hkept, hdropped⟩

end Sys2Proof.Machine


namespace Sys2Proof.Machine

/-! ### The stable sort and lists without repetition -/

section
variable {α : Type}

theorem sortByKey_perm (key : α → Nat) (l : List α) : (sortByKey key l).Perm l := by
  induction l with
  | nil => exact .refl _
  | cons x xs ih =>
    refine List.perm_middle.trans (.cons x ?_)
    rwa [List.takeWhile_append_dropWhile]

theorem le_of_mem_dropWhile {key : α → Nat} {k : Nat} {l : List α} (h : l.Pairwise (fun a b => key a ≤ key b)) {y : α}
    (hy : y ∈ l.dropWhile (fun z => key z < k)) : k ≤ key y := by
  induction l with
  | nil => simp at hy
  | cons z zs ih =>
    obtain ⟨hz, hzs⟩ := List.pairwise_cons.mp h
    rw [List.dropWhile_cons] at hy
    split at hy
    · exact ih hzs hy
    · next hlow =>
      have hk : k ≤ key z := by simpa using hlow
      rcases List.mem_cons.mp hy with rfl | hmem
      · exact hk
      · exact hk.trans (hz y hmem)

/-- The sort is by the key, and by the order in which equal keys stood. -/
theorem sortByKey_stable {key : α → Nat} {S : α → α → Prop} {l : List α} (h : l.Pairwise S) :
    (sortByKey key l).Pairwise (fun a b => key a < key b ∨ (key a = key b ∧ S a b)) := by
  induction l with
  | nil => exact .nil
  | cons x xs ih =>
    obtain ⟨hx, hxs⟩ := List.pairwise_cons.mp h
    have hrest := ih hxs
    have hsplit := hrest
    rw [← List.takeWhile_append_dropWhile (p := fun y => decide (key y < key x)) (l := sortByKey key xs),
      List.pairwise_append] at hsplit
    obtain ⟨hlow, hhigh, hacross⟩ := hsplit
    have hbehind : ∀ y ∈ (sortByKey key xs).dropWhile (fun y => key y < key x),
        key x < key y ∨ (key x = key y ∧ S x y) := fun y hy => by
      have hle : key x ≤ key y := le_of_mem_dropWhile (hrest.imp (by omega)) hy
      have hS : S x y := hx y ((sortByKey_perm key xs).mem_iff.mp (List.dropWhile_subset _ hy))
      exact hle.lt_or_eq.imp_right fun heq => ⟨heq, hS⟩
    refine List.pairwise_append.mpr ⟨hlow, List.pairwise_cons.mpr ⟨hbehind, hhigh⟩, fun a ha b hb => ?_⟩
    rcases List.mem_cons.mp hb with rfl | hb
    · exact .inl (by simpa using List.mem_takeWhile_imp ha)
    · exact hacross a ha b hb

theorem sortByKey_sorted (key : α → Nat) (l : List α) :
    (sortByKey key l).Pairwise (fun a b => key a ≤ key b) :=
  (sortByKey_stable (S := fun _ _ => True) (List.pairwise_of_forall fun _ _ => trivial)).imp (by omega)

theorem nodup_eraseDups [BEq α] [LawfulBEq α] (l : List α) : l.eraseDups.Nodup := by
  induction hn : l.length using Nat.strongRecOn generalizing l with
  | ind n ih =>
    cases l with
    | nil => exact List.nodup_nil
    | cons a as =>
      rw [List.eraseDups_cons]
      refine List.nodup_cons.mpr ⟨by simp [List.mem_eraseDups], ih _ ?_ _ rfl⟩
      rw [← hn, List.length_cons]
      exact Nat.lt_succ_of_le (List.length_filter_le _ _)

end

/-! ### The scan of one segment (R137) -/

section
variable {mem : Memory} {base off prev n : Nat} {format : BitVec 16}

theorem le_footprint (n : Nat) : 32 ≤ footprint n := Nat.le_add_right _ _

theorem scanFrom_accepted (hin : off + 32 ≤ 4096)
    (h : Accepts mem base format off prev (parseHeader (mem.readBytes (base + off) 32))) :
    scanFrom mem base format (n + 1) off prev =
      (off, parseHeader (mem.readBytes (base + off) 32)) :: scanFrom mem base format n
        (off + footprint (parseHeader (mem.readBytes (base + off) 32)).length)
        (parseHeader (mem.readBytes (base + off) 32)).seq :=
  (if_pos hin).trans (if_pos ((acceptHeader_iff ..).mpr h))

theorem scanFrom_refused
    (h : 4096 < off + 32 ∨ ¬ Accepts mem base format off prev (parseHeader (mem.readBytes (base + off) 32))) :
    scanFrom mem base format (n + 1) off prev = [] := by
  rw [scanFrom]
  split
  · next hin =>
    exact if_neg fun haccept => h.elim (fun hout => absurd hin (Nat.not_le.mpr hout))
      fun hnot => hnot ((acceptHeader_iff ..).mp haccept)
  · rfl

theorem scanFrom_outside (h : 4096 < off + 32) : scanFrom mem base format n off prev = [] := by
  cases n with
  | zero => rfl
  | succ n => exact scanFrom_refused (.inl h)

/-- The fuel does not tell once it suffices for footprints of 32 bytes up to the segment's end (R4). -/
theorem scanFrom_fuel {m : Nat} (hn : 4096 ≤ off + 32 * n) (hm : 4096 ≤ off + 32 * m) :
    scanFrom mem base format n off prev = scanFrom mem base format m off prev := by
  induction n generalizing m off prev with
  | zero => rw [scanFrom_outside (by omega), scanFrom_outside (by omega)]
  | succ n ih =>
    by_cases hin : off + 32 ≤ 4096
    · obtain ⟨m, rfl⟩ : ∃ k, m = k + 1 := ⟨m - 1, by omega⟩
      by_cases haccept : Accepts mem base format off prev (parseHeader (mem.readBytes (base + off) 32))
      · have hstep := le_footprint (parseHeader (mem.readBytes (base + off) 32)).length
        rw [scanFrom_accepted hin haccept, scanFrom_accepted hin haccept, ih (m := m) (by omega) (by omega)]
      · rw [scanFrom_refused (.inr haccept), scanFrom_refused (.inr haccept)]
    · rw [scanFrom_outside (by omega), scanFrom_outside (by omega)]

/-- The accepted headers have rising sequence numbers, all above the one accepted before (R137, test 6). -/
theorem scanFrom_rising :
    (∀ e ∈ scanFrom mem base format n off prev, prev < e.2.seq) ∧
      (scanFrom mem base format n off prev).Pairwise (fun e e' => e.2.seq < e'.2.seq) := by
  induction n generalizing off prev with
  | zero => simp [scanFrom]
  | succ n ih =>
    by_cases h : 4096 < off + 32 ∨ ¬ Accepts mem base format off prev (parseHeader (mem.readBytes (base + off) 32))
    · simp [scanFrom_refused h]
    · obtain ⟨hin, haccept⟩ := not_or.mp h
      have hseq : prev < (parseHeader (mem.readBytes (base + off) 32)).seq := by
        obtain ⟨-, -, -, -, -, -, hseq⟩ := not_not.mp haccept
        exact hseq
      rw [scanFrom_accepted (Nat.not_lt.mp hin) (not_not.mp haccept)]
      obtain ⟨habove, hrising⟩ := ih (off := off + footprint (parseHeader (mem.readBytes (base + off) 32)).length)
        (prev := (parseHeader (mem.readBytes (base + off) 32)).seq)
      refine ⟨fun e he => ?_, List.pairwise_cons.mpr ⟨habove, hrising⟩⟩
      rcases List.mem_cons.mp he with rfl | he
      · exact hseq
      · exact hseq.trans (habove e he)

end

theorem mem_scanSegment_seg {mem : Memory} {format : BitVec 16} {i : SegId} {f : Found}
    (h : f ∈ scanSegment mem format i) : f.seg = i := by
  obtain ⟨e, -, rfl⟩ := List.mem_map.mp h
  rfl

theorem scanSegment_rising (mem : Memory) (format : BitVec 16) (i : SegId) :
    (scanSegment mem format i).Pairwise (fun f g => f.header.seq < g.header.seq) :=
  List.pairwise_map.mpr scanFrom_rising.2

/-! ### The scan of all segments (R137, R139) -/

theorem scanAll_unformatted {s : State} (h : s.recovery.checkpoint = none) : s.scanAll = [] := by
  simp [State.scanAll, h]

/-- The values that the chosen checkpoint restores (R136). -/
theorem restored_formatted {r : Recovery} {x : Checkpoint} (h : r.checkpoint = some x) :
    r.restored.format = x.format ∧ r.restored.head = x.head ∧ r.restored.nextSeq = x.nextSeq ∧
      r.restored.nextSerial = x.nextSerial ∧ r.restored.retired = x.retired ∧
      r.restored.excluded = x.failed ++ (r.listedMark.map ClosingMark.failedList).getD [] := by
  simp [Recovery.restored, h]

/-- The segments of the checkpoint's sets and of the deciding mark's list are not scanned (R139). -/
theorem scanAll_formatted {s : State} {x : Checkpoint} (h : s.recovery.checkpoint = some x) :
    s.scanAll = ((List.finRange 512).filter (fun i =>
      !(x.retired.contains i || x.failed.contains i ||
        (s.recovery.outcome == .clean &&
          ((s.recovery.mark.map ClosingMark.failedList).getD []).contains i)))).map
      (scanSegment s.journal.sram x.format) := by
  obtain ⟨hformat, -, -, -, hretired, hexcluded⟩ := restored_formatted h
  have hset : ∀ i, (s.recovery.restored.retired.contains i || s.recovery.restored.excluded.contains i) =
      (x.retired.contains i || x.failed.contains i || (s.recovery.outcome == .clean &&
        ((s.recovery.mark.map ClosingMark.failedList).getD []).contains i)) := fun i => by
    rw [hretired, hexcluded, Recovery.listedMark]
    by_cases hclean : s.recovery.outcome = .clean
    · simp [hclean, Bool.or_assoc]
    · simp [hclean, beq_eq_false_iff_ne.mpr hclean]
  simp only [State.scanAll, h, hformat, hset, Option.isNone_some, Bool.false_eq_true, if_false]

/-- What holds of the scans of one journal: the entries of a scan rise and lie in one segment, and the segments of the
scans ascend. -/
structure ScanLaw (scans : List (List Found)) : Prop where
  rising : ∀ fs ∈ scans, fs.Pairwise (fun f g => f.header.seq < g.header.seq)
  oneSegment : ∀ fs ∈ scans, ∀ f ∈ fs, ∀ g ∈ fs, f.seg = g.seg
  ascending : scans.Pairwise (fun fs gs => ∀ f ∈ fs, ∀ g ∈ gs, f.seg < g.seg)

theorem scanAll_law (s : State) : ScanLaw s.scanAll := by
  cases h : s.recovery.checkpoint with
  | none =>
    rw [scanAll_unformatted h]
    exact ⟨by simp, by simp, .nil⟩
  | some x =>
    rw [scanAll_formatted h]
    refine ⟨fun fs hfs => ?_, fun fs hfs f hf g hg => ?_, List.pairwise_map.mpr ?_⟩
    · obtain ⟨i, -, rfl⟩ := List.mem_map.mp hfs
      exact scanSegment_rising _ _ i
    · obtain ⟨i, -, rfl⟩ := List.mem_map.mp hfs
      rw [mem_scanSegment_seg hf, mem_scanSegment_seg hg]
    · refine ((List.pairwise_lt_finRange 512).filter _).imp fun hlt f hf g hg => ?_
      rwa [mem_scanSegment_seg hf, mem_scanSegment_seg hg]

theorem ScanLaw.filter {scans : List (List Found)} (h : ScanLaw scans) (p : List Found → Bool) :
    ScanLaw (scans.filter p) :=
  ⟨fun fs hfs => h.rising fs (List.mem_of_mem_filter hfs), fun fs hfs => h.oneSegment fs (List.mem_of_mem_filter hfs),
    h.ascending.filter p⟩

/-- Two scans with entries of one segment are the same scan. -/
theorem ScanLaw.eq_of_seg {scans : List (List Found)} (h : ScanLaw scans) {fs gs : List Found} (hfs : fs ∈ scans)
    (hgs : gs ∈ scans) {f g : Found} (hf : f ∈ fs) (hg : g ∈ gs) (hseg : f.seg = g.seg) : fs = gs := by
  obtain ⟨i, hi, rfl⟩ := List.getElem_of_mem hfs
  obtain ⟨j, hj, rfl⟩ := List.getElem_of_mem hgs
  have hascend := List.pairwise_iff_getElem.mp h.ascending
  rcases lt_trichotomy i j with hlt | rfl | hlt
  · exact absurd hseg (hascend i j hi hj hlt f hf g hg).ne
  · rfl
  · exact absurd hseg (hascend j i hj hi hlt g hg f hf).ne'

/-! ### Recovered ranges (R138) -/

section
variable {head : Nat}

theorem recoveredRange_eq_none_iff {found : List Found} :
    recoveredRange head found = none ↔ ∀ f ∈ found, f.header.seq ≤ head := by
  have hfind : found.find? (fun f => decide (head < f.header.seq)) = none ↔ ∀ f ∈ found, f.header.seq ≤ head := by
    simp
  rw [← hfind, recoveredRange]
  cases ha : found.find? (fun f => decide (head < f.header.seq)) with
  | none => simp
  | some a =>
    have hne := List.ne_nil_of_mem (List.mem_of_find?_eq_some ha)
    simp [List.getLast?_eq_some_getLast hne]

theorem recoveredRange_eq_some {found : List Found} {a b : Found}
    (ha : found.find? (fun f => decide (head < f.header.seq)) = some a) (hb : found.getLast? = some b) :
    recoveredRange head found = some (a.header.seq, b.header.seq) := by
  simp only [recoveredRange, ha, hb]

/-- A range runs from the first entry above head to the last entry. -/
theorem recoveredRange_cases {found : List Found} {x : Nat × Nat} (h : recoveredRange head found = some x) :
    ∃ a b, found.find? (fun f => decide (head < f.header.seq)) = some a ∧ found.getLast? = some b ∧
      x = (a.header.seq, b.header.seq) := by
  rw [recoveredRange] at h
  split at h
  · next a b ha hb => exact ⟨a, b, ha, hb, (Option.some.inj h).symm⟩
  · exact nomatch h

theorem seq_le_of_getLast? {found : List Found} (hrising : found.Pairwise (fun f g => f.header.seq < g.header.seq))
    {b f : Found} (hb : found.getLast? = some b) (hf : f ∈ found) : f.header.seq ≤ b.header.seq := by
  obtain ⟨ys, rfl⟩ := List.getLast?_eq_some_iff.mp hb
  rcases List.mem_append.mp hf with hf | hf
  · exact ((List.pairwise_append.mp hrising).2.2 f hf b (List.mem_singleton_self b)).le
  · rw [List.mem_singleton.mp hf]

/-- The entries above head of rising entries lie in their range. -/
theorem mem_range_of_above {found : List Found} (hrising : found.Pairwise (fun f g => f.header.seq < g.header.seq))
    {x : Nat × Nat} (hx : recoveredRange head found = some x) {f : Found} (hf : f ∈ found)
    (habove : head < f.header.seq) : x.1 ≤ f.header.seq ∧ f.header.seq ≤ x.2 := by
  obtain ⟨a, b, ha, hb, rfl⟩ := recoveredRange_cases hx
  refine ⟨?_, seq_le_of_getLast? hrising hb hf⟩
  obtain ⟨-, as, bs, rfl, hlow⟩ := List.find?_eq_some_iff_append.mp ha
  rcases List.mem_append.mp hf with hf | hf
  · exact absurd habove (by simpa using hlow f hf)
  · rcases List.mem_cons.mp hf with rfl | hf
    · exact le_rfl
    · obtain ⟨-, htail, -⟩ := List.pairwise_append.mp hrising
      exact ((List.pairwise_cons.mp htail).1 f hf).le

/-- A scan's range under the number of its segment. -/
def segRange (head : Nat) (fs : List Found) : Option (SegId × Nat × Nat) :=
  match fs.head?, recoveredRange head fs with
  | some f, some x => some (f.seg, x)
  | _, _ => none

theorem segRange_eq_some {fs : List Found} {f : Found} {x : Nat × Nat} (hf : fs.head? = some f)
    (hx : recoveredRange head fs = some x) : segRange head fs = some (f.seg, x) := by
  simp only [segRange, hf, hx]

theorem segRange_eq_some_iff {fs : List Found} {k : SegId × Nat × Nat} :
    segRange head fs = some k ↔ ∃ f x, fs.head? = some f ∧ recoveredRange head fs = some x ∧ k = (f.seg, x) := by
  constructor
  · intro h
    rw [segRange] at h
    split at h
    · next f x hf hx => exact ⟨f, x, hf, hx, (Option.some.inj h).symm⟩
    · exact nomatch h
  · rintro ⟨f, x, hf, hx, rfl⟩
    exact segRange_eq_some hf hx

theorem segRange_eq_none {fs : List Found} (h : recoveredRange head fs = none) : segRange head fs = none := by
  rw [segRange, h]
  split <;> simp_all

/-- A scan with an entry above head has a range. -/
theorem segRange_of_above {fs : List Found} {f : Found} (hf : f ∈ fs) (habove : head < f.header.seq) :
    ∃ g x, fs.head? = some g ∧ recoveredRange head fs = some x ∧ segRange head fs = some (g.seg, x) := by
  obtain ⟨x, hx⟩ := Option.ne_none_iff_exists'.mp fun hnone =>
    Nat.not_le.mpr habove (recoveredRange_eq_none_iff.mp hnone f hf)
  have hg := List.head?_eq_some_head (List.ne_nil_of_mem hf)
  exact ⟨_, x, hg, hx, segRange_eq_some hg hx⟩

end

/-! ### Overlaps (R138) -/

/-- The order in which overlaps are settled: by first seq and, where those are equal, by segment number (R138). -/
def RangeBefore (a b : SegId × Nat × Nat) : Prop := a.2.1 < b.2.1 ∨ (a.2.1 = b.2.1 ∧ a.1 < b.1)

theorem RangeBefore.asymm {a b : SegId × Nat × Nat} (h : RangeBefore a b) : ¬ RangeBefore b a := by
  simp only [RangeBefore, Fin.lt_def] at *
  omega

theorem RangeBefore.irrefl (a : SegId × Nat × Nat) : ¬ RangeBefore a a := fun h => h.asymm h

theorem rangeBefore_or {a b : SegId × Nat × Nat} (h : a.1 ≠ b.1) : RangeBefore a b ∨ RangeBefore b a := by
  simp only [RangeBefore, Fin.lt_def, ne_eq, Fin.ext_iff] at *
  omega

theorem rangesOverlap_eq_false_iff {a b : Nat × Nat} : rangesOverlap a b = false ↔ a.2 < b.1 ∨ b.2 < a.1 := by
  simp only [rangesOverlap, Bool.and_eq_false_iff, decide_eq_false_iff_not, Nat.not_le, or_comm]

theorem settleRanges_append (kept a b : List (SegId × Nat × Nat)) :
    settleRanges kept (a ++ b) = settleRanges (settleRanges kept a) b := by
  induction a generalizing kept with
  | nil => rfl
  | cons x xs ih =>
    simp only [List.cons_append, settleRanges]
    split <;> exact ih _

/-- What is kept stays kept, and what joins it is one of the ranges tried. -/
theorem settleRanges_extends (kept l : List (SegId × Nat × Nat)) :
    ∃ more, settleRanges kept l = kept ++ more ∧ more ⊆ l := by
  induction l generalizing kept with
  | nil => exact ⟨[], by simp [settleRanges]⟩
  | cons x xs ih =>
    simp only [settleRanges]
    split
    · obtain ⟨more, heq, hsub⟩ := ih kept
      exact ⟨more, heq, List.subset_cons_of_subset _ hsub⟩
    · obtain ⟨more, heq, hsub⟩ := ih (kept ++ [x])
      exact ⟨x :: more, by simpa using heq, List.cons_subset_cons x hsub⟩

/-- In ascending ranges one is kept exactly when it overlaps no kept one before it. -/
theorem mem_settleRanges {l : List (SegId × Nat × Nat)} (hl : l.Pairwise RangeBefore) {x : SegId × Nat × Nat}
    (hx : x ∈ l) :
    x ∈ settleRanges [] l ↔ ∀ k ∈ settleRanges [] l, RangeBefore k x → rangesOverlap k.2 x.2 = false := by
  obtain ⟨a, b, rfl⟩ := List.append_of_mem hx
  obtain ⟨-, hxb, hacross⟩ := List.pairwise_append.mp hl
  obtain ⟨early, hearly, hsub⟩ := settleRanges_extends [] a
  rw [List.nil_append] at hearly
  have hbefore : ∀ k ∈ early, RangeBefore k x := fun k hk => hacross k (hsub hk) x List.mem_cons_self
  have hafter : ∀ k ∈ b, RangeBefore x k := (List.pairwise_cons.mp hxb).1
  rw [settleRanges_append, hearly, settleRanges]
  split
  · next hany =>
    obtain ⟨late, hlate, hlater⟩ := settleRanges_extends early b
    obtain ⟨k, hk, hover⟩ := List.any_eq_true.mp hany
    rw [hlate]
    refine iff_of_false (fun hmem => ?_) fun hall => ?_
    · rcases List.mem_append.mp hmem with h | h
      · exact RangeBefore.irrefl x (hbefore x h)
      · exact RangeBefore.irrefl x (hafter x (hlater h))
    · exact absurd hover (Bool.eq_false_iff.mp (hall k (List.mem_append_left _ hk) (hbefore k hk)))
  · next hnone =>
    obtain ⟨late, hlate, hlater⟩ := settleRanges_extends (early ++ [x]) b
    rw [hlate]
    refine iff_of_true (by simp) fun k hk hkx => ?_
    rcases List.mem_append.mp hk with hk | hk
    · rcases List.mem_append.mp hk with hk | hk
      · exact Bool.eq_false_iff.mpr fun hover => hnone (List.any_eq_true.mpr ⟨k, hk, hover⟩)
      · exact absurd (List.mem_singleton.mp hk ▸ hkx) (RangeBefore.irrefl x)
    · exact absurd hkx (hafter k (hlater hk)).asymm

/-- The ranges kept of a list of scans (R138). -/
def keptRanges (head : Nat) (scans : List (List Found)) : List (SegId × Nat × Nat) :=
  settleRanges [] (rangesOf head scans)

section
variable {head : Nat} {scans : List (List Found)}

theorem rangesOf_eq : rangesOf head scans = sortByKey (fun x => x.2.1) (scans.filterMap (segRange head)) := rfl

theorem mem_rangesOf {k : SegId × Nat × Nat} : k ∈ rangesOf head scans ↔ ∃ fs ∈ scans, segRange head fs = some k := by
  rw [rangesOf_eq, (sortByKey_perm _ _).mem_iff, List.mem_filterMap]

theorem rangesOf_ascending (h : ScanLaw scans) : (rangesOf head scans).Pairwise RangeBefore := by
  refine sortByKey_stable (S := fun a b : SegId × Nat × Nat => a.1 < b.1)
    (List.pairwise_filterMap.mpr (h.ascending.imp ?_))
  intro fs gs hlt k hk k' hk'
  obtain ⟨f, x, hf, -, rfl⟩ := segRange_eq_some_iff.mp hk
  obtain ⟨g, y, hg, -, rfl⟩ := segRange_eq_some_iff.mp hk'
  exact hlt f (List.mem_of_head? hf) g (List.mem_of_head? hg)

theorem mem_rangesOf_of_kept {k : SegId × Nat × Nat} (h : k ∈ keptRanges head scans) : k ∈ rangesOf head scans := by
  obtain ⟨more, heq, hsub⟩ := settleRanges_extends [] (rangesOf head scans)
  rw [keptRanges, heq] at h
  exact hsub h

/-- A scan is kept when its range, if it has one, is kept. -/
theorem mem_keptScans {fs : List Found} :
    fs ∈ keptScans head scans ↔ fs ∈ scans ∧ ∀ k, segRange head fs = some k → k ∈ keptRanges head scans := by
  rw [keptScans, List.mem_filter]
  refine and_congr_right fun _ => ?_
  split
  · next f x hf hx => simp [segRange_eq_some hf hx, keptRanges, List.any_eq_true, Prod.ext_iff]
  · next hnone =>
    refine iff_of_true rfl fun k hk => ?_
    obtain ⟨f, x, hf, hx, -⟩ := segRange_eq_some_iff.mp hk
    exact absurd hx (hnone f x hf)

theorem keptScans_law (h : ScanLaw scans) : ScanLaw (keptScans head scans) := h.filter _

/-- The range of each segment kept: its scan is kept. -/
theorem mem_keptRanges {k : SegId × Nat × Nat} :
    k ∈ keptRanges head scans ↔ ∃ fs ∈ keptScans head scans, segRange head fs = some k := by
  constructor
  · intro hk
    obtain ⟨fs, hfs, hrange⟩ := mem_rangesOf.mp (mem_rangesOf_of_kept hk)
    exact ⟨fs, mem_keptScans.mpr ⟨hfs, fun k' hk' => Option.some.inj (hrange.symm.trans hk') ▸ hk⟩, hrange⟩
  · rintro ⟨fs, hfs, hrange⟩
    exact (mem_keptScans.mp hfs).2 k hrange

/-- Two kept ranges of different segments do not overlap. -/
theorem keptRanges_apart (h : ScanLaw scans) {k l : SegId × Nat × Nat} (hk : k ∈ keptRanges head scans)
    (hl : l ∈ keptRanges head scans) (hne : k.1 ≠ l.1) : k.2.2 < l.2.1 ∨ l.2.2 < k.2.1 := by
  have hfree : ∀ {a b}, a ∈ keptRanges head scans → b ∈ keptRanges head scans → RangeBefore a b →
      rangesOverlap a.2 b.2 = false := fun ha hb =>
    (mem_settleRanges (rangesOf_ascending h) (mem_rangesOf_of_kept hb)).mp hb _ ha
  rcases rangeBefore_or hne with hbefore | hbefore
  · exact rangesOverlap_eq_false_iff.mp (hfree hk hl hbefore)
  · exact (rangesOverlap_eq_false_iff.mp (hfree hl hk hbefore)).symm

/-- A scan with a range is kept exactly when no kept scan before it overlaps it (R138). -/
theorem mem_keptScans_iff (h : ScanLaw scans) {fs : List Found} (hfs : fs ∈ scans) {x : Nat × Nat} {f : Found}
    (hx : recoveredRange head fs = some x) (hf : fs.head? = some f) :
    fs ∈ keptScans head scans ↔ ∀ gs ∈ keptScans head scans, ∀ y g, recoveredRange head gs = some y →
      gs.head? = some g → (y.1 < x.1 ∨ (y.1 = x.1 ∧ g.seg < f.seg)) → y.2 < x.1 ∨ x.2 < y.1 := by
  have hrange := segRange_eq_some hf hx
  have hkept : fs ∈ keptScans head scans ↔ (f.seg, x) ∈ keptRanges head scans := by
    rw [mem_keptScans, hrange]
    simp [hfs]
  rw [hkept, keptRanges, mem_settleRanges (rangesOf_ascending h) (mem_rangesOf.mpr ⟨fs, hfs, hrange⟩)]
  constructor
  · intro hall gs hgs y g hy hg hbefore
    exact rangesOverlap_eq_false_iff.mp
      (hall (g.seg, y) (mem_keptRanges.mpr ⟨gs, hgs, segRange_eq_some hg hy⟩) hbefore)
  · intro hall k hk hbefore
    obtain ⟨gs, hgs, hgrange⟩ := mem_keptRanges.mp hk
    obtain ⟨g, y, hg, hy, rfl⟩ := segRange_eq_some_iff.mp hgrange
    exact rangesOverlap_eq_false_iff.mpr (hall gs hgs y g hy hg hbefore)

/-- No sequence number above head is found twice in the kept scans (R138). -/
theorem keptScans_nodup (h : ScanLaw scans) :
    ((aboveHead head (keptScans head scans).flatten).map (fun f => f.header.seq)).Nodup := by
  have hlaw := keptScans_law (head := head) h
  refine List.pairwise_map.mpr (List.pairwise_filter.mpr (List.pairwise_flatten.mpr ⟨fun fs hfs => ?_, ?_⟩))
  · exact (hlaw.rising fs hfs).imp fun hlt _ _ => hlt.ne
  · refine hlaw.ascending.imp_of_mem fun {fs gs} hfs hgs hlt f hf g hg hfabove hgabove heq => ?_
    obtain ⟨f', x, hf', hx, hfrange⟩ := segRange_of_above hf (by simpa using hfabove)
    obtain ⟨g', y, hg', hy, hgrange⟩ := segRange_of_above hg (by simpa using hgabove)
    have hne : f'.seg ≠ g'.seg := (hlt f' (List.mem_of_head? hf') g' (List.mem_of_head? hg')).ne
    have hfin := mem_range_of_above (hlaw.rising fs hfs) hx hf (by simpa using hfabove)
    have hgin := mem_range_of_above (hlaw.rising gs hgs) hy hg (by simpa using hgabove)
    rcases keptRanges_apart h (mem_keptRanges.mpr ⟨fs, hfs, hfrange⟩) (mem_keptRanges.mpr ⟨gs, hgs, hgrange⟩)
      hne with hapart | hapart <;> simp only at hapart <;> omega

end

end Sys2Proof.Machine


namespace Sys2Proof.Machine

/-! ### The transactions that are judged and kept (R140) -/

section
variable {head serial k first : Nat} {all own : List Found}

theorem mem_aboveHead {f : Found} : f ∈ aboveHead head all ↔ f ∈ all ∧ head < f.header.seq := by
  simp [aboveHead]

theorem mem_judgedSerials {n : Nat} :
    n ∈ judgedSerials head all ↔ n ≠ 0 ∧ ∃ f ∈ aboveHead head all, f.header.serial = n := by
  rw [judgedSerials, List.mem_eraseDups, List.mem_filter, List.mem_map, and_comm]
  simp

theorem judgedSerials_nodup : (judgedSerials head all).Nodup := nodup_eraseDups _

/-- The sequence numbers found above head and below `first`. -/
def seqsBelow (head first : Nat) (all : List Found) : Finset Nat :=
  (((aboveHead head all).filter (fun f => decide (f.header.seq < first))).map (fun f => f.header.seq)).toFinset

theorem mem_seqsBelow {q : Nat} :
    q ∈ seqsBelow head first all ↔ ∃ f ∈ all, head < f.header.seq ∧ f.header.seq < first ∧ f.header.seq = q := by
  simp [seqsBelow, mem_aboveHead, and_assoc]

theorem seqsBelow_subset : seqsBelow head first all ⊆ Finset.Ioo head first := fun q hq => by
  obtain ⟨f, -, hlow, hhigh, rfl⟩ := mem_seqsBelow.mp hq
  exact Finset.mem_Ioo.mpr ⟨hlow, hhigh⟩

theorem card_seqsBelow (h : ((aboveHead head all).map (fun f => f.header.seq)).Nodup) :
    (seqsBelow head first all).card = (aboveHead head all).countP (fun f => decide (f.header.seq < first)) := by
  rw [seqsBelow, List.toFinset_card_of_nodup (h.sublist (List.filter_sublist.map _)), List.length_map,
    List.countP_eq_length_filter]

/-- With no sequence number found twice, the found ones between head and `first` are as many as there are exactly when
none is missing. -/
theorem countP_below_first (h : ((aboveHead head all).map (fun f => f.header.seq)).Nodup) :
    (aboveHead head all).countP (fun f => decide (f.header.seq < first)) = first - 1 - head ↔
      ∀ q, head < q → q < first → ∃ f ∈ all, f.header.seq = q := by
  rw [← card_seqsBelow h, show first - 1 - head = (Finset.Ioo head first).card by rw [Nat.card_Ioo]; omega]
  constructor
  · intro hfull q hlow hhigh
    have hq := Finset.mem_Ioo.mpr ⟨hlow, hhigh⟩
    rw [← Finset.eq_of_subset_of_card_le seqsBelow_subset hfull.ge] at hq
    obtain ⟨f, hf, -, -, hseq⟩ := mem_seqsBelow.mp hq
    exact ⟨f, hf, hseq⟩
  · intro hfound
    refine congrArg Finset.card (seqsBelow_subset.antisymm fun q hq => ?_)
    obtain ⟨hlow, hhigh⟩ := Finset.mem_Ioo.mp hq
    obtain ⟨f, hf, rfl⟩ := hfound q hlow hhigh
    exact mem_seqsBelow.mpr ⟨f, hf, hlow, hhigh, rfl⟩

/-- Condition 5 of R140. -/
theorem firstIndexCovered_iff (h : ((aboveHead head all).map (fun f => f.header.seq)).Nodup) {i : Nat} :
    firstIndexCovered head i first all own = true ↔
      i = 0 ∨ (∃ f ∈ own, f.header.index + 1 = i ∧ f.header.seq ≤ head) ∨
        ∀ q, head < q → q < first → ∃ f ∈ all, f.header.seq = q := by
  rw [firstIndexCovered, Bool.or_eq_true, Bool.or_eq_true, beq_iff_eq, beq_iff_eq, countP_below_first h,
    List.any_eq_true, or_assoc]
  simp only [Bool.and_eq_true, beq_iff_eq, decide_eq_true_eq]

/-- Among entries there is one of the lowest index, found first. -/
theorem exists_lowest (l : List Found) (hne : l ≠ []) :
    ∃ a, l.find? (fun f => f.header.index == a.header.index) = some a ∧ (∀ f ∈ l, a.header.index ≤ f.header.index) ∧
      (l.map (fun f => f.header.index)).min? = some a.header.index := by
  obtain ⟨i, hi⟩ : ∃ i, (l.map (fun f => f.header.index)).min? = some i :=
    Option.ne_none_iff_exists'.mp fun hnone => hne (List.map_eq_nil_iff.mp (List.min?_eq_none_iff.mp hnone))
  obtain ⟨hmem, hlow⟩ := List.min?_eq_some_iff.mp hi
  obtain ⟨f, hf, rfl⟩ := List.mem_map.mp hmem
  obtain ⟨a, ha⟩ : ∃ a, l.find? (fun g => g.header.index == f.header.index) = some a :=
    Option.ne_none_iff_exists'.mp fun hnone => List.find?_eq_none.mp hnone f hf (beq_self_eq_true f.header.index)
  have hindex : a.header.index = f.header.index := by simpa using List.find?_some ha
  rw [← hindex] at ha hi hlow
  exact ⟨a, ha, fun g hg => hlow _ (List.mem_map_of_mem hg), hi⟩

/-- The conditions 2 to 5 of R140, in terms of the first entry above head of the lowest index (log entry 43). -/
def WholeFrom (head k : Nat) (all own : List Found) (a : Found) : Prop :=
  (aboveHead head own).find? (fun f => f.header.index == a.header.index) = some a ∧
    (∀ f ∈ aboveHead head own, a.header.index ≤ f.header.index) ∧
    (∀ j, a.header.index ≤ j → j < k → ∃ f ∈ aboveHead head own, f.header.index = j) ∧
    (a.header.index = 0 ∨ (∃ f ∈ own, f.header.index + 1 = a.header.index ∧ f.header.seq ≤ head) ∨
      ∀ q, head < q → q < a.header.seq → ∃ f ∈ all, f.header.seq = q)

theorem mem_drop_range {i k j : Nat} : j ∈ (List.range k).drop i ↔ i ≤ j ∧ j < k := by
  rw [List.range_eq_range', List.drop_range', List.mem_range'_1]
  omega

/-- With the lowest entry `a` above head known, the model's test reads R140's conditions. -/
theorem serialWhole_lowest (h : ((aboveHead head all).map (fun f => f.header.seq)).Nodup) {a : Found}
    (ha : (aboveHead head own).find? (fun f => f.header.index == a.header.index) = some a)
    (hmin : ((aboveHead head own).map (fun f => f.header.index)).min? = some a.header.index) :
    serialWhole head k all own = true ↔ (∀ f ∈ own, f.header.index < k) ∧
      (∀ f ∈ own, f.header.stateByte = 1 ∧
        ∀ g ∈ own, f.header.channel = g.header.channel ∧ f.header.hostId = g.header.hostId) ∧
      (∀ j, a.header.index ≤ j → j < k → ∃ f ∈ aboveHead head own, f.header.index = j) ∧
      (a.header.index = 0 ∨ (∃ f ∈ own, f.header.index + 1 = a.header.index ∧ f.header.seq ≤ head) ∨
        ∀ q, head < q → q < a.header.seq → ∃ f ∈ all, f.header.seq = q) := by
  simp only [serialWhole, hmin, Option.getD_some, ha, Option.map_some, Bool.and_eq_true, firstIndexCovered_iff h,
    List.all_eq_true, List.any_eq_true, mem_drop_range, decide_eq_true_eq, beq_iff_eq, and_assoc, and_imp]
  rfl

theorem serialWhole_iff (h : ((aboveHead head all).map (fun f => f.header.seq)).Nodup) (hk : 0 < k) :
    serialWhole head k all own = true ↔ (∀ f ∈ own, f.header.index < k) ∧
      (∀ f ∈ own, f.header.stateByte = 1 ∧
        ∀ g ∈ own, f.header.channel = g.header.channel ∧ f.header.hostId = g.header.hostId) ∧
      ∃ a, WholeFrom head k all own a := by
  by_cases hne : aboveHead head own = []
  · refine iff_of_false (fun hwhole => ?_) fun ⟨_, _, a, hfind, _⟩ => by simp [hne] at hfind
    have hlist : ((List.range k).drop 0).all
        (fun j => (aboveHead head own).any (fun f => f.header.index == j)) = true := by
      simp only [serialWhole, hne, List.map_nil, List.min?_nil, Option.getD_none, Bool.and_eq_true] at hwhole
      rw [hne]
      exact hwhole.1.2
    have hzero := List.all_eq_true.mp hlist 0 (mem_drop_range.mpr ⟨le_rfl, hk⟩)
    simp [hne] at hzero
  · obtain ⟨a, ha, hlow, hmin⟩ := exists_lowest _ hne
    rw [serialWhole_lowest h ha hmin]
    refine and_congr_right fun _ => and_congr_right fun _ => ⟨fun ⟨hall, hcovered⟩ => ⟨a, ha, hlow, hall, hcovered⟩, ?_⟩
    rintro ⟨b, hb, hblow, hall, hcovered⟩
    have hindex : b.header.index = a.header.index := le_antisymm
      (hblow a (List.mem_of_find?_eq_some ha)) (hlow b (List.mem_of_find?_eq_some hb))
    have hsame : b = a := by
      rw [hindex, ha] at hb
      exact (Option.some.inj hb).symm
    subst hsame
    exact ⟨hall, hcovered⟩

/-- A transaction with exactly one SEAL entry is judged by the other conditions; any other is discarded (R140). -/
theorem serialKept_iff_sealed : serialKept head serial all = true ↔
    ∃ x, (ownEntries serial all).filter (fun f => f.header.sealFlag) = [x] ∧
      serialWhole head (x.header.index + 1) all (ownEntries serial all) = true := by
  simp only [serialKept, ownEntries]
  split
  · next x hx => simp [hx]
  · next hnot => exact iff_of_false (by simp) fun ⟨x, hx, _⟩ => hnot x hx

theorem serialKept_iff (h : ((aboveHead head all).map (fun f => f.header.seq)).Nodup) :
    serialKept head serial all = true ↔ TransactionKept head serial all := by
  simp only [serialKept_iff_sealed, serialWhole_iff h (Nat.succ_pos _), TransactionKept, WholeFrom]

end

/-- Settles O59: the scan's tests, the segments scanned, the overlaps settled in the order of the ranges, and the
judgement of each serial. -/
theorem scanJudgement : Obligations.ScanJudgement := by
  refine ⟨fun mem base off prev n format h hh => ?_, fun mem base n format hn => scanFrom_fuel (by omega) (by omega),
    fun s => ⟨scanAll_unformatted, fun x hx => scanAll_formatted hx, keptScans_nodup (scanAll_law s),
      fun fs hfs => (mem_keptScans.mp hfs).1, fun fs hfs hnone => ?_,
      fun fs hfs x f hx hf => mem_keptScans_iff (scanAll_law s) hfs hx hf⟩,
    fun head found => ⟨recoveredRange_eq_none_iff, fun a b => recoveredRange_eq_some⟩,
    fun head all hnodup => ⟨fun serial => serialKept_iff hnodup, judgedSerials_nodup, fun n => mem_judgedSerials⟩⟩
  · subst hh
    exact ⟨scanFrom_accepted, scanFrom_refused⟩
  · exact mem_keptScans.mpr ⟨hfs, by simp [segRange_eq_none hnone]⟩

end Sys2Proof.Machine


namespace Sys2Proof.Machine

/-! ### The end of the scan, block by block (R142) -/

section
variable (s : State)

/-- The segments that hold recovered entries at the end of the scan, with their found entries. -/
def State.recovered (s : State) : List (SegId × List Found) :=
  recoveredSegs s.recovery.restored.head (keptScans s.recovery.restored.head s.scanAll)

/-- The next sequence number after the rebuild (R142, step 3). -/
def State.rebuiltNext (s : State) : Nat :=
  max s.recovery.restored.nextSeq (((s.foundEntries.map (fun f => f.header.seq)).max?.getD 0) + 1)

/-- The greatest stamp handed to the clock (R116, R144). -/
def State.greatestStamp (s : State) : Option Stamp :=
  Stamp.greater (s.recovery.checkpoint.bind Checkpoint.lastStamp) (highestStamp s.foundEntries)

/-- The state before the clock decides (R142, steps 1 to 5 and 8). -/
def State.rebuilt (s : State) : State :=
  rebuildJournal s.recovery.restored (keptScans s.recovery.restored.head s.scanAll)
    (markDiscarded s.recovery.restored.head s.foundEntries s)

/-- The state in which the report is built and the recovery checkpoint begins (R142, steps 6 and 7). -/
def State.decided (s : State) : State :=
  decideAndReport s.recovery.restored s.foundEntries s.rebuilt

theorem endScan_eq : endScan s = startCheckpoint s.decided := rfl

theorem exec_endOfScan {s : State} (hd : s.device = .recover) (hscan : s.recovery.scanning = true) :
    exec .endOfScan s = .next (endScan s) := by
  simp only [exec, execEndOfScan, hd, hscan, and_self, if_true]

theorem markDiscarded_frame (head : Nat) (all : List Found) :
    (markDiscarded head all s).device = s.device ∧ (markDiscarded head all s).clock = s.clock ∧
      (markDiscarded head all s).recovery = s.recovery ∧
      (markDiscarded head all s).store.newest = s.store.newest := by
  have h := foldl_keeps (fun s : State => (s.device, s.clock, s.recovery, s.store.newest))
    (fun t (f : Found) => markVoid t (f.seg, f.off)) (fun t f => by simp)
    ((aboveHead head all).filter (fun f => (discardedSerials head all).contains f.header.serial)) s
  simpa only [markDiscarded, Prod.mk.injEq] using h

/-- What a rebuild makes of the journal, the transactions and the store engine, and what it leaves (R142, R143). -/
theorem rebuildJournal_values (r : Restored) (scans : List (List Found)) (t : State) :
    (rebuildJournal r scans t).journal.format = r.format ∧ (rebuildJournal r scans t).journal.head = r.head ∧
      (rebuildJournal r scans t).journal.nextSeq =
        max r.nextSeq (((scans.flatten.map (fun f => f.header.seq)).max?.getD 0) + 1) ∧
      (rebuildJournal r scans t).journal.chain = rebuiltChain (recoveredSegs r.head scans) ∧
      (rebuildJournal r scans t).journal.formatted = (t.recovery.outcome != .unformatted) ∧
      (rebuildJournal r scans t).journal.full = false ∧
      (rebuildJournal r scans t).journal.sram = t.journal.sram ∧
      (rebuildJournal r scans t).txns = { t.txns with
        table := [], nextSerial := rebuiltSerial r.nextSerial scans.flatten } ∧
      (rebuildJournal r scans t).store.queue = [] ∧
      (rebuildJournal r scans t).store.storedThrough = (rebuildJournal r scans t).journal.nextSeq - 1 ∧
      (rebuildJournal r scans t).device = t.device ∧ (rebuildJournal r scans t).clock = t.clock ∧
      (rebuildJournal r scans t).recovery = t.recovery ∧
      (rebuildJournal r scans t).store.newest = t.store.newest := by
  simp [rebuildJournal]

theorem rebuildJournal_seg (r : Restored) (scans : List (List Found)) (t : State) (i : SegId) :
    (rebuildJournal r scans t).seg i = rebuiltSegment r (recoveredSegs r.head scans) i :=
  State.getElem_buildSegs _ i

theorem rebuilt_kept : s.rebuilt.device = s.device ∧ s.rebuilt.clock = s.clock ∧ s.rebuilt.recovery = s.recovery ∧
    s.rebuilt.store.newest = s.store.newest := by
  obtain ⟨hdevice, hclock, hrecovery, hnewest⟩ := markDiscarded_frame s s.recovery.restored.head s.foundEntries
  obtain ⟨-, -, -, -, -, -, -, -, -, -, hdevice', hclock', hrecovery', hnewest'⟩ :=
    rebuildJournal_values s.recovery.restored (keptScans s.recovery.restored.head s.scanAll)
      (markDiscarded s.recovery.restored.head s.foundEntries s)
  exact ⟨hdevice'.trans hdevice, hclock'.trans hclock, hrecovery'.trans hrecovery, hnewest'.trans hnewest⟩

/-- What the rebuild makes of the journal, the transactions and the store engine (R142, steps 2 to 5). -/
theorem rebuilt_journal :
    s.rebuilt.journal.format = s.recovery.restored.format ∧ s.rebuilt.journal.head = s.recovery.restored.head ∧
      s.rebuilt.journal.nextSeq = s.rebuiltNext ∧ s.rebuilt.journal.chain = rebuiltChain s.recovered ∧
      s.rebuilt.journal.formatted = (s.recovery.outcome != .unformatted) ∧ s.rebuilt.journal.full = false ∧
      s.rebuilt.journal.sram = (markDiscarded s.recovery.restored.head s.foundEntries s).journal.sram ∧
      s.rebuilt.txns.table = [] ∧
      s.rebuilt.txns.nextSerial = rebuiltSerial s.recovery.restored.nextSerial s.foundEntries ∧
      s.rebuilt.store.queue = [] ∧ s.rebuilt.store.storedThrough = s.rebuilt.journal.nextSeq - 1 := by
  obtain ⟨-, -, hrecovery, -⟩ := markDiscarded_frame s s.recovery.restored.head s.foundEntries
  obtain ⟨hformat, hhead, hnext, hchain, hformatted, hfull, hsram, htxns, hqueue, hstored, -⟩ :=
    rebuildJournal_values s.recovery.restored (keptScans s.recovery.restored.head s.scanAll)
      (markDiscarded s.recovery.restored.head s.foundEntries s)
  rw [hrecovery] at hformatted
  exact ⟨hformat, hhead, hnext, hchain, hformatted, hfull, hsram, congrArg TxnUnit.table htxns,
    congrArg TxnUnit.nextSerial htxns, hqueue, hstored⟩

theorem rebuilt_seg (i : SegId) : s.rebuilt.seg i = rebuiltSegment s.recovery.restored s.recovered i :=
  rebuildJournal_seg _ _ _ i

/-- The report that is built at the end of the scan (R147). -/
def State.scanReport (s : State) : Report :=
  buildReport s.recovery.restored s.foundEntries (s.clock.decidesLost s.greatestStamp) s.rebuilt

/-- The decision and the report touch the clock and the recovery unit alone (R142, steps 6 and 7). -/
theorem decided_values :
    s.decided = { s.rebuilt with
      clock := s.clock.decided s.greatestStamp ((s.recovery.checkpoint.map Checkpoint.clockValid).getD false),
      recovery := { s.recovery with building := some s.scanReport, scanning := false } } := by
  obtain ⟨-, hclock, hrecovery, -⟩ := rebuilt_kept s
  simp only [State.decided, decideAndReport, State.scanReport, State.greatestStamp, hclock, hrecovery]
  simp only [buildReport, hrecovery]

/-- The contents of the recovery checkpoint (R145). -/
def State.recoveryCheckpoint (s : State) : Checkpoint := s.decided.backgroundCheckpoint

theorem endScan_store :
    (endScan s).store.op = some (.checkpoint s.nextSlot.1 s.recoveryCheckpoint 0) ∧
      (endScan s).store.queue = [] ∧ (endScan s).store.storedThrough = (endScan s).journal.nextSeq - 1 := by
  obtain ⟨-, -, -, -, -, -, -, -, -, hqueue, hstored⟩ := rebuilt_journal s
  have hslot : s.decided.nextSlot = s.nextSlot := by
    rw [decided_values]
    exact nextSlot_congr (rebuilt_kept s).2.2.2
  obtain ⟨hop, -, -⟩ := startCheckpoint_begun s.decided
  rw [endScan_eq, ← hslot]
  refine ⟨hop, ?_, ?_⟩ <;> rw [decided_values] <;> simpa

theorem endScan_kept : (endScan s).journal = s.rebuilt.journal ∧ (endScan s).txns = s.rebuilt.txns ∧
    (endScan s).clock =
      s.clock.decided s.greatestStamp ((s.recovery.checkpoint.map Checkpoint.clockValid).getD false) ∧
    (endScan s).recovery.building = some s.scanReport ∧ (endScan s).recovery.scanning = false := by
  rw [endScan_eq, decided_values]
  simp

theorem endScan_seg (i : SegId) : (endScan s).seg i = rebuiltSegment s.recovery.restored s.recovered i := by
  rw [← rebuilt_seg, State.seg, (endScan_kept s).1, State.seg]

/-- A background checkpoint carries the values as they stand at its beginning (R89). -/
theorem backgroundCheckpoint_values (t : State) :
    t.backgroundCheckpoint.head = (startCheckpoint t).journal.head ∧
      t.backgroundCheckpoint.nextSeq = (startCheckpoint t).journal.nextSeq ∧
      t.backgroundCheckpoint.format = (startCheckpoint t).journal.format ∧
      t.backgroundCheckpoint.nextSerial = (startCheckpoint t).txns.nextSerial ∧
      t.backgroundCheckpoint.emergency = false ∧
      t.backgroundCheckpoint.retired = (startCheckpoint t).segsIn .retired ∧
      t.backgroundCheckpoint.failed = (startCheckpoint t).segsIn .failed := by
  simp [State.backgroundCheckpoint, State.segsIn, State.seg]

end

/-! ### The segments rebuilt (R143) -/

section
variable {head : Nat} {scans : List (List Found)}

/-- A segment is recovered with the entries of its scan, when that has a range (R143). -/
theorem mem_recoveredSegs {i : SegId} {fs : List Found} :
    (i, fs) ∈ recoveredSegs head scans ↔ fs ∈ scans ∧ ∃ x, segRange head fs = some (i, x) := by
  rw [recoveredSegs, List.mem_filterMap]
  constructor
  · rintro ⟨gs, hgs, h⟩
    split at h
    · next f x hf hx =>
      obtain ⟨rfl, rfl⟩ := Prod.mk.inj (Option.some.inj h)
      exact ⟨hgs, x, segRange_eq_some hf hx⟩
    · exact nomatch h
  · rintro ⟨hfs, x, hrange⟩
    obtain ⟨f, y, hf, hy, heq⟩ := segRange_eq_some_iff.mp hrange
    exact ⟨fs, hfs, by simp only [hf, hy, (Prod.mk.inj heq).1]⟩

/-- The segments recovered ascend. -/
theorem recoveredSegs_ascending (h : ScanLaw scans) :
    (recoveredSegs head scans).Pairwise (fun p q => p.1 < q.1) := by
  rw [recoveredSegs]
  refine List.pairwise_filterMap.mpr (h.ascending.imp fun {fs gs} hlt p hp q hq => ?_)
  split at hp
  · next f x hf hx =>
    split at hq
    · next g y hg hy =>
      obtain rfl := Option.some.inj hp
      obtain rfl := Option.some.inj hq
      exact hlt f (List.mem_of_head? hf) g (List.mem_of_head? hg)
    · exact nomatch hq
  · exact nomatch hp

/-- The record of a FULL segment, its first and last found entries known (R143). -/
theorem fullRecord_eq {fs : List Found} {a b : Found} (ha : fs.head? = some a) (hb : fs.getLast? = some b) :
    fullRecord fs = { Segment.freeForm with
      state := .full, firstSeq := some a.header.seq, lastSeq := some b.header.seq,
      fill := b.off + footprint b.header.length } := by
  simp only [fullRecord, ha, hb, Option.map_some, Option.getD_some]

theorem rebuiltSegment_retired {r : Restored} {segs : List (SegId × List Found)} {i : SegId}
    (h : i ∈ r.retired ∨ i ∈ r.excluded) : rebuiltSegment r segs i = { Segment.freeForm with state := .retired } :=
  if_pos (by simpa using h)

theorem rebuiltSegment_full {r : Restored} {segs : List (SegId × List Found)} {i : SegId} {fs : List Found}
    (h : ¬ (i ∈ r.retired ∨ i ∈ r.excluded)) (hsegs : segs.Pairwise (fun p q => p.1 < q.1)) (hmem : (i, fs) ∈ segs) :
    rebuiltSegment r segs i = fullRecord fs := by
  obtain ⟨as, bs, rfl⟩ := List.append_of_mem hmem
  have hfind : (as ++ (i, fs) :: bs).find? (fun x => x.1 == i) = some (i, fs) :=
    List.find?_eq_some_iff_append.mpr ⟨beq_self_eq_true i, as, bs, rfl, fun p hp => by
      have hlt : p.1 < i := (List.pairwise_append.mp hsegs).2.2 p hp (i, fs) List.mem_cons_self
      simpa using hlt.ne⟩
  rw [rebuiltSegment, if_neg (by simpa using h), hfind]

theorem rebuiltSegment_free {r : Restored} {segs : List (SegId × List Found)} {i : SegId}
    (h : ¬ (i ∈ r.retired ∨ i ∈ r.excluded)) (hnone : ∀ fs, (i, fs) ∉ segs) :
    rebuiltSegment r segs i = Segment.freeForm := by
  have hfind : segs.find? (fun x => x.1 == i) = none := List.find?_eq_none.mpr fun p hp heq =>
    hnone p.2 (beq_iff_eq.mp heq ▸ hp)
  rw [rebuiltSegment, if_neg (by simpa using h), hfind]

end

section
variable {s : State} {i : SegId}

theorem foundScans_law (s : State) : ScanLaw (keptScans s.recovery.restored.head s.scanAll) :=
  keptScans_law (scanAll_law s)

theorem recovered_ascending (s : State) : s.recovered.Pairwise (fun p q => p.1 < q.1) :=
  recoveredSegs_ascending (foundScans_law s)

theorem mem_recovered {fs : List Found} : (i, fs) ∈ s.recovered ↔
    fs ∈ keptScans s.recovery.restored.head s.scanAll ∧
      ∃ x, segRange s.recovery.restored.head fs = some (i, x) := mem_recoveredSegs

/-- The entries of a recovered segment: first and last, one of them above head. -/
theorem recovered_entries {fs : List Found} (h : (i, fs) ∈ s.recovered) :
    ∃ a b, fs.head? = some a ∧ fs.getLast? = some b ∧ a.seg = i := by
  obtain ⟨-, x, hrange⟩ := mem_recovered.mp h
  obtain ⟨f, y, hf, hy, heq⟩ := segRange_eq_some_iff.mp hrange
  obtain ⟨-, b, -, hb, -⟩ := recoveredRange_cases hy
  exact ⟨f, b, hf, hb, ((Prod.mk.inj heq).1).symm⟩

/-- A kept scan with an entry above head is that of a recovered segment. -/
theorem recovered_of_above {fs : List Found} (hfs : fs ∈ keptScans s.recovery.restored.head s.scanAll) {f : Found}
    (hf : f ∈ fs) (habove : s.recovery.restored.head < f.header.seq) : (f.seg, fs) ∈ s.recovered := by
  obtain ⟨g, x, hg, -, hrange⟩ := segRange_of_above hf habove
  have hseg : g.seg = f.seg := (foundScans_law s).oneSegment fs hfs g (List.mem_of_head? hg) f hf
  exact mem_recovered.mpr ⟨hfs, x, hseg ▸ hrange⟩

theorem mem_foundAbove {f : Found} : f ∈ s.foundAbove ↔
    ∃ fs ∈ keptScans s.recovery.restored.head s.scanAll, f ∈ fs ∧ s.recovery.restored.head < f.header.seq := by
  rw [State.foundAbove, mem_aboveHead, State.foundEntries, List.mem_flatten]
  grind

/-- The recovered segments are those in which an entry above head was found and kept. -/
theorem exists_recovered_iff : (∃ fs, (i, fs) ∈ s.recovered) ↔ ∃ f ∈ s.foundAbove, f.seg = i := by
  constructor
  · rintro ⟨fs, hfs⟩
    obtain ⟨hkept, x, hrange⟩ := mem_recovered.mp hfs
    obtain ⟨g, y, hg, hy, heq⟩ := segRange_eq_some_iff.mp hrange
    obtain ⟨a, -, ha, -, -⟩ := recoveredRange_cases hy
    have hmem := List.mem_of_find?_eq_some ha
    have habove : s.recovery.restored.head < a.header.seq := by simpa using List.find?_some ha
    have hseg : a.seg = i :=
      ((foundScans_law s).oneSegment fs hkept a hmem g (List.mem_of_head? hg)).trans (Prod.mk.inj heq).1.symm
    exact ⟨a, mem_foundAbove.mpr ⟨fs, hkept, hmem, habove⟩, hseg⟩
  · rintro ⟨f, hf, rfl⟩
    obtain ⟨fs, hkept, hmem, habove⟩ := mem_foundAbove.mp hf
    exact ⟨fs, recovered_of_above hkept hmem habove⟩

/-- A segment that was not scanned has no recovered entries (R139). -/
theorem recovered_scanned {fs : List Found} (h : (i, fs) ∈ s.recovered) :
    ¬ (i ∈ s.recovery.restored.retired ∨ i ∈ s.recovery.restored.excluded) := by
  obtain ⟨a, -, ha, -, rfl⟩ := recovered_entries h
  have hscan := (mem_keptScans.mp (mem_recovered.mp h).1).1
  rw [State.scanAll] at hscan
  split at hscan
  · exact absurd hscan (by simp)
  · obtain ⟨j, hj, rfl⟩ := List.mem_map.mp hscan
    rw [mem_scanSegment_seg (List.mem_of_head? ha)]
    simpa using (List.mem_filter.mp hj).2

/-- Every segment is RETIRED, FULL or FREE after the scan (R142, R143). -/
theorem endScan_seg_cases (s : State) (i : SegId) :
    ((i ∈ s.recovery.restored.retired ∨ i ∈ s.recovery.restored.excluded) ∧
      (endScan s).seg i = { Segment.freeForm with state := .retired }) ∨
    (∃ fs, (i, fs) ∈ s.recovered ∧ (endScan s).seg i = fullRecord fs) ∨
    (¬ (i ∈ s.recovery.restored.retired ∨ i ∈ s.recovery.restored.excluded) ∧ (∀ fs, (i, fs) ∉ s.recovered) ∧
      (endScan s).seg i = Segment.freeForm) := by
  rw [endScan_seg]
  by_cases hretired : i ∈ s.recovery.restored.retired ∨ i ∈ s.recovery.restored.excluded
  · exact .inl ⟨hretired, rebuiltSegment_retired hretired⟩
  · by_cases hfull : ∃ fs, (i, fs) ∈ s.recovered
    · obtain ⟨fs, hfs⟩ := hfull
      exact .inr (.inl ⟨fs, hfs, rebuiltSegment_full hretired (recovered_ascending s) hfs⟩)
    · have hnone := not_exists.mp hfull
      exact .inr (.inr ⟨hretired, hnone, rebuiltSegment_free hretired hnone⟩)

theorem endScan_seg_recovered {fs : List Found} (h : (i, fs) ∈ s.recovered) : (endScan s).seg i = fullRecord fs := by
  rw [endScan_seg, rebuiltSegment_full (recovered_scanned h) (recovered_ascending s) h]

theorem endScan_seg_clean (s : State) (i : SegId) :
    (((endScan s).seg i).state = .free ∨ ((endScan s).seg i).state = .full ∨ ((endScan s).seg i).state = .retired) ∧
      ((endScan s).seg i).unstoredFrom = none ∧ ((endScan s).seg i).inStore = false := by
  rcases endScan_seg_cases s i with ⟨-, h⟩ | ⟨fs, -, h⟩ | ⟨-, -, h⟩ <;> rw [h]
  · exact ⟨.inr (.inr rfl), rfl, rfl⟩
  · exact ⟨.inr (.inl rfl), rfl, rfl⟩
  · exact ⟨.inl rfl, rfl, rfl⟩

theorem endScan_retired_iff : ((endScan s).seg i).state = .retired ↔
    i ∈ s.recovery.restored.retired ∨ i ∈ s.recovery.restored.excluded := by
  rcases endScan_seg_cases s i with ⟨hin, h⟩ | ⟨fs, hfs, h⟩ | ⟨hout, -, h⟩ <;> rw [h]
  · exact iff_of_true rfl hin
  · exact iff_of_false (by simp [fullRecord]) (recovered_scanned hfs)
  · exact iff_of_false (by simp [Segment.freeForm]) hout

theorem endScan_retiredForm_iff : (endScan s).seg i = { Segment.freeForm with state := .retired } ↔
    i ∈ s.recovery.restored.retired ∨ i ∈ s.recovery.restored.excluded :=
  ⟨fun h => endScan_retired_iff.mp (by rw [h]), fun h => by rw [endScan_seg, rebuiltSegment_retired h]⟩

theorem endScan_full_iff_recovered : ((endScan s).seg i).state = .full ↔ ∃ fs, (i, fs) ∈ s.recovered := by
  rcases endScan_seg_cases s i with ⟨hin, h⟩ | ⟨fs, hfs, h⟩ | ⟨-, hnone, h⟩ <;> rw [h]
  · exact iff_of_false (by simp) fun ⟨fs, hfs⟩ => recovered_scanned hfs hin
  · exact iff_of_true rfl ⟨fs, hfs⟩
  · exact iff_of_false (by simp [Segment.freeForm]) fun ⟨fs, hfs⟩ => hnone fs hfs

theorem endScan_free (h : ((endScan s).seg i).state = .free) : (endScan s).seg i = Segment.freeForm := by
  rcases endScan_seg_cases s i with ⟨-, heq⟩ | ⟨fs, -, heq⟩ | ⟨-, -, heq⟩
  · simp [heq] at h
  · simp [heq, fullRecord] at h
  · exact heq

theorem endScan_full_record {fs : List Found} (hfs : fs ∈ keptScans s.recovery.restored.head s.scanAll) {a b : Found}
    (ha : fs.head? = some a) (hb : fs.getLast? = some b) (habove : s.recovery.restored.head < b.header.seq) :
    (endScan s).seg a.seg = { Segment.freeForm with
      state := .full, firstSeq := some a.header.seq, lastSeq := some b.header.seq,
      fill := b.off + footprint b.header.length } := by
  have hmem := List.mem_of_getLast? hb
  have hseg : b.seg = a.seg := (foundScans_law s).oneSegment fs hfs b hmem a (List.mem_of_head? ha)
  rw [endScan_seg_recovered (hseg ▸ recovered_of_above hfs hmem habove), fullRecord_eq ha hb]

/-! ### The chain rebuilt (R143) -/

theorem mem_rebuiltChain {segs : List (SegId × List Found)} : i ∈ rebuiltChain segs ↔ ∃ fs, (i, fs) ∈ segs := by
  rw [rebuiltChain, List.mem_map]
  constructor
  · rintro ⟨p, hp, rfl⟩
    exact ⟨p.2, (sortByKey_perm _ _).mem_iff.mp hp⟩
  · rintro ⟨fs, hfs⟩
    exact ⟨(i, fs), (sortByKey_perm _ _).mem_iff.mpr hfs, rfl⟩

theorem rebuiltChain_nodup {segs : List (SegId × List Found)} (h : segs.Pairwise (fun p q => p.1 < q.1)) :
    (rebuiltChain segs).Nodup :=
  ((sortByKey_perm _ _).map Prod.fst).nodup_iff.mpr (List.pairwise_map.mpr (h.imp fun hlt => hlt.ne))

/-- The chain after the scan holds the FULL segments, each once, by first seq. -/
theorem endScan_chain (s : State) :
    (∀ i, i ∈ (endScan s).journal.chain ↔ ((endScan s).seg i).state = .full) ∧ (endScan s).journal.chain.Nodup ∧
      List.Pairwise (fun i j => ((endScan s).seg i).firstSeq.getD 0 ≤ ((endScan s).seg j).firstSeq.getD 0)
        (endScan s).journal.chain := by
  have hchain : (endScan s).journal.chain = rebuiltChain s.recovered := by
    obtain ⟨-, -, -, hchain, -⟩ := rebuilt_journal s
    rw [(endScan_kept s).1, hchain]
  rw [hchain]
  refine ⟨fun i => mem_rebuiltChain.trans endScan_full_iff_recovered.symm, rebuiltChain_nodup (recovered_ascending s),
    List.pairwise_map.mpr ((sortByKey_sorted _ _).imp_of_mem fun {p q} hp hq hle => ?_)⟩
  rw [endScan_seg_recovered ((sortByKey_perm _ _).mem_iff.mp hp),
    endScan_seg_recovered ((sortByKey_perm _ _).mem_iff.mp hq)]
  exact hle

/-! ### Next seq and next serial (R142, step 3) -/

/-- The greatest of a list of numbers, 0 for none. -/
theorem max?_getD_spec (l : List Nat) : (∀ n ∈ l, n ≤ l.max?.getD 0) ∧ (l = [] ∨ l.max?.getD 0 ∈ l) := by
  cases h : l.max? with
  | none =>
    obtain rfl := List.max?_eq_none_iff.mp h
    simp
  | some m =>
    obtain ⟨hmem, hle⟩ := List.max?_eq_some_iff.mp h
    exact ⟨hle, .inr hmem⟩

theorem max_succ_spec (a : Nat) (l : List Nat) :
    a ≤ max a (l.max?.getD 0 + 1) ∧ (∀ n ∈ l, n < max a (l.max?.getD 0 + 1)) ∧
      (1 ≤ a → max a (l.max?.getD 0 + 1) = a ∨ ∃ n ∈ l, max a (l.max?.getD 0 + 1) = n + 1) := by
  obtain ⟨hle, hmem⟩ := max?_getD_spec l
  refine ⟨le_max_left _ _, fun n hn => ?_, fun ha => ?_⟩
  · have := hle n hn
    omega
  · rcases hmem with rfl | hmem
    · exact .inl (by simpa using ha)
    · rcases Nat.le_total (l.max?.getD 0 + 1) a with h | h
      · exact .inl (max_eq_left h)
      · exact .inr ⟨_, hmem, max_eq_right h⟩

/-- The least number that is at least `a`, past every member of the list, and one of these or one past a member. -/
theorem max_succ_unique {a n : Nat} {l : List Nat} (ha : a ≤ n) (hl : ∀ m ∈ l, m < n)
    (h : (n = a ∧ 1 ≤ n) ∨ ∃ m ∈ l, n = m + 1) : max a (l.max?.getD 0 + 1) = n := by
  obtain ⟨hle, hmem⟩ := max?_getD_spec l
  have htop : l.max?.getD 0 < n := by
    rcases hmem with rfl | hmem
    · rcases h with ⟨-, hpos⟩ | ⟨m, hm, -⟩
      · exact hpos
      · simp at hm
    · exact hl _ hmem
  rcases h with ⟨rfl, -⟩ | ⟨m, hm, rfl⟩
  · exact max_eq_left htop
  · have := hle m hm
    omega

theorem rebuiltSerial_eq {a n : Nat} {all : List Found} (ha : a ≤ n) (hall : ∀ f ∈ all, f.header.serial < n)
    (h : (n = a ∧ 1 ≤ n) ∨ ∃ f ∈ all, n = f.header.serial + 1) :
    rebuiltSerial a all = if n ≤ 2 ^ 32 - 1 then n else 1 := by
  have hmax : max a ((all.map (fun f => f.header.serial)).max?.getD 0 + 1) = n :=
    max_succ_unique ha (by simpa using hall) (by simpa using h)
  rw [rebuiltSerial, hmax]
  split <;> split <;> omega

end

/-! ### The entries of discarded transactions (R141) -/

section
variable {head : Nat} {all : List Found}

theorem mem_discardedSerials {n : Nat} : n ∈ discardedSerials head all ↔
    n ∈ judgedSerials head all ∧ serialKept head n all = false := by
  simp [discardedSerials]

/-- Of an entry above head, its transaction is discarded (R140). -/
theorem discarded_above {f : Found} (hf : f ∈ aboveHead head all) :
    f.header.serial ∈ discardedSerials head all ↔
      f.header.serial ≠ 0 ∧ serialKept head f.header.serial all = false := by
  have hfound : ∃ g ∈ aboveHead head all, g.header.serial = f.header.serial := ⟨f, hf, rfl⟩
  rw [mem_discardedSerials, mem_judgedSerials, and_iff_left hfound]

theorem discards_iff {s : State} {f : Found} : s.Discards f ↔
    f ∈ s.foundAbove ∧ f.header.serial ∈ discardedSerials s.recovery.restored.head s.foundEntries :=
  and_congr_right fun hf => (discarded_above hf).symm

/-- The state bytes of the entries of discarded transactions read VOID; no other byte has changed. -/
theorem endScan_sram (s : State) :
    (∀ f, s.Discards f → (endScan s).journal.sram.read (segBase f.seg + (f.off + 2)) = 2) ∧
      ∀ a, (∀ f, s.Discards f → a ≠ segBase f.seg + (f.off + 2)) →
        (endScan s).journal.sram.read a = s.journal.sram.read a := by
  have hsram : (endScan s).journal.sram = (((s.foundAbove.filter (fun f =>
      (discardedSerials s.recovery.restored.head s.foundEntries).contains f.header.serial)).map
        (fun f => (f.seg, f.off))).foldl markVoid s).journal.sram := by
    obtain ⟨-, -, -, -, -, -, hsram, -⟩ := rebuilt_journal s
    rw [(endScan_kept s).1, hsram, List.foldl_map]
    rfl
  have hmarks : ∀ e, e ∈ (s.foundAbove.filter (fun f =>
      (discardedSerials s.recovery.restored.head s.foundEntries).contains f.header.serial)).map
        (fun f => (f.seg, f.off)) ↔ ∃ f, s.Discards f ∧ (f.seg, f.off) = e := fun e => by
    simp only [List.mem_map, List.mem_filter, List.contains_iff_mem, discards_iff]
  rw [hsram]
  refine ⟨fun f hf => (markVoids_read _ s _).1 ⟨(f.seg, f.off), (hmarks _).mpr ⟨f, hf, rfl⟩, rfl⟩, fun a ha => ?_⟩
  refine (markVoids_read _ s a).2 fun e he => ?_
  obtain ⟨f, hf, rfl⟩ := (hmarks e).mp he
  exact ha f hf

end

end Sys2Proof.Machine


namespace Sys2Proof.Machine

/-! ### The runs of absent sequence numbers (R148) -/

section
variable {last low q x : Nat} {l : List Nat}

theorem mem_absentRuns_nil {r : Nat × Nat} : r ∈ absentRuns last low [] ↔ r = (low, last) ∧ low ≤ last := by
  rw [absentRuns]
  split <;> simp_all

/-- Before a found number there is a run when it is not the one that is due. -/
theorem mem_absentRuns_cons {r : Nat × Nat} : r ∈ absentRuns last low (x :: l) ↔
    (r = (low, x - 1) ∧ low < x) ∨ r ∈ absentRuns last (x + 1) l := by
  rw [absentRuns, List.mem_append]
  split <;> simp_all

/-- The runs lie from `low` on, none of them empty. -/
theorem absentRuns_bounds {r : Nat × Nat} (hl : ∀ n ∈ l, low ≤ n) (hrising : l.Pairwise (· < ·))
    (hr : r ∈ absentRuns last low l) : low ≤ r.1 ∧ r.1 ≤ r.2 := by
  induction l generalizing low with
  | nil =>
    obtain ⟨rfl, hle⟩ := mem_absentRuns_nil.mp hr
    exact ⟨le_rfl, hle⟩
  | cons x xs ih =>
    obtain ⟨hx, hxs⟩ := List.pairwise_cons.mp hrising
    have hlow := hl x List.mem_cons_self
    rcases mem_absentRuns_cons.mp hr with ⟨rfl, hlt⟩ | hr
    · exact ⟨le_rfl, Nat.le_sub_one_of_lt hlt⟩
    · obtain ⟨hfirst, hne⟩ := ih hx hxs hr
      exact ⟨by omega, hne⟩

/-- The runs hold the numbers from `low` to `last` that are not in the list. -/
theorem mem_run_iff (hrising : l.Pairwise (· < ·)) (hl : ∀ n ∈ l, low ≤ n ∧ n ≤ last) :
    (∃ r ∈ absentRuns last low l, r.1 ≤ q ∧ q ≤ r.2) ↔ low ≤ q ∧ q ≤ last ∧ q ∉ l := by
  induction l generalizing low with
  | nil =>
    simp only [mem_absentRuns_nil, List.not_mem_nil, not_false_eq_true, and_true]
    constructor
    · rintro ⟨r, ⟨rfl, -⟩, hq⟩
      exact hq
    · exact fun hq => ⟨_, ⟨rfl, hq.1.trans hq.2⟩, hq⟩
  | cons x xs ih =>
    obtain ⟨hx, hxs⟩ := List.pairwise_cons.mp hrising
    obtain ⟨hlow, hhigh⟩ := hl x List.mem_cons_self
    have hrest := ih hxs (low := x + 1) fun n hn => ⟨hx n hn, (hl n (List.mem_cons_of_mem _ hn)).2⟩
    have hbelow : q < x → q ∉ xs := fun hq hmem => absurd (hx q hmem) (by omega)
    have hsplit : (∃ r ∈ absentRuns last low (x :: xs), r.1 ≤ q ∧ q ≤ r.2) ↔
        (low ≤ q ∧ q < x) ∨ ∃ r ∈ absentRuns last (x + 1) xs, r.1 ≤ q ∧ q ≤ r.2 := by
      simp only [mem_absentRuns_cons, or_and_right, exists_or]
      refine or_congr_left ⟨?_, fun hq => ⟨_, ⟨rfl, hq.1.trans_lt hq.2⟩, hq.1, Nat.le_sub_one_of_lt hq.2⟩⟩
      rintro ⟨r, ⟨rfl, hlt⟩, hq, hq'⟩
      exact ⟨hq, by simp only at hq'; omega⟩
    rw [hsplit, hrest, List.mem_cons, not_or]
    constructor
    · rintro (⟨h, hlt⟩ | ⟨h, hle, hnot⟩)
      · exact ⟨h, by omega, by omega, hbelow hlt⟩
      · exact ⟨by omega, hle, by omega, hnot⟩
    · rintro ⟨h, hle, hne, hnot⟩
      rcases Nat.lt_or_gt_of_ne hne with hlt | hgt
      · exact .inl ⟨h, hlt⟩
      · exact .inr ⟨hgt, hle, hnot⟩

/-- Between two runs stands at least one found number. -/
theorem absentRuns_apart (hrising : l.Pairwise (· < ·)) :
    (absentRuns last low l).Pairwise (fun r r' => r.2 + 1 < r'.1) := by
  induction l generalizing low with
  | nil =>
    rw [absentRuns]
    split <;> simp
  | cons x xs ih =>
    obtain ⟨hx, hxs⟩ := List.pairwise_cons.mp hrising
    rw [absentRuns]
    split
    · next hlt =>
      refine List.pairwise_cons.mpr ⟨fun r hr => ?_, ih hxs⟩
      obtain ⟨hfirst, -⟩ := absentRuns_bounds hx hxs hr
      simp only
      omega
    · exact ih hxs

end

/-! ### The report (R147, R148) -/

section
variable {r : Restored} {all : List Found} {lost : Bool} {t : State}

/-- The report lists the runs of absent sequence numbers up to next seq - 1 (R148). -/
theorem buildReport_absent (hnodup : ((aboveHead r.head all).map (fun f => f.header.seq)).Nodup)
    (hnext : ∀ f ∈ all, f.header.seq < t.journal.nextSeq) :
    AbsentReported r.head t.journal.nextSeq (aboveHead r.head all) (buildReport r all lost t) := by
  have hmem : ∀ q, q ∈ sortByKey (fun n => n) ((aboveHead r.head all).map (fun f => f.header.seq)) ↔
      ∃ f ∈ aboveHead r.head all, f.header.seq = q := fun q => by
    rw [(sortByKey_perm _ _).mem_iff, List.mem_map]
  have hrising : (sortByKey (fun n => n) ((aboveHead r.head all).map (fun f => f.header.seq))).Pairwise (· < ·) :=
    (sortByKey_sorted _ _).imp₂ (fun _ _ hle hne => lt_of_le_of_ne hle hne)
      ((sortByKey_perm _ _).nodup_iff.mpr hnodup)
  have hbounds : ∀ q ∈ sortByKey (fun n => n) ((aboveHead r.head all).map (fun f => f.header.seq)),
      r.head + 1 ≤ q ∧ q ≤ t.journal.nextSeq - 1 := fun q hq => by
    obtain ⟨f, hf, rfl⟩ := (hmem q).mp hq
    obtain ⟨hall, habove⟩ := mem_aboveHead.mp hf
    exact ⟨habove, Nat.le_sub_one_of_lt (hnext f hall)⟩
  refine ⟨_, fun q => ?_, fun run hrun => (absentRuns_bounds (fun n hn => (hbounds n hn).1) hrising hrun).2,
    absentRuns_apart hrising, rfl, rfl, rfl⟩
  rw [mem_run_iff hrising hbounds, hmem]
  simp only [not_exists, not_and]
  exact ⟨fun ⟨hlow, hhigh, hnot⟩ => ⟨hlow, by omega, hnot⟩, fun ⟨hlow, hhigh, hnot⟩ => ⟨hlow, by omega, hnot⟩⟩

/-- A found entry above head is a recovered live entry when it is LIVE and its transaction, if any, is kept (R141). -/
theorem countsLive_above {f : Found} (hf : f ∈ aboveHead r.head all) :
    countsLive (discardedSerials r.head all) f =
      (f.header.stateByte == 1 && (f.header.serial == 0 || serialKept r.head f.header.serial all)) := by
  have hgone : (discardedSerials r.head all).contains f.header.serial =
      !(f.header.serial == 0 || serialKept r.head f.header.serial all) := by
    rw [Bool.eq_iff_iff, List.contains_iff_mem, discarded_above hf]
    simp
  rw [countsLive, hgone, Bool.not_not]
  rfl

/-- The counts of entries and of transactions (R147). -/
theorem buildReport_counts :
    (buildReport r all lost t).liveEntries = (aboveHead r.head all).countP (fun f => f.header.stateByte == 1 &&
        (f.header.serial == 0 || serialKept r.head f.header.serial all)) ∧
      (buildReport r all lost t).liveEntries + (buildReport r all lost t).voidEntries =
        (aboveHead r.head all).length ∧
      (buildReport r all lost t).discardedTxns =
        (judgedSerials r.head all).countP (fun n => !serialKept r.head n all) ∧
      (buildReport r all lost t).sealedTxns + (buildReport r all lost t).discardedTxns =
        (judgedSerials r.head all).length := by
  refine ⟨List.countP_congr fun f hf => by rw [countsLive_above hf], ?_, List.countP_eq_length_filter.symm, ?_⟩
  · rw [List.length_eq_countP_add_countP (countsLive (discardedSerials r.head all))]
    exact congrArg _ (List.countP_congr fun f _ => by simp)
  · exact Nat.sub_add_cancel (List.length_filter_le _ _)

/-- The segments newly RETIRED are those excluded from the scan beyond the retired set (R147). -/
theorem buildReport_segmentsRetired {p : SegId → Bool} (hp : ∀ i, p i = true ↔ i ∈ r.retired ∨ i ∈ r.excluded) :
    (buildReport r all lost t).segmentsRetired =
      (List.finRange 512).countP (fun i => p i && !r.retired.contains i) := by
  rw [List.countP_eq_length_filter]
  refine List.Perm.length_eq ((List.perm_ext_iff_of_nodup ((nodup_eraseDups _).filter _)
    ((List.nodup_finRange 512).filter _)).mpr fun i => ?_)
  simp only [List.mem_filter, List.mem_eraseDups, List.mem_finRange, true_and, Bool.and_eq_true, hp,
    Bool.not_eq_true', ← Bool.not_eq_true, List.contains_iff_mem]
  tauto

end

/-! ### The clock's decision (R116) -/

theorem Stamp.le_refl (a : Stamp) : Stamp.le a a = true := by simp [Stamp.le]

theorem Stamp.le_of_not_le {a b : Stamp} (h : ¬ Stamp.le a b = true) : Stamp.le b a = true := by
  simp only [Stamp.le, Bool.or_eq_true, Bool.and_eq_true, decide_eq_true_eq, beq_iff_eq] at *
  omega

theorem Stamp.le_trans {a b c : Stamp} (hab : Stamp.le a b = true) (hbc : Stamp.le b c = true) :
    Stamp.le a c = true := by
  simp only [Stamp.le, Bool.or_eq_true, Bool.and_eq_true, decide_eq_true_eq, beq_iff_eq] at *
  omega

/-- The greatest of the stamps, of which there is at least one. -/
theorem greatest_some_iff {l : List Stamp} {x : Stamp} :
    Greatest l (some x) ↔ x ∈ l ∧ ∀ y ∈ l, Stamp.le y x = true := by
  constructor
  · rintro ⟨hempty, hfull⟩
    obtain ⟨y, hy, heq, hle⟩ := hfull fun h => nomatch hempty h
    obtain rfl := Option.some.inj heq
    exact ⟨hy, hle⟩
  · rintro ⟨hx, hle⟩
    exact ⟨fun h => absurd hx (by simp [h]), fun _ => ⟨x, hx, rfl, hle⟩⟩

theorem greatest_none_iff {l : List Stamp} : Greatest l none ↔ l = [] := by
  constructor
  · rintro ⟨-, hfull⟩
    by_contra hne
    obtain ⟨y, -, heq, -⟩ := hfull hne
    exact nomatch heq
  · rintro rfl
    exact ⟨fun _ => rfl, fun h => absurd rfl h⟩

theorem greatest_toList (m : Option Stamp) : Greatest m.toList m := by
  cases m with
  | none => exact greatest_none_iff.mpr rfl
  | some x => exact greatest_some_iff.mpr (by simp [Stamp.le_refl])

/-- The greater of two greatest stamps is the greatest of both lists. -/
theorem Greatest.append {l k : List Stamp} {m n : Option Stamp} (hl : Greatest l m) (hk : Greatest k n) :
    Greatest (l ++ k) (Stamp.greater m n) := by
  cases m with
  | none =>
    obtain rfl := greatest_none_iff.mp hl
    exact hk
  | some x =>
    cases n with
    | none =>
      obtain rfl := greatest_none_iff.mp hk
      rw [List.append_nil]
      exact hl
    | some y =>
      obtain ⟨hx, hlx⟩ := greatest_some_iff.mp hl
      obtain ⟨hy, hky⟩ := greatest_some_iff.mp hk
      rw [Stamp.greater]
      split
      · next hle =>
        refine greatest_some_iff.mpr ⟨List.mem_append_right _ hy, fun z hz => ?_⟩
        exact (List.mem_append.mp hz).elim (fun hz => Stamp.le_trans (hlx z hz) hle) (hky z)
      · next hnot =>
        refine greatest_some_iff.mpr ⟨List.mem_append_left _ hx, fun z hz => ?_⟩
        exact (List.mem_append.mp hz).elim (hlx z) fun hz => Stamp.le_trans (hky z hz) (Stamp.le_of_not_le hnot)

theorem greatest_foldl (all : List Found) {l : List Stamp} {m : Option Stamp} (h : Greatest l m) :
    Greatest (l ++ all.map (fun f => f.header.stamp))
      (all.foldl (fun m f => Stamp.greater m (some f.header.stamp)) m) := by
  induction all generalizing l m with
  | nil => simpa using h
  | cons f fs ih => simpa using ih (h.append (greatest_toList (some f.header.stamp)))

/-- The stamp that the clock decides against is the greatest found or carried (R116, R144). -/
theorem greatestStamp_spec (s : State) : Greatest s.handedStamps s.greatestStamp :=
  (greatest_toList _).append (greatest_foldl s.foundEntries (l := []) (greatest_none_iff.mpr rfl))

theorem decidesLost_eq_false_iff {k : Clock} {m : Option Stamp} : k.decidesLost m = false ↔ k.Continues m := by
  cases m <;> simp [Clock.decidesLost, Clock.Continues]

/-- The model's decision is that of R116. -/
theorem clockDecision (k : Clock) (m : Option Stamp) (valid : Bool) :
    ClockDecision k m valid (k.decided m valid) (k.decidesLost m) := by
  refine ⟨fun hcontinues => ?_, fun hlost => ?_⟩
  · have hkept := decidesLost_eq_false_iff.mpr hcontinues
    exact ⟨hkept, by simp [Clock.decided, hkept]⟩
  · have hgone : k.decidesLost m = true := by
      rwa [← decidesLost_eq_false_iff, Bool.not_eq_false] at hlost
    simp only [Clock.decided, hgone, if_true]
    cases m with
    | none => simp
    | some x => by_cases hepoch : x.epoch = 65535 <;> simp [hepoch]

end Sys2Proof.Machine


namespace Sys2Proof.Machine

/-! ### The report and the journal at the end of the scan (R142, R147) -/

section
variable {r : Restored} {all : List Found} {lost : Bool} {t : State}

theorem buildReport_values :
    (buildReport r all lost t).outcome = t.recovery.outcome ∧ (buildReport r all lost t).format = r.format ∧
      (buildReport r all lost t).head = r.head ∧ (buildReport r all lost t).nextSeq = t.journal.nextSeq ∧
      (buildReport r all lost t).nextSerial = t.txns.nextSerial ∧ (buildReport r all lost t).clockLost = lost ∧
      (buildReport r all lost t).storedAtLoss = t.recovery.mark.map ClosingMark.storedCount :=
  ⟨rfl, rfl, rfl, rfl, rfl, rfl, rfl⟩

/-- What the report tells of the checkpoint chosen (R147). -/
theorem buildReport_checkpoint {y : Checkpoint} (h : t.recovery.checkpoint = some y) :
    (buildReport r all lost t).checkpointUsed = t.recovery.slot.map (fun slot => (slot, y.generation)) ∧
      (buildReport r all lost t).exposedAtLoss = (y.emergency && y.exposedAtEmergency) ∧
      (buildReport r all lost t).dirtyAtLoss = (if y.emergency then y.dirtyAtEmergency else 0) := by
  cases hslot : t.recovery.slot <;> simp [buildReport, h, hslot]

theorem buildReport_no_checkpoint (h : t.recovery.checkpoint = none) :
    (buildReport r all lost t).checkpointUsed = none ∧ (buildReport r all lost t).exposedAtLoss = false ∧
      (buildReport r all lost t).dirtyAtLoss = 0 := by
  simp [buildReport, h]

theorem mem_listedMark {c : Recovery} {m : ClosingMark} :
    c.listedMark = some m ↔ c.outcome = .clean ∧ c.mark = some m := by
  simp [Recovery.listedMark]

/-- Failures are unlisted exactly when the mark that decided a CLEAN outcome overflowed (R147). -/
theorem buildReport_unlisted : (buildReport r all lost t).unlistedFailures = true ↔
    t.recovery.outcome = .clean ∧ ∃ m, t.recovery.mark = some m ∧ m.overflow = true := by
  rw [← exists_and_left]
  simp only [← and_assoc, ← mem_listedMark]
  cases hmark : t.recovery.listedMark <;> simp [buildReport, hmark]

end

section
variable (s : State)

theorem endScan_journal :
    (endScan s).journal.format = s.recovery.restored.format ∧ (endScan s).journal.head = s.recovery.restored.head ∧
      (endScan s).journal.nextSeq = s.rebuiltNext ∧
      (endScan s).journal.formatted = (s.recovery.outcome != .unformatted) ∧ (endScan s).journal.full = false ∧
      (endScan s).txns.table = [] ∧
      (endScan s).txns.nextSerial = rebuiltSerial s.recovery.restored.nextSerial s.foundEntries := by
  obtain ⟨hformat, hhead, hnext, -, hformatted, hfull, -, htable, hserial, -⟩ := rebuilt_journal s
  obtain ⟨hjournal, htxns, -⟩ := endScan_kept s
  rw [hjournal, htxns]
  exact ⟨hformat, hhead, hnext, hformatted, hfull, htable, hserial⟩

/-- The report carries the values of the end of the scan, the outcome, and the count of the mark kept (R147). -/
theorem scanReport_values :
    s.scanReport.outcome = s.recovery.outcome ∧ s.scanReport.format = (endScan s).journal.format ∧
      s.scanReport.head = (endScan s).journal.head ∧ s.scanReport.nextSeq = (endScan s).journal.nextSeq ∧
      s.scanReport.nextSerial = (endScan s).txns.nextSerial ∧
      s.scanReport.storedAtLoss = s.recovery.mark.map ClosingMark.storedCount := by
  obtain ⟨hformat, hhead, -⟩ := endScan_journal s
  obtain ⟨hjournal, htxns, -⟩ := endScan_kept s
  obtain ⟨houtcome, hformat', hhead', hnext', hserial', -, hstored⟩ := buildReport_values
    (r := s.recovery.restored) (all := s.foundEntries) (lost := s.clock.decidesLost s.greatestStamp) (t := s.rebuilt)
  rw [(rebuilt_kept s).2.2.1] at houtcome hstored
  rw [hformat, hhead, hjournal, htxns]
  exact ⟨houtcome, hformat', hhead', hnext', hserial', hstored⟩

/-- The recovery checkpoint carries the values of the end of the scan, its retired set and an empty failed set
(R145). -/
theorem recoveryCheckpoint_values :
    s.recoveryCheckpoint.head = (endScan s).journal.head ∧
      s.recoveryCheckpoint.nextSeq = (endScan s).journal.nextSeq ∧
      s.recoveryCheckpoint.format = (endScan s).journal.format ∧
      s.recoveryCheckpoint.nextSerial = (endScan s).txns.nextSerial ∧ s.recoveryCheckpoint.emergency = false ∧
      (∀ i, i ∈ s.recoveryCheckpoint.retired ↔ ((endScan s).seg i).state = .retired) ∧
      s.recoveryCheckpoint.failed = [] := by
  obtain ⟨hhead, hnext, hformat, hserial, hbackground, hretired, hfailed⟩ := backgroundCheckpoint_values s.decided
  rw [← endScan_eq] at hhead hnext hformat hserial hretired hfailed
  refine ⟨hhead, hnext, hformat, hserial, hbackground, fun i => ?_, ?_⟩
  · rw [State.recoveryCheckpoint, hretired, mem_segsIn]
  · rw [State.recoveryCheckpoint, hfailed]
    refine List.eq_nil_iff_forall_not_mem.mpr fun i hi => ?_
    obtain ⟨hstate, -⟩ := endScan_seg_clean s i
    simp [mem_segsIn.mp hi] at hstate

theorem found_lt_rebuiltNext {s : State} {f : Found} (hf : f ∈ s.foundEntries) : f.header.seq < s.rebuiltNext :=
  (max_succ_spec _ _).2.1 _ (List.mem_map_of_mem hf)

theorem scanReport_absent :
    AbsentReported (endScan s).journal.head (endScan s).journal.nextSeq s.foundAbove s.scanReport := by
  obtain ⟨-, hhead, hnext, -⟩ := endScan_journal s
  obtain ⟨-, -, hrebuilt, -⟩ := rebuilt_journal s
  rw [hhead, hnext, ← hrebuilt]
  exact buildReport_absent (keptScans_nodup (scanAll_law s)) fun f hf => hrebuilt ▸ found_lt_rebuiltNext hf

end

section
variable {s : State} {y : Checkpoint}

/-- What is not scanned, in the words of the checkpoint and of the mark (R136, R139). -/
theorem excluded_iff (h : s.recovery.checkpoint = some y) (i : SegId) :
    (i ∈ s.recovery.restored.retired ∨ i ∈ s.recovery.restored.excluded) ↔
      i ∈ y.retired ∨ i ∈ y.failed ∨
        (s.recovery.outcome = .clean ∧ ∃ m, s.recovery.mark = some m ∧ i ∈ m.failedList) := by
  obtain ⟨-, -, -, -, hretired, hexcluded⟩ := restored_formatted h
  rw [hretired, hexcluded, List.mem_append, ← exists_and_left]
  simp only [← and_assoc, ← mem_listedMark]
  cases hmark : s.recovery.listedMark <;> simp

/-- With a checkpoint the counters go on from it and from what was found (R142, step 3). -/
theorem endScan_formatted (h : s.recovery.checkpoint = some y) :
    (endScan s).journal.format = y.format ∧ (endScan s).journal.head = y.head ∧
      y.nextSeq ≤ (endScan s).journal.nextSeq ∧
      (∀ f ∈ s.foundEntries, f.header.seq < (endScan s).journal.nextSeq) ∧
      (1 ≤ y.nextSeq → (endScan s).journal.nextSeq = y.nextSeq ∨
        ∃ f ∈ s.foundEntries, (endScan s).journal.nextSeq = f.header.seq + 1) ∧
      (∀ n, y.nextSerial ≤ n → (∀ f ∈ s.foundEntries, f.header.serial < n) →
        (n = y.nextSerial ∧ 1 ≤ n) ∨ (∃ f ∈ s.foundEntries, n = f.header.serial + 1) →
        (endScan s).txns.nextSerial = if n ≤ 2 ^ 32 - 1 then n else 1) ∧
      ∀ i, (endScan s).seg i = { Segment.freeForm with state := .retired } ↔
        i ∈ y.retired ∨ i ∈ y.failed ∨
          (s.recovery.outcome = .clean ∧ ∃ m, s.recovery.mark = some m ∧ i ∈ m.failedList) := by
  obtain ⟨hformat, hhead, hseq, hserial, -, -⟩ := restored_formatted h
  obtain ⟨hformat', hhead', hnext, -, -, -, hserial'⟩ := endScan_journal s
  obtain ⟨hle, hlt, hleast⟩ := max_succ_spec s.recovery.restored.nextSeq (s.foundEntries.map (fun f => f.header.seq))
  rw [hformat', hhead', hnext, hserial', hformat, hhead, hserial, ← hseq]
  refine ⟨rfl, rfl, hle, fun f hf => hlt _ (List.mem_map_of_mem hf), fun hpos => ?_,
    fun n hn hall hcase => rebuiltSerial_eq hn hall hcase, fun i => endScan_retiredForm_iff.trans (excluded_iff h i)⟩
  exact (hleast hpos).imp_right fun ⟨n, hn, heq⟩ => by
    obtain ⟨f, hf, rfl⟩ := List.mem_map.mp hn
    exact ⟨f, hf, heq⟩

/-- What the report tells of the checkpoint, and the segments newly RETIRED (R147). -/
theorem scanReport_formatted (h : s.recovery.checkpoint = some y) :
    s.scanReport.checkpointUsed = s.recovery.slot.map (fun slot => (slot, y.generation)) ∧
      s.scanReport.segmentsRetired = (List.finRange 512).countP (fun i =>
        ((endScan s).seg i).state == .retired && !y.retired.contains i) ∧
      s.scanReport.exposedAtLoss = (y.emergency && y.exposedAtEmergency) ∧
      s.scanReport.dirtyAtLoss = (if y.emergency then y.dirtyAtEmergency else 0) := by
  have hrecovery := (rebuilt_kept s).2.2.1
  obtain ⟨hused, hexposed, hdirty⟩ := buildReport_checkpoint (r := s.recovery.restored) (all := s.foundEntries)
    (lost := s.clock.decidesLost s.greatestStamp) (t := s.rebuilt) (hrecovery ▸ h)
  rw [hrecovery] at hused
  obtain ⟨-, -, -, -, hretired, -⟩ := restored_formatted h
  rw [← hretired]
  exact ⟨hused, buildReport_segmentsRetired fun i => beq_iff_eq.trans endScan_retired_iff, hexposed, hdirty⟩

theorem restored_unformatted {c : Recovery} (h : c.checkpoint = none) :
    c.restored = { format := 0, head := 0, nextSeq := 1, nextSerial := 1, retired := [], excluded := [] } := by
  simp [Recovery.restored, h]

/-- With no checkpoint nothing is found. -/
theorem foundEntries_unformatted (h : s.recovery.checkpoint = none) :
    s.foundEntries = [] ∧ ∀ i fs, (i, fs) ∉ s.recovered := by
  have hnone : keptScans s.recovery.restored.head s.scanAll = [] :=
    List.eq_nil_iff_forall_not_mem.mpr fun fs hfs => by
      have hscan := (mem_keptScans.mp hfs).1
      simp [scanAll_unformatted h] at hscan
  refine ⟨by rw [State.foundEntries, hnone, List.flatten_nil], fun i fs hfs => ?_⟩
  have hkept := (mem_recovered.mp hfs).1
  simp [hnone] at hkept

/-- With no checkpoint the journal is empty (R144). -/
theorem endScan_unformatted (h : s.recovery.checkpoint = none) :
    (endScan s).journal.nextSeq = 1 ∧ (endScan s).journal.head = 0 ∧ (endScan s).journal.format = 0 ∧
      (endScan s).journal.chain = [] ∧ (endScan s).txns.nextSerial = 1 ∧
      ∀ i, (endScan s).seg i = Segment.freeForm := by
  obtain ⟨hfound, hrecovered⟩ := foundEntries_unformatted h
  obtain ⟨hformat, hhead, hnext, -, -, -, hserial⟩ := endScan_journal s
  obtain ⟨hchain, -⟩ := endScan_chain s
  have hfree : ∀ i, (endScan s).seg i = Segment.freeForm := fun i => by
    rw [endScan_seg]
    exact rebuiltSegment_free (by simp [restored_unformatted h]) (hrecovered i)
  rw [hformat, hhead, hnext, hserial, State.rebuiltNext, hfound, restored_unformatted h]
  refine ⟨by simp, rfl, rfl, ?_, by simp [rebuiltSerial], hfree⟩
  exact List.eq_nil_iff_forall_not_mem.mpr fun i hi => by
    have hfull := (hchain i).mp hi
    simp [hfree i, Segment.freeForm] at hfull

theorem scanReport_unformatted (h : s.recovery.checkpoint = none) :
    s.scanReport.checkpointUsed = none ∧ s.scanReport.segmentsRetired = 0 ∧ s.scanReport.exposedAtLoss = false ∧
      s.scanReport.dirtyAtLoss = 0 := by
  obtain ⟨hused, hexposed, hdirty⟩ := buildReport_no_checkpoint (r := s.recovery.restored) (all := s.foundEntries)
    (lost := s.clock.decidesLost s.greatestStamp) (t := s.rebuilt) ((rebuilt_kept s).2.2.1 ▸ h)
  refine ⟨hused, ?_, hexposed, hdirty⟩
  rw [State.scanReport, buildReport_segmentsRetired (p := fun _ => false) (by simp [restored_unformatted h])]
  simp

end

/-- Settles O60: the segments, the chain, the counters, the transactions marked VOID, the recovery checkpoint, the
report and the clock's decision, each from its own block of the scan's end. -/
theorem scanRule : Obligations.ScanRule := by
  intro s hd hscan
  obtain ⟨hop, hqueue, hstored⟩ := endScan_store s
  obtain ⟨-, -, hclock, hbuilding, hscanned⟩ := endScan_kept s
  obtain ⟨-, -, -, hformatted, hfull, htable, -⟩ := endScan_journal s
  obtain ⟨houtcome, hbformat, hbhead, hbnext, hbserial, hbstored⟩ := scanReport_values s
  obtain ⟨hxhead, hxnext, hxformat, hxserial, hxbackground, hxretired, hxfailed⟩ := recoveryCheckpoint_values s
  obtain ⟨hchain, hchainNodup, hchainSorted⟩ := endScan_chain s
  obtain ⟨hvoid, hbytes⟩ := endScan_sram s
  obtain ⟨hlive, hentries, hdiscarded, hjudged⟩ := buildReport_counts
    (r := s.recovery.restored) (all := s.foundEntries) (lost := s.clock.decidesLost s.greatestStamp) (t := s.rebuilt)
  have hunlisted := buildReport_unlisted
    (r := s.recovery.restored) (all := s.foundEntries) (lost := s.clock.decidesLost s.greatestStamp) (t := s.rebuilt)
  rw [(rebuilt_kept s).2.2.1] at hunlisted
  have hdecision := clockDecision s.clock s.greatestStamp
    ((s.recovery.checkpoint.map Checkpoint.clockValid).getD false)
  rw [← hclock] at hdecision
  exact ⟨endScan s, s.recoveryCheckpoint, s.scanReport, exec_endOfScan hd hscan, (endScan_device s).trans hd,
    endScan_seg_clean s, htable, hstored, hqueue, hop, hxhead, hxnext, hxformat, hxbackground, hscanned, hbuilding,
    hbnext, hbhead, houtcome, hformatted, fun y hy => endScan_formatted hy,
    fun fs hfs a b ha hb habove => endScan_full_record hfs ha hb habove,
    fun i => endScan_full_iff_recovered.trans exists_recovered_iff, fun i => endScan_free, hchain, hchainNodup,
    hchainSorted, hfull, hxserial, hbserial, hbformat, hbstored, fun y hy => scanReport_formatted hy,
    scanReport_unformatted, hunlisted, hxretired, hxfailed, endScan_unformatted, hvoid, hbytes, hlive, hentries,
    hdiscarded, hjudged, scanReport_absent s, s.greatestStamp, greatestStamp_spec s, hdecision⟩

end Sys2Proof.Machine


namespace Sys2Proof.Machine

/-! ### Eligibility, and the channel next in turn (R153, R157, R158) -/

theorem eligible_iff (s : State) (c : ChanId) :
    s.eligible c = true ↔ s.device = .running ∧ s.cc.fetchPaused = false ∧ (s.chan c).state = .active ∧
      1 ≤ ((s.chan c).hostProducer + (s.chan c).reqSlots - (s.chan c).reqConsumer) % (s.chan c).reqSlots ∧
      (s.chan c).inFlight +
          ((s.chan c).cplNext + (s.chan c).cplSlots - (s.chan c).hostConsumer) % (s.chan c).cplSlots + 1 ≤
        (s.chan c).cplSlots - 1 ∧ (s.chan c).exec = none := by
  simp only [State.eligible, Channel.credit, Bool.and_eq_true, Bool.not_eq_true', beq_iff_eq, decide_eq_true_eq,
    Option.isNone_iff_eq_none, and_assoc, Nat.succ_le_iff]
  rfl

/-- Eligibility reads the device state, the fetch-paused flag and the channel's record, but for what stands outside of
R157 and R158: whether the channel executes, and not what. -/
theorem eligible_congr {s u : State} {d : ChanId} (hdevice : u.device = s.device)
    (hpaused : u.cc.fetchPaused = s.cc.fetchPaused) (hstate : (u.chan d).state = (s.chan d).state)
    (hpending : (u.chan d).pendingRecords = (s.chan d).pendingRecords) (hcredit : (u.chan d).credit = (s.chan d).credit)
    (hexec : (u.chan d).exec.isNone = (s.chan d).exec.isNone) : u.eligible d = s.eligible d := by
  simp only [State.eligible, hdevice, hpaused, hstate, hpending, hcredit, hexec]

theorem eligible_of_chan {s u : State} {d : ChanId} (hdevice : u.device = s.device)
    (hpaused : u.cc.fetchPaused = s.cc.fetchPaused) (hchan : u.chan d = s.chan d) : u.eligible d = s.eligible d :=
  eligible_congr hdevice hpaused (by rw [hchan]) (by rw [hchan]) (by rw [hchan]) (by rw [hchan])

/-- The serving order is the order of the turns. -/
theorem servingOrder_rising (last : ChanId) :
    (servingOrder last).Pairwise (fun c d => (c.val + 15 - last.val) % 16 < (d.val + 15 - last.val) % 16) := by
  revert last; decide

/-- The arbiter's search finds the eligible channel next in turn. -/
theorem find?_servingOrder {s : State} {c : ChanId} (hc : s.eligible c = true)
    (hfirst : ∀ d, s.eligible d = true → s.turn c ≤ s.turn d) :
    (servingOrder s.cc.lastServed).find? s.eligible = some c := by
  cases hfind : (servingOrder s.cc.lastServed).find? s.eligible with
  | none => exact absurd hc (List.find?_eq_none.mp hfind c (mem_servingOrder _ c))
  | some e =>
    obtain ⟨he, before, after, hsplit, hbefore⟩ := List.find?_eq_some_iff_append.mp hfind
    have hmem := mem_servingOrder s.cc.lastServed c
    have hrising := servingOrder_rising s.cc.lastServed
    rw [hsplit] at hmem hrising
    rcases List.mem_append.mp hmem with hearlier | hlater
    · simpa [hc] using hbefore c hearlier
    · rcases List.mem_cons.mp hlater with rfl | hlater
      · rfl
      · obtain ⟨-, hrest, -⟩ := List.pairwise_append.mp hrising
        have hturn : s.turn e < s.turn c := List.rel_of_pairwise_cons hrest hlater
        exact absurd (hfirst e he) (Nat.not_le.mpr hturn)

/-- The arbiter with a channel to serve: it becomes the last-served, its in-flight count rises by one, and the read of its
next record begins (R157). -/
theorem fetchArbiter_serves {s : State} {c : ChanId} (hfetch : s.cc.fetch = none) (hc : s.eligible c = true)
    (hfirst : ∀ d, s.eligible d = true → s.turn c ≤ s.turn d) :
    fetchArbiter s =
      (State.setChan { s with cc.fetch := some c, cc.lastServed := c } c
        { s.chan c with inFlight := (s.chan c).inFlight + 1 }).emit
        (.read ((s.chan c).reqAddr + BitVec.ofNat 64 (64 * (s.chan c).reqConsumer)) 64) := by
  simp only [fetchArbiter, hfetch, find?_servingOrder hc hfirst]

theorem fetchArbiter_busy {s : State} (h : s.cc.fetch ≠ none) : fetchArbiter s = s := by
  obtain ⟨c, hc⟩ := Option.ne_none_iff_exists'.mp h
  simp [fetchArbiter, hc]

theorem fetchArbiter_idle {s : State} (hfetch : s.cc.fetch = none) (h : ∀ c, s.eligible c = false) :
    fetchArbiter s = s := by
  have hnone : (servingOrder s.cc.lastServed).find? s.eligible = none := List.find?_eq_none.mpr (by simp [h])
  simp only [fetchArbiter, hfetch, hnone]

theorem fetchArbiter_contents (s : State) : SameContents s (fetchArbiter s) := by
  refine ⟨⟨by simp, by simp, by simp, by simp, by simp, by simp, fetchArbiter_segments s⟩, ?_⟩
  unfold SameUnits
  simp

/-- A host reset takes the device from RUNNING to READY and leaves every other state (R166). -/
theorem hostReset_device {s : State} (h : s.device ≠ .off) :
    (hostReset s).device = if s.device = .running then .ready else s.device := by
  simp [hostReset, h, dropHostWork]

/-! ### The arbiter acts within every event (R157, log entry 12) -/

/-- A command has left the fetch in flight and every channel's eligibility as they were, or the arbiter at rest. -/
def ArbiterDone (s u : State) : Prop :=
  (u.cc.fetch = s.cc.fetch ∧ ∀ d, u.eligible d = s.eligible d) ∨ u.ArbiterAtRest

namespace ArbiterDone
variable {s u : State}

theorem refl (s : State) : ArbiterDone s s := Or.inl ⟨rfl, fun _ => rfl⟩

theorem settle (test : Bool) : ArbiterDone s (settle test u) := Or.inr (settle_atRest test u)

/-- Outside RUNNING no channel is eligible. -/
theorem of_stopped (h : u.device ≠ .running) : ArbiterDone s u :=
  Or.inr fun _ d => by simp [State.eligible, h]

/-- What touches neither a channel's record, the fetch in flight, the fetch-paused flag nor the device state. -/
theorem same {t : State} (h : ArbiterDone s t) (hchans : u.cc.chans = t.cc.chans := by simp)
    (hfetch : u.cc.fetch = t.cc.fetch := by simp) (hpaused : u.cc.fetchPaused = t.cc.fetchPaused := by simp)
    (hdevice : u.device = t.device := by simp) : ArbiterDone s u := by
  have helig : ∀ d, u.eligible d = t.eligible d :=
    fun d => eligible_of_chan hdevice hpaused (by simp only [State.chan, hchans])
  refine h.imp (fun ⟨hf, he⟩ => ⟨hfetch.trans hf, fun d => (helig d).trans (he d)⟩) (fun hrest hnone d => ?_)
  rw [helig]
  exact hrest (hfetch ▸ hnone) d

/-- What changes of one channel's record only fields that its eligibility does not read. -/
theorem modChan {t : State} (h : ArbiterDone s t) (c : ChanId) (f : Channel → Channel)
    (hstate : ∀ ch, (f ch).state = ch.state := by intro; rfl)
    (hpending : ∀ ch, (f ch).pendingRecords = ch.pendingRecords := by intro; rfl)
    (hcredit : ∀ ch, (f ch).credit = ch.credit := by intro; rfl)
    (hexec : ∀ ch, (f ch).exec.isNone = ch.exec.isNone := by intro; rfl) : ArbiterDone s (t.modChan c f) := by
  have helig : ∀ d, (t.modChan c f).eligible d = t.eligible d := fun d => by
    by_cases hd : d = c
    · subst hd
      refine eligible_congr (by simp) (by simp) ?_ ?_ ?_ ?_ <;>
        simp only [State.chan_modChan_same, hstate, hpending, hcredit, hexec]
    · exact eligible_of_chan (by simp) (by simp) (State.chan_modChan_other _ _ hd)
  have hfetch : (t.modChan c f).cc.fetch = t.cc.fetch := by simp
  refine h.imp (fun ⟨hf, he⟩ => ⟨hfetch.trans hf, fun d => (helig d).trans (he d)⟩) (fun hrest hnone d => ?_)
  rw [helig]
  exact hrest (hfetch ▸ hnone) d

/-- An alert that no waiter takes joins the alert list alone (R171). -/
theorem postAlert {t : State} (h : ArbiterDone s t) (hw : t.cc.alertWaiters = []) (kind : AlertKind) (n d : Nat) :
    ArbiterDone s (postAlert kind n d t) := by
  rw [postAlert_eq hw]
  exact h.same

/-! #### The register window and the link -/

theorem hostReset (s : State) : ArbiterDone s (hostReset s) := by
  by_cases hoff : s.device = .off
  · rw [Machine.hostReset, if_pos hoff]
    exact refl s
  · exact of_stopped (by rw [hostReset_device hoff]; split <;> simp_all)

theorem enableWrite (s : State) : ArbiterDone s (enableWrite s) := by
  simp only [Machine.enableWrite]
  split
  · exact refl s
  · split
    · split
      · exact settle false
      · exact (refl s).same
    · exact (refl s).same

theorem notifyWrite (c : ChanId) (n : Nat) (s : State) : ArbiterDone s (notifyWrite c n s) := by
  simp only [Machine.notifyWrite]
  split
  · exact settle false
  · exact refl s

theorem retireWrite (c : ChanId) (n : Nat) (s : State) : ArbiterDone s (retireWrite c n s) := by
  simp only [Machine.retireWrite]
  split
  · exact settle false
  · exact refl s

theorem windowWrite (off : BitVec 12) (v : BitVec 32) (s : State) : ArbiterDone s (windowWrite off v s) := by
  simp only [Machine.windowWrite]
  split
  · split
    · exact enableWrite s
    · exact hostReset s
  · split
    · exact (refl s).same
    · split
      · exact (refl s).same
      · split
        · exact notifyWrite _ _ s
        · split
          · exact retireWrite _ _ s
          · exact refl s

theorem publish (c : ChanId) (p : Post) (s : State) : ArbiterDone s (publish c p s) := by
  have hfirst : ArbiterDone s (modFirstPost c (fun p => { p with phase := .status }) s) := (refl s).same
  simp only [Machine.publish]
  split
  · exact (hfirst.modChan c (fun ch => { ch with published := (p.slot + 1) % ch.cplSlots })).same
  · exact hfirst.same

theorem sendInterrupt {t : State} (h : ArbiterDone s t) (c : ChanId) : ArbiterDone s (sendInterrupt c t) :=
  (h.modChan c (fun ch => { ch with pendingInt := 0, holdoffTimer := none })).same (hchans := rfl)

theorem coalesce {t : State} (h : ArbiterDone s t) (c : ChanId) : ArbiterDone s (coalesce c t) := by
  have hcounted := h.modChan c (fun ch => { ch with pendingInt := (t.chan c).pendingInt + 1 })
  simp only [Machine.coalesce]
  split
  · exact hcounted.sendInterrupt c
  · split
    · exact hcounted.modChan c (fun ch => { ch with holdoffTimer := some (_ + ch.holdoff) })
    · exact hcounted

theorem endStatusWrite {t : State} (h : ArbiterDone s t) (c : ChanId) (w : StatusPurpose) (ok : Bool) :
    ArbiterDone s (endStatusWrite c w ok t) := by
  cases w with
  | ignored => exact h
  | becameActive =>
    cases ok
    · exact settle false
    · exact h
  | post =>
    cases ok
    · exact settle false
    · exact (h.coalesce c).same (u := popPost c (Machine.coalesce c t))
  | postDetached =>
    cases ok
    · exact h.same (u := dropDetached c t)
    · exact h.same (u := popPost c (coalesceDetached c t))

/-! #### Power -/

theorem enterRecall (v : Nat) (t : State) : ArbiterDone s (enterRecall v t) := by
  refine of_stopped ?_
  simp only [Machine.enterRecall]
  split <;> simp [powerOn, State.reset]

theorem endSequence (v : Nat) (t : State) : ArbiterDone s (endSequence v t) := by
  simp only [Machine.endSequence]
  split
  · exact enterRecall v _
  · exact of_stopped (by simp)

/-! #### Every command -/

theorem execRegisterWrite (off : BitVec 12) (width : Nat) (v : BitVec 32) (s : State) :
    NextHolds (ArbiterDone s) (execRegisterWrite off width v s) := by
  refine .next ?_
  split
  · exact windowWrite off v s
  · exact refl s

theorem execFetchEnd (result : ReadResult) (s : State) : NextHolds (ArbiterDone s) (execFetchEnd result s) := by
  refine .next ?_
  split
  · exact refl s
  · exact settle false

theorem execRelease (c : ChanId) (s : State) : NextHolds (ArbiterDone s) (execRelease c s) := by
  refine .next ?_
  split
  · exact refl s
  · split
    · exact settle _
    · exact refl s

/-- The head of a list of waiters is served with the end of an event, or the event does not occur. -/
theorem execWaitListReservation (s : State) : NextHolds (ArbiterDone s) (execWaitListReservation s) := by
  refine .next ?_
  split
  · exact refl s
  · split
    · exact refl s
    · split
      · exact settle false
      · exact refl s

theorem execReadBufferClaim (s : State) : NextHolds (ArbiterDone s) (execReadBufferClaim s) := by
  refine .next ?_
  split
  · exact refl s
  · split
    · exact refl s
    · split
      · exact settle false
      · exact refl s

/-- A claimed staging buffer moves the request to another stage: it executes as before. -/
theorem takeStaging {t : State} (h : ArbiterDone s t) (c : ChanId) (r : Executing) :
    ArbiterDone s (takeStaging c r t) :=
  ((h.same (u := { t with staging.buffers := t.staging.buffers ++ [{ chan := c, data := [] }] })).modChan c
    (fun ch => { ch with exec := ch.exec.map (fun r => { r with stage := .staging }) })
    (hexec := by simp)).same (hchans := rfl)

theorem execStagingBufferClaim (s : State) : NextHolds (ArbiterDone s) (execStagingBufferClaim s) := by
  refine .next ?_
  split
  · exact refl s
  · split
    · exact refl s
    · split
      · exact (refl s).same.takeStaging _ _
      · exact refl s

theorem execTxnExpiry (c : ChanId) (n : Nat) (s : State) : NextHolds (ArbiterDone s) (execTxnExpiry c n s) := by
  refine .next ?_
  split
  · exact refl s
  · split
    · exact refl s
    · split
      · exact settle false
      · exact refl s

theorem execFormatReset (s : State) : NextHolds (ArbiterDone s) (execFormatReset s) := by
  refine .next ?_
  split
  · exact settle false
  · exact refl s

theorem execStorePassEnd (agree : Bool) (s : State) : NextHolds (ArbiterDone s) (execStorePassEnd agree s) := by
  refine .next ?_
  split
  · dsimp only
    split
    · next h => exact of_stopped (by simp_all)
    · exact settle true
  · exact refl s

theorem execIdleTimerExpiry (s : State) : NextHolds (ArbiterDone s) (execIdleTimerExpiry s) := by
  refine .next ?_
  split
  · exact refl s
  · exact settle false

theorem afterCheckpoint (ok : Bool) (t : State) : ArbiterDone s (afterCheckpoint ok t) := by
  simp only [Machine.afterCheckpoint]
  split
  · next h => exact of_stopped (by simp [h])
  · split
    · exact settle ok
    · exact settle ok

theorem execCheckpointWriteEnd (verified : Bool) (s : State) :
    NextHolds (ArbiterDone s) (execCheckpointWriteEnd verified s) := by
  refine .next ?_
  split
  · split
    · exact afterCheckpoint true _
    · split
      · exact (refl s).same
      · exact afterCheckpoint false _
  · exact refl s

theorem execMeasurement (v : Nat) (s : State) : NextHolds (ArbiterDone s) (execMeasurement v s) := by
  refine .next ?_
  split
  · exact refl s
  · exact settle false

theorem execCharged (s : State) : NextHolds (ArbiterDone s) (execCharged s) := by
  refine .next ?_
  split
  · exact (refl s).same
  · exact refl s

theorem execNotCharged {s : State} (hw : s.cc.alertWaiters = []) : NextHolds (ArbiterDone s) (execNotCharged s) := by
  refine .next ?_
  split
  · exact (refl s).same.postAlert (by simpa using hw) _ _ _
  · exact refl s

theorem execLearnStart (time : Nat) (s : State) : NextHolds (ArbiterDone s) (execLearnStart time s) := by
  refine .next ?_
  split
  · exact (refl s).same
  · exact refl s

theorem endLearning {t : State} (h : ArbiterDone s t) (hw : t.cc.alertWaiters = []) (n : Nat) :
    ArbiterDone s (endLearning n t) := by
  simp only [Machine.endLearning]
  split
  · exact h.same
  · exact h.same.postAlert (by exact hw) _ _ _

theorem execLearnEnd {s : State} (hw : s.cc.alertWaiters = []) (time : Nat) :
    NextHolds (ArbiterDone s) (execLearnEnd time s) := by
  refine .next ?_
  split
  · exact (refl s).same.endLearning (by simpa using hw) _
  · exact refl s

theorem execLearnTimeout {s : State} (hw : s.cc.alertWaiters = []) :
    NextHolds (ArbiterDone s) (execLearnTimeout s) := by
  refine .next ?_
  split
  · exact (refl s).same.endLearning (by simpa using hw) _
  · exact refl s

/-- After an entry to EMERGENCY or to OFF the device is not RUNNING. -/
theorem execSupplyFail (s : State) : NextHolds (ArbiterDone s) (execSupplyFail s) := by
  refine .next ?_
  split
  · exact refl s
  · dsimp only
    split
    · exact of_stopped (by simp [enterEmergency, beginSequence, emergencyBlocks, apply_ite])
    · split
      · exact of_stopped (by simp [abandonStart, enterOff, apply_ite])
      · exact (refl s).same

theorem execSupplyReturn (v : Nat) (s : State) : NextHolds (ArbiterDone s) (execSupplyReturn v s) := by
  refine .next ?_
  split
  · exact enterRecall v s
  · split
    · exact refl s
    · split
      · exact enterRecall v s
      · exact (refl s).same

theorem execClosingMarkWriteEnd (verified : Bool) (v : Nat) (s : State) :
    NextHolds (ArbiterDone s) (execClosingMarkWriteEnd verified v s) := by
  refine .next ?_
  split
  · split
    · exact endSequence v _
    · split
      · exact (refl s).same
      · exact endSequence v _
  · exact refl s

theorem execRecallCompletion (s : State) : NextHolds (ArbiterDone s) (execRecallCompletion s) := by
  refine .next ?_
  split
  · exact of_stopped (by simp [completeRecall])
  · exact refl s

theorem execEndOfScan (s : State) : NextHolds (ArbiterDone s) (execEndOfScan s) := by
  refine .next ?_
  split
  · next h => exact of_stopped (by simp [endScan_device, h.1])
  · exact refl s

theorem execPstoreRequest (low : Nat) (s : State) : NextHolds (ArbiterDone s) (execPstoreRequest low s) := by
  refine .next ?_
  split
  · split
    · split
      · exact settle false
      · exact refl s
    · split
      · exact (refl s).same
      · exact refl s
  · exact refl s

theorem execClockTick (s : State) : NextHolds (ArbiterDone s) (execClockTick s) := by
  refine .next ?_
  split
  · exact (refl s).same
  · exact refl s

theorem execClockTransferApplication (s : State) : NextHolds (ArbiterDone s) (execClockTransferApplication s) := by
  refine .next ?_
  split
  · exact refl s
  · split
    · exact settle false
    · exact settle _

theorem execOscillatorStop {s : State} (hw : s.cc.alertWaiters = []) :
    NextHolds (ArbiterDone s) (execOscillatorStop s) := by
  refine .next ?_
  split
  · exact (refl s).same
  · split
    · exact (refl s).same.postAlert (by exact hw) _ _ _
    · exact refl s

theorem execOscillatorRestart (s : State) : NextHolds (ArbiterDone s) (execOscillatorRestart s) := by
  refine .next ?_
  split
  · exact refl s
  · exact (refl s).same

theorem execBatteryCrossing (good : Bool) (s : State) : NextHolds (ArbiterDone s) (execBatteryCrossing good s) := by
  refine .next ?_
  split
  · split
    · exact (refl s).same
    · exact (refl s).same
  · exact (refl s).same

theorem execBatteryDomainLoss (s : State) : NextHolds (ArbiterDone s) (execBatteryDomainLoss s) := by
  refine .next ?_
  split
  · exact (refl s).same
  · exact refl s

theorem execCompletionRecordWriteEnd (c : ChanId) (ok : Bool) (s : State) :
    NextHolds (ArbiterDone s) (execCompletionRecordWriteEnd c ok s) := by
  refine .next ?_
  split
  · exact refl s
  · split
    · split
      · exact publish c _ s
      · split
        · exact settle false
        · exact (refl s).same
    · exact refl s

theorem execStatusBlockWriteEnd (c : ChanId) (ok : Bool) (s : State) :
    NextHolds (ArbiterDone s) (execStatusBlockWriteEnd c ok s) := by
  refine .next ?_
  split
  · exact refl s
  · exact (refl s).same.endStatusWrite c _ ok

theorem execHoldoffExpiry (c : ChanId) (s : State) : NextHolds (ArbiterDone s) (execHoldoffExpiry c s) := by
  refine .next ?_
  split
  · exact refl s
  · next t _ =>
    have hreached : ArbiterDone s (s.reachTime t) := (refl s).same
    dsimp only
    split
    · exact hreached.sendInterrupt c
    · exact hreached.modChan c (fun ch => { ch with holdoffTimer := none })

/-- A request that a block takes is an event with its end (R159, log entry 12). -/
theorem exec (i : Instr) {s : State}
    (h : s.cc.alertWaiters = [] ∨
      (i ≠ .oscillatorStop ∧ i ≠ .notCharged ∧ i ≠ .learnTimeout ∧ ∀ t, i ≠ .learnEnd t)) :
    NextHolds (ArbiterDone s) (exec i s) := by
  cases i with
  | hostReset cause => exact .next (hostReset s)
  | enable => exact .next (enableWrite s)
  | notify chan index => exact .next (notifyWrite _ _ s)
  | retire chan index => exact .next (retireWrite _ _ s)
  | registerWrite offset width value => exact execRegisterWrite _ _ _ s
  | fetchEnd result => exact execFetchEnd _ s
  | append chan => exact .next (settle false)
  | sealTxn chan => exact .next (settle false)
  | abort chan => exact .next (settle false)
  | read chan => exact .next (settle false)
  | flush chan => exact .next (settle false)
  | release chan => exact execRelease _ s
  | format => exact .next (settle false)
  | setClock => exact .next (settle false)
  | recoveryReport => exact .next (settle false)
  | openChannel => exact .next (settle false)
  | closeChannel => exact .next (settle false)
  | configure => exact .next (settle false)
  | query => exact .next (settle false)
  | alertWait => exact .next (settle false)
  | waitListReservation => exact execWaitListReservation s
  | stagingBufferClaim => exact execStagingBufferClaim s
  | payloadReadEnd chan result => exact .next (settle false)
  | txnExpiry chan hostId => exact execTxnExpiry _ _ s
  | readBufferClaim => exact execReadBufferClaim s
  | readDataWriteEnd chan ok => exact .next (settle false)
  | formatReset => exact execFormatReset s
  | storePassEnd agree => exact execStorePassEnd _ s
  | idleTimerExpiry => exact execIdleTimerExpiry s
  | checkpointWriteEnd verified => exact execCheckpointWriteEnd _ s
  | measurement millivolts => exact execMeasurement _ s
  | charged => exact execCharged s
  | notCharged => exact execNotCharged (h.resolve_right fun ⟨_, hcharge, _⟩ => hcharge rfl)
  | learnStart time => exact execLearnStart _ s
  | learnEnd time => exact execLearnEnd (h.resolve_right fun ⟨_, _, _, hend⟩ => hend time rfl) time
  | learnTimeout => exact execLearnTimeout (h.resolve_right fun ⟨_, _, htimeout, _⟩ => htimeout rfl)
  | supplyFail => exact execSupplyFail s
  | supplyReturn millivolts => exact execSupplyReturn _ s
  | closingMarkWriteEnd verified millivolts => exact execClosingMarkWriteEnd _ _ s
  | recallCompletion => exact execRecallCompletion s
  | endOfScan => exact execEndOfScan s
  | pstoreRequest lowNanoseconds => exact execPstoreRequest _ s
  | clockTick => exact execClockTick s
  | clockTransferApplication => exact execClockTransferApplication s
  | oscillatorStop => exact execOscillatorStop (h.resolve_right fun ⟨hstop, _⟩ => hstop rfl)
  | oscillatorRestart => exact execOscillatorRestart s
  | batteryCrossing good => exact execBatteryCrossing _ s
  | batteryDomainLoss => exact execBatteryDomainLoss s
  | completionRecordWriteEnd chan ok => exact execCompletionRecordWriteEnd _ _ s
  | statusBlockWriteEnd chan ok => exact execStatusBlockWriteEnd _ _ s
  | holdoffExpiry chan => exact execHoldoffExpiry _ s
  | reportWriteEnd ok => exact .next (settle false)
  | snapshotWriteEnd ok => exact .next (settle false)

end ArbiterDone

/-- Settles O18: every command leaves the arbiter done with its event; the arbiter itself by whether a fetch is in flight
and which channel is next in turn. -/
theorem arbiterOrder : Obligations.ArbiterOrder := by
  refine ⟨fun i s u hw hu => ArbiterDone.exec i hw u hu, fun s => ⟨eligible_iff s, fetchArbiter_busy,
    fetchArbiter_idle, fun c hfetch hc hfirst => ?_⟩⟩
  have hcontents := fetchArbiter_contents s
  rw [fetchArbiter_serves hfetch hc hfirst] at hcontents ⊢
  exact ⟨by simp, by simp, State.chan_setChan_same _ _ _, fun d hd => State.chan_setChan_other _ _ hd, rfl, hcontents⟩

end Sys2Proof.Machine


namespace Sys2Proof.Machine

/-! ### The register window (R150, R152) -/

theorem DeviceState.code_lt (d : DeviceState) : d.code < 16 := by
  cases d <;> decide

theorem reasonCode_lt (r : Option FaultReason) : reasonCode r < 16 := by
  rcases r with _ | r
  · decide
  · cases r <;> decide

/-- The fields of DEVSTAT, each within its bits (R150). -/
theorem devstat_fields (s : State) :
    (s.devstat.extractLsb' 0 4).toNat = s.device.code ∧ s.devstat.getLsbD 4 = s.window.ctrlFault.isSome ∧
      (s.devstat.extractLsb' 8 8).toNat = reasonCode s.window.ctrlFault := by
  have hcode := s.device.code_lt
  have hreason := reasonCode_lt s.window.ctrlFault
  have hflag : flagBit s.window.ctrlFault.isSome 4 = 16 * s.window.ctrlFault.isSome.toNat := by
    cases s.window.ctrlFault.isSome <;> rfl
  have hbit := s.window.ctrlFault.isSome.toNat_le
  have hvalue : s.devstat.toNat =
      s.device.code + 16 * s.window.ctrlFault.isSome.toNat + reasonCode s.window.ctrlFault * 256 := by
    rw [State.devstat, hflag, BitVec.toNat_ofNat]
    omega
  refine ⟨?_, ?_, ?_⟩
  · rw [BitVec.extractLsb'_toNat, hvalue, Nat.shiftRight_zero]
    omega
  · rw [BitVec.getLsbD, hvalue, Nat.testBit_eq_decide_div_mod_eq]
    cases s.window.ctrlFault.isSome <;> simp <;> omega
  · rw [BitVec.extractLsb'_toNat, hvalue, Nat.shiftRight_eq_div_pow]
    omega

/-- What the window reads outside OFF, register by register (R150). -/
theorem readWindow_registers {s : State} (h : s.device ≠ .off) :
    s.readWindow 0x000 = some (if s.window.enable then 1 else 0) ∧ s.readWindow 0x004 = some s.devstat ∧
      s.readWindow 0x008 = some s.window.ctrlBaseLo ∧ s.readWindow 0x00C = some s.window.ctrlBaseHi ∧
      ∀ off, off ≠ 0x000 → off ≠ 0x004 → off ≠ 0x008 → off ≠ 0x00C → s.readWindow off = some 0 := by
  refine ⟨?_, ?_, ?_, ?_, fun off h0 h4 h8 hC => ?_⟩
  · rw [State.readWindow, if_neg h, if_pos rfl]
  · rw [State.readWindow, if_neg h, if_neg (by decide), if_pos rfl]
  · rw [State.readWindow, if_neg h, if_neg (by decide), if_neg (by decide), if_pos rfl]
  · rw [State.readWindow, if_neg h, if_neg (by decide), if_neg (by decide), if_neg (by decide), if_pos rfl]
  · rw [State.readWindow, if_neg h, if_neg h0, if_neg h4, if_neg h8, if_neg hC]

/-- A write that the window takes acts by its offset; another one does nothing (R150). -/
theorem exec_registerWrite (off : BitVec 12) (width : Nat) (v : BitVec 32) (s : State) :
    exec (.registerWrite off width v) s = .next (if width = 4 ∧ s.device ≠ .off then windowWrite off v s else s) := rfl

/-- Settles O16: a write by its offset, a read register by register. -/
theorem windowRule : Obligations.WindowRule := by
  refine ⟨fun s off width v => ⟨fun hnot => ?_, fun hwidth hdevice => ?_⟩,
    fun s => ⟨fun hoff off => ?_, fun hdevice => ?_⟩⟩
  · rw [exec_registerWrite, if_neg (by tauto)]
  · have hwrite : exec (.registerWrite off width v) s = .next (windowWrite off v s) := by
      rw [exec_registerWrite, if_pos ⟨hwidth, hdevice⟩]
    rw [hwrite]
    refine ⟨?_, ?_, ?_, ?_, ?_, ?_, fun h0 h8 hC h10 h14 => ?_⟩
    · rintro rfl hbit
      rw [windowWrite, if_pos rfl, if_pos hbit]
      rfl
    · rintro rfl hbit
      rw [windowWrite, if_pos rfl, hbit]
      rfl
    · rintro rfl
      rfl
    · rintro rfl
      rfl
    · rintro rfl
      rfl
    · rintro rfl
      rfl
    · rw [windowWrite, if_neg h0, if_neg h8, if_neg hC, if_neg h10, if_neg h14]
  · rw [State.readWindow, if_pos hoff]
  · obtain ⟨henable, hdevstat, hlow, hhigh, helse⟩ := readWindow_registers hdevice
    exact ⟨henable, ⟨_, hdevstat, devstat_fields s⟩, hlow, hhigh, helse⟩

/-! ### NOTIFY and RETIRE (R153, R154) -/

theorem setChan_contents (c : ChanId) (x : Channel) (s : State) : SameContents s (s.setChan c x) := by
  refine ⟨⟨by simp, by simp, by simp, by simp, by simp, by simp, SameSegments.of_segs (by simp)⟩, ?_⟩
  unfold SameUnits
  simp

/-- A ring index of a channel's record is set and the event ends: only the arbiter may have begun a fetch. -/
theorem settle_setChan (c : ChanId) (x : Channel) (s : State) :
    (settle false (s.setChan c x)).chan c =
        { x with inFlight := x.inFlight + fetchBegun c s (settle false (s.setChan c x)) } ∧
      SameChannelsBut (fun d => d = c) s (settle false (s.setChan c x)) ∧
      SameContents s (settle false (s.setChan c x)) ∧ (settle false (s.setChan c x)).taken = s.taken := by
  have hfetch : (s.setChan c x).cc.fetch = s.cc.fetch := by simp
  refine ⟨?_, fun d hd => ?_, (setChan_contents c x s).trans (settle_contents _ _), ?_⟩
  · rw [settle_channels (fun _ => False) false _ c (by simp), State.chan_setChan_same, fetchBegun_congr c hfetch]
  · rw [settle_channels (fun _ => False) false _ d (by simp), State.chan_setChan_other _ _ hd,
      fetchBegun_congr d hfetch]
  · rw [settle_taken, taken_of_posts (s := s) (by simp)]

/-- With no line store and no fetch in flight, the end of an event fetches from the eligible channel next in turn
(R157). -/
theorem settle_fetches (test : Bool) {t : State} {d : ChanId} (hline : t.store.lineStore = .none)
    (hfetch : t.cc.fetch = none) (hd : t.eligible d = true)
    (hfirst : ∀ e, t.eligible e = true → t.turn d ≤ t.turn e) :
    (settle test t).cc.fetch = some d ∧ (settle test t).cc.lastServed = d ∧
      (settle test t).out =
        .read ((t.chan d).reqAddr + BitVec.ofNat 64 (64 * (t.chan d).reqConsumer)) 64 :: t.out := by
  have helig : ∀ e, (startNext test t).eligible e = t.eligible e :=
    fun e => eligible_of_chan (by simp) (by simp) (startNext_chan test t e)
  have hturn : ∀ e, (startNext test t).turn e = t.turn e := fun e => by simp [State.turn]
  rw [settle_line, lineStoreTest_rests (Or.inl hline),
    fetchArbiter_serves (by simpa using hfetch) (by rwa [helig]) (by simpa only [helig, hturn] using hfirst),
    startNext_chan]
  simp [State.emit]

section
variable {s : State} {c : BitVec 4} {n : BitVec 12}

theorem exec_notify_ignored (h : ¬ (s.working = true ∧ (s.chan c.toFin).live = true)) :
    exec (.notify c n) s = .next s := by
  simp only [exec, execNotify, notifyWrite, if_neg h]

theorem exec_notify_taken (h : s.working = true ∧ (s.chan c.toFin).live = true) :
    exec (.notify c n) s = .next (settle false
      (if (s.chan c.toFin).reqSlots ≤ n.toNat then faultChannel c.toFin .badIndex s
       else s.setChan c.toFin { s.chan c.toFin with hostProducer := n.toNat })) := by
  simp only [exec, execNotify, notifyWrite, if_pos h]

theorem exec_retire_ignored (h : ¬ (s.working = true ∧ (s.chan c.toFin).live = true)) :
    exec (.retire c n) s = .next s := by
  simp only [exec, execRetire, retireWrite, if_neg h]

theorem exec_retire_taken (h : s.working = true ∧ (s.chan c.toFin).live = true) :
    exec (.retire c n) s = .next (settle false
      (if (s.chan c.toFin).cplSlots ≤ n.toNat ∨
          ringDiff (s.chan c.toFin).published (s.chan c.toFin).hostConsumer (s.chan c.toFin).cplSlots <
            ringDiff n.toNat (s.chan c.toFin).hostConsumer (s.chan c.toFin).cplSlots
       then faultChannel c.toFin .badRetire s
       else s.setChan c.toFin { s.chan c.toFin with hostConsumer := n.toNat })) := by
  simp only [exec, execRetire, retireWrite, if_pos h]

end

/-- Settles O14: ignored, a fault, or the new producer index and the end of the event. -/
theorem notifyRule : Obligations.NotifyRule := by
  intro s c n
  refine ⟨fun hlive => exec_notify_ignored (by simp [hlive]), fun hwork => exec_notify_ignored (by simp [hwork]),
    fun hwork hlive hbad => by rw [exec_notify_taken ⟨hwork, hlive⟩, if_pos hbad], fun hwork hlive hindex => ?_⟩
  rw [exec_notify_taken ⟨hwork, hlive⟩, if_neg (Nat.not_le.mpr hindex)]
  obtain ⟨hchan, hothers, hcontents, htaken⟩ :=
    settle_setChan c.toFin { s.chan c.toFin with hostProducer := n.toNat } s
  refine ⟨_, rfl, hchan, hothers, hcontents, htaken, settle_atRest _ _, ?_⟩
  rintro t d rfl hline hfetch hd hfirst
  obtain ⟨hfetched, hserved, hout⟩ := settle_fetches false (t := s.setChan c.toFin
    { s.chan c.toFin with hostProducer := n.toNat }) (by simpa using hline) (by simpa using hfetch) hd
    (by simpa [State.turn] using hfirst)
  refine ⟨hfetched, hserved, [], ?_⟩
  rw [hout]
  by_cases hsame : d = c.toFin
  · subst hsame
    rw [State.chan_setChan_same]
    rfl
  · rw [State.chan_setChan_other _ _ hsame]
    rfl

/-- Settles O15: ignored, a fault, or the new consumer index and the end of the event. -/
theorem retireRule : Obligations.RetireRule := by
  intro s c n
  refine ⟨fun hlive => exec_retire_ignored (by simp [hlive]), fun hwork => exec_retire_ignored (by simp [hwork]),
    fun hwork hlive hbad => by rw [exec_retire_taken ⟨hwork, hlive⟩, if_pos hbad], fun hwork hlive hindex hpast => ?_⟩
  rw [exec_retire_taken ⟨hwork, hlive⟩,
    if_neg (not_or.mpr ⟨Nat.not_le.mpr hindex, Nat.not_lt.mpr hpast⟩)]
  obtain ⟨hchan, hothers, hcontents, htaken⟩ :=
    settle_setChan c.toFin { s.chan c.toFin with hostConsumer := n.toNat } s
  exact ⟨_, rfl, hchan, hothers, hcontents, htaken⟩

/-! ### ENABLE (R151) -/

/-- The device enters RUNNING: channel 0 is ACTIVE and its status block is written; nothing else changes (R151, R155,
R161). -/
theorem enterRunning_enters (s : State) :
    (enterRunning s).chan 0 = controlChannel s.window.base ∧ (∀ d, d ≠ 0 → (enterRunning s).chan d = s.chan d) ∧
      (enterRunning s).cc.statusWrites = s.cc.statusWrites ++
        [{ chan := 0, addr := s.window.base + 3072, purpose := .becameActive }] ∧
      (enterRunning s).out = .write (s.window.base + 3072) (statusBytes 0 0 .active none) :: s.out ∧
      SameContents { s with device := .running, window.latchedBase := s.window.base } (enterRunning s) := by
  have hchan : ∀ d, (enterRunning s).chan d =
      (State.setChan { s with device := .running, window.latchedBase := s.window.base } 0
        (controlChannel s.window.base)).chan d := fun d => rfl
  have hzero := (hchan 0).trans (State.chan_setChan_same _ _ _)
  refine ⟨hzero, fun d hd => (hchan d).trans (State.chan_setChan_other _ _ hd), ?_, ?_, ?_⟩
  · rw [enterRunning, writeStatus, beginStatusWrite, State.chan_setChan_same]
    rfl
  · rw [enterRunning, writeStatus, beginStatusWrite, State.chan_setChan_same]
    rfl
  · refine ⟨⟨by simp, by simp, by simp, by simp, by simp, by simp, SameSegments.of_segs (by simp)⟩, ?_⟩
    unfold SameUnits
    simp [enterRunning]

theorem exec_enable {s : State} (h : s.device ≠ .off) :
    exec .enable s = .next
      (if s.device = .ready ∧ s.window.ctrlFault = none then
        if s.window.baseValid then settle false (enterRunning { s with window.enable := true })
        else badBase { s with window.enable := true }
      else { s with window.enable := true }) := by
  simp only [exec, execEnable, enableWrite, if_neg h]
  rfl

/-- Settles O12: in READY without CTRL_FAULT by the control base, else ENABLE alone is recorded. -/
theorem enableRule : Obligations.EnableRule := by
  intro s
  refine ⟨fun hready hfault hbase => ?_, fun hready hfault hbase => ?_, fun hoff hnot => ?_, fun hoff => ?_⟩
  · obtain ⟨hzero, hothers, hwrites, hout, hcontents⟩ := enterRunning_enters { s with window.enable := true }
    rw [exec_enable (by simp [hready]), if_pos ⟨hready, hfault⟩, if_pos hbase]
    have hfetch : (enterRunning { s with window.enable := true }).cc.fetch = s.cc.fetch := by simp
    have hempty : ((enterRunning { s with window.enable := true }).chan 0).pendingRecords = 0 := by
      rw [hzero, controlChannel_pending]
    refine ⟨_, rfl, (settle_chan_empty false hempty).trans hzero, fun d hd => ?_, ?_, ?_, emitted_settle false hout,
      hcontents.trans (settle_contents _ _)⟩
    · rw [settle_channels (fun _ => False) false _ d (by simp), hothers d hd, fetchBegun_congr d hfetch]
      rfl
    · rw [settle_taken, taken_of_posts (s := s) (by simp)]
    · exact Eq.trans (b := (enterRunning { s with window.enable := true }).cc.statusWrites) (by simp) hwrites
  · rw [exec_enable (by simp [hready]), if_pos ⟨hready, hfault⟩, hbase]
    simp [badBase, hfault]
  · rw [exec_enable hoff, if_neg (by tauto)]
  · simp only [exec, execEnable, enableWrite, if_pos hoff]

end Sys2Proof.Machine


namespace Sys2Proof.Machine

/-! ### The oldest unposted completion of a channel (R160) -/

/-- The first element that satisfies a test is the one that is changed. -/
theorem find?_modifyFirst {α : Type} {p : α → Bool} (f : α → α) (h : ∀ x, p x = true → p (f x) = true) (l : List α) :
    (modifyFirst p f l).find? p = (l.find? p).map f := by
  induction l with
  | nil => rfl
  | cons x xs ih =>
    cases hx : p x with
    | true => simp [modifyFirst, hx, h x hx]
    | false => simp [modifyFirst, hx, ih]

theorem firstPost_of_posts {s u : State} (c : ChanId) (h : u.cc.posts = s.cc.posts) :
    u.firstPost c = s.firstPost c := by
  simp only [State.firstPost, h]

/-- A new phase of a channel's oldest unposted completion. -/
theorem firstPost_setPhase (c : ChanId) (ph : PostPhase) (s : State) :
    (modFirstPost c (fun p => { p with phase := ph }) s).firstPost c =
      (s.firstPost c).map (fun p => { p with phase := ph }) :=
  find?_modifyFirst (p := fun p : Post => p.chan == c) (fun p => { p with phase := ph }) (fun _ h => h) s.cc.posts

/-- A new phase changes no slot that is taken. -/
theorem taken_setPhase (c : ChanId) (ph : PostPhase) (s : State) :
    (modFirstPost c (fun p => { p with phase := ph }) s).taken = s.taken :=
  map_modifyFirst _ (fun p : Post => { p with phase := ph }) (fun p => (p.chan, p.slot, p.completion)) (fun _ => rfl) _

/-- The record write of a completion that waited first begins (R160, step 2). -/
theorem beginRecordWrite_begins {c : ChanId} {s : State} {p : Post} (h : s.firstPost c = some p)
    (hq : p.phase = .queued) :
    (beginRecordWrite c s).firstPost c = some { p with phase := .record } ∧
      (beginRecordWrite c s).out = .write p.addr (completionBytes p.completion) :: s.out := by
  have hbegins : beginRecordWrite c s =
      (modFirstPost c (fun p => { p with phase := .record }) s).emit
        (.write p.addr (completionBytes p.completion)) := by
    simp only [beginRecordWrite, h, if_pos hq]
  rw [hbegins]
  refine ⟨?_, rfl⟩
  exact (firstPost_setPhase c .record s).trans (by rw [h]; rfl)

/-- Nothing begins behind a completion in progress. -/
theorem beginRecordWrite_rests {c : ChanId} {s : State} (h : ∀ p, s.firstPost c = some p → p.phase ≠ .queued) :
    beginRecordWrite c s = s := by
  rw [beginRecordWrite]
  split
  · next p hp => rw [if_neg (h p hp)]
  · rfl

theorem beginRecordWrite_out (c : ChanId) (s : State) : ∃ later, (beginRecordWrite c s).out = later ++ s.out := by
  cases hp : s.firstPost c with
  | none => exact ⟨[], by rw [beginRecordWrite_rests (by simp [hp])]; rfl⟩
  | some p =>
    by_cases hq : p.phase = .queued
    · exact ⟨[_], (beginRecordWrite_begins hp hq).2⟩
    · exact ⟨[], by rw [beginRecordWrite_rests (by rintro q hq'; rw [hp] at hq'; cases hq'; exact hq)]; rfl⟩

/-- The ring address of a completion stays with it. -/
theorem beginRecordWrite_addrs (c : ChanId) (s : State) :
    (beginRecordWrite c s).cc.posts.map Post.addr = s.cc.posts.map Post.addr := by
  rw [beginRecordWrite]
  split
  · split
    · exact map_modifyFirst _ (fun p : Post => { p with phase := .record }) _ (fun _ => rfl) _
    · rfl
  · rfl

/-! ### A completion takes its slot (R158, R160, step 1) -/

/-- The state in which a completion has its slot and waits. -/
def slotClaimed (c : ChanId) (x : Completion) (s : State) : State :=
  { s.setChan c (slotTaken (s.chan c)) with cc.posts := s.cc.posts ++ [nextPost c x (s.chan c)] }

section
variable {s : State} {c : ChanId} {x : Completion}

theorem takeSlot_eq (h : (s.chan c).live = true) : takeSlot c x s = beginRecordWrite c (slotClaimed c x s) :=
  takeSlot_live x h rfl

theorem slotClaimed_firstPost :
    (slotClaimed c x s).firstPost c = some ((s.firstPost c).getD (nextPost c x (s.chan c))) := by
  have hposts : (slotClaimed c x s).cc.posts = s.cc.posts ++ [nextPost c x (s.chan c)] := rfl
  simp only [State.firstPost, hposts, List.find?_append]
  cases s.cc.posts.find? (fun p => p.chan == c) <;> simp [nextPost]

theorem takeSlot_addrs (h : (s.chan c).live = true) :
    (takeSlot c x s).cc.posts.map Post.addr = s.cc.posts.map Post.addr ++
      [(s.chan c).cplAddr + BitVec.ofNat 64 (32 * (s.chan c).cplNext)] := by
  rw [takeSlot_eq h, beginRecordWrite_addrs]
  exact List.map_append

/-- With no earlier completion unposted, the record write begins at once. -/
theorem takeSlot_begins (h : (s.chan c).live = true) (hfirst : s.firstPost c = none) :
    (takeSlot c x s).out =
        .write ((s.chan c).cplAddr + BitVec.ofNat 64 (32 * (s.chan c).cplNext)) (completionBytes x) :: s.out ∧
      ((takeSlot c x s).firstPost c).map Post.phase = some .record := by
  have hpost : (slotClaimed c x s).firstPost c = some (nextPost c x (s.chan c)) := by
    rw [slotClaimed_firstPost, hfirst]; rfl
  obtain ⟨hphase, hout⟩ := beginRecordWrite_begins hpost rfl
  rw [takeSlot_eq h]
  exact ⟨hout, by rw [hphase]; rfl⟩

/-- Behind a completion in progress nothing is written. -/
theorem takeSlot_waits (h : (s.chan c).live = true) {p : Post} (hfirst : s.firstPost c = some p)
    (hphase : p.phase ≠ .queued) : (takeSlot c x s).out = s.out ∧ (takeSlot c x s).firstPost c = some p := by
  have hpost : (slotClaimed c x s).firstPost c = some p := by rw [slotClaimed_firstPost, hfirst]; rfl
  rw [takeSlot_eq h, beginRecordWrite_rests (by rintro q hq; rw [hpost] at hq; cases hq; exact hphase)]
  exact ⟨rfl, hpost⟩

theorem takeSlot_contents (c : ChanId) (x : Completion) (s : State) : SameContents s (takeSlot c x s) :=
  ⟨.of_journal (by simp), by unfold SameUnits; simp⟩

end

/-! ### Interrupts and coalescing (R162) -/

theorem sendInterrupt_chan_same (c : ChanId) (s : State) :
    (sendInterrupt c s).chan c = { s.chan c with pendingInt := 0, holdoffTimer := none } :=
  State.chan_modChan_same s c (fun ch => { ch with pendingInt := 0, holdoffTimer := none })

theorem sendInterrupt_chan_other {c d : ChanId} (s : State) (h : d ≠ c) : (sendInterrupt c s).chan d = s.chan d :=
  State.chan_modChan_other s (fun ch => { ch with pendingInt := 0, holdoffTimer := none }) h

theorem sendInterrupt_out (c : ChanId) (s : State) :
    (sendInterrupt c s).out = .interrupt (s.chan c).vector :: s.out := by
  simp [sendInterrupt, State.emit]

section
variable {c : ChanId} {s : State}

/-- The count reaches the threshold, or there is no holdoff: the interrupt is sent. -/
theorem coalesce_sends (h : (s.chan c).threshold ≤ (s.chan c).pendingInt + 1 ∨ (s.chan c).holdoff = 0) :
    (coalesce c s).chan c = { s.chan c with pendingInt := 0, holdoffTimer := none } ∧
      (coalesce c s).out = .interrupt (s.chan c).vector :: s.out := by
  simp only [coalesce, if_pos h]
  rw [sendInterrupt_chan_same, sendInterrupt_out, State.chan_modChan_same]
  exact ⟨rfl, rfl⟩

/-- Otherwise the count rises, and a count of 1 starts the holdoff timer. -/
theorem coalesce_counts (hcount : (s.chan c).pendingInt + 1 < (s.chan c).threshold)
    (hholdoff : (s.chan c).holdoff ≠ 0) :
    (coalesce c s).chan c = { s.chan c with
      pendingInt := (s.chan c).pendingInt + 1,
      holdoffTimer := if (s.chan c).pendingInt = 0 then some (s.now + (s.chan c).holdoff)
                      else (s.chan c).holdoffTimer } := by
  have hnot : ¬ ((s.chan c).threshold ≤ (s.chan c).pendingInt + 1 ∨ (s.chan c).holdoff = 0) := by omega
  simp only [coalesce, if_neg hnot]
  by_cases hzero : (s.chan c).pendingInt = 0
  · rw [if_pos (by omega), State.chan_modChan_same, State.chan_modChan_same, if_pos hzero]
    rfl
  · rw [if_neg (by omega), State.chan_modChan_same, if_neg hzero]

theorem coalesce_chan_other {d : ChanId} (h : d ≠ c) : (coalesce c s).chan d = s.chan d := by
  simp only [coalesce]
  split
  · rw [sendInterrupt_chan_other _ h, State.chan_modChan_other _ _ h]
  · split
    · rw [State.chan_modChan_other _ _ h, State.chan_modChan_other _ _ h]
    · rw [State.chan_modChan_other _ _ h]

end

/-! ### The next completion's post begins, or the rest is given up (R160, log entry 14) -/

section
variable (c : ChanId) (s : State)

theorem popPost_taken :
    (popPost c s).taken = (s.cc.posts.eraseP (fun p => p.chan == c)).map (fun p => (p.chan, p.slot, p.completion)) :=
  beginRecordWrite_taken c _

theorem popPost_chan (d : ChanId) : (popPost c s).chan d = s.chan d := by
  simp [State.chan]

theorem popPost_out : ∃ later, (popPost c s).out = later ++ s.out := beginRecordWrite_out c _

theorem popPost_begins {q : Post}
    (h : (s.cc.posts.eraseP (fun p => p.chan == c)).find? (fun p => p.chan == c) = some q) (hq : q.phase = .queued) :
    (popPost c s).firstPost c = some { q with phase := .record } ∧
      (popPost c s).out = .write q.addr (completionBytes q.completion) :: s.out :=
  beginRecordWrite_begins (s := { s with cc.posts := s.cc.posts.eraseP (fun p => p.chan == c) }) h hq

theorem dropDetached_taken : (dropDetached c s).taken =
    (s.cc.posts.filter (fun x => !(x.chan == c && x.detached.isSome))).map
      (fun x => (x.chan, x.slot, x.completion)) :=
  beginRecordWrite_taken c _

theorem popPost_contents : SameContents s (popPost c s) :=
  ⟨.of_journal (by simp), by unfold SameUnits; simp⟩

theorem dropDetached_contents : SameContents s (dropDetached c s) :=
  ⟨.of_journal (by simp), by unfold SameUnits; simp⟩

theorem coalesce_contents : SameContents s (coalesce c s) :=
  ⟨.of_journal (by simp), by unfold SameUnits; simp⟩

theorem coalesceDetached_contents : SameContents s (coalesceDetached c s) :=
  ⟨.of_journal (by simp), by unfold SameUnits; simp⟩

end

/-! ### The ends of posting writes (R160, R161) -/

section
variable {c : ChanId} {s : State}

theorem exec_recordWriteEnd {p : Post} (h : s.firstPost c = some p) (hphase : p.phase = .record) (ok : Bool) :
    exec (.completionRecordWriteEnd c ok) s = .next
      (if ok then publish c p s
       else if p.detached.isNone then settle false (faultChannel c .completionWrite s) else dropDetached c s) := by
  simp only [exec, execCompletionRecordWriteEnd, h, if_pos hphase]

/-- The state in which a channel's oldest status block write has ended. -/
def statusEnded (c : ChanId) (s : State) : State :=
  { s with cc.statusWrites := s.cc.statusWrites.eraseP (fun w => w.chan == c) }

theorem exec_statusWriteEnd {w : StatusWrite} (h : s.cc.statusWrites.find? (fun w => w.chan == c) = some w)
    (ok : Bool) :
    exec (.statusBlockWriteEnd c ok) s = .next (endStatusWrite c w.purpose ok (statusEnded c s)) := by
  simp only [exec, execStatusBlockWriteEnd, h]
  rfl

/-- The published index covers the slot of a completion whose record is written, and the status block follows (R160, step
3). -/
theorem publish_attached {p : Post} (hd : p.detached = none) :
    publish c p s = writeStatus c .post ((modFirstPost c (fun p => { p with phase := .status }) s).modChan c
      (fun ch => { ch with published := (p.slot + 1) % ch.cplSlots })) := by
  simp only [publish, hd]

theorem publish_detached {p : Post} {d : Detached} (hd : p.detached = some d) :
    publish c p s = beginStatusWrite c .postDetached d.statusAddr
      (statusBytes d.reqConsumer ((p.slot + 1) % d.cplSlots) .closed none)
      (modFirstPost c (fun p => { p with phase := .status }) s) := by
  simp only [publish, hd]

theorem publish_contents (p : Post) : SameContents s (publish c p s) :=
  ⟨.of_journal (by simp), by unfold SameUnits; simp⟩

theorem publish_posts (p : Post) :
    (publish c p s).cc.posts = (modFirstPost c (fun p => { p with phase := .status }) s).cc.posts := by
  cases hd : p.detached with
  | none => rw [publish_attached hd]; simp
  | some d => rw [publish_detached hd]; simp

/-- The completion's status block write stands for it, and no slot has changed. -/
theorem publish_phase {p : Post} (h : s.firstPost c = some p) :
    ((publish c p s).firstPost c).map Post.phase = some .status ∧ (publish c p s).taken = s.taken := by
  refine ⟨?_, ?_⟩
  · rw [firstPost_of_posts c (publish_posts p), firstPost_setPhase, h]
    rfl
  · rw [taken_of_posts (publish_posts p), taken_setPhase]

/-- The record of the channel and what its status block write carries (R161). -/
theorem publish_writes {p : Post} (hd : p.detached = none) :
    (publish c p s).chan c = { s.chan c with published := (p.slot + 1) % (s.chan c).cplSlots } ∧
      (∀ d, d ≠ c → (publish c p s).chan d = s.chan d) ∧
      (publish c p s).cc.statusWrites = s.cc.statusWrites ++
        [{ chan := c, addr := (s.chan c).statusAddr, purpose := .post }] ∧
      (publish c p s).out = .write (s.chan c).statusAddr
        (statusBytes (s.chan c).reqConsumer ((p.slot + 1) % (s.chan c).cplSlots) (s.chan c).state
          (s.chan c).faultReason) :: s.out := by
  have hsame := State.chan_modChan_same (modFirstPost c (fun p => { p with phase := .status }) s) c
    (fun ch => { ch with published := (p.slot + 1) % ch.cplSlots })
  rw [publish_attached hd]
  refine ⟨hsame, fun d hdc => ?_, ?_, ?_⟩
  · exact State.chan_modChan_other (modFirstPost c (fun p => { p with phase := .status }) s)
      (fun ch => { ch with published := (p.slot + 1) % ch.cplSlots }) hdc
  · rw [writeStatus, beginStatusWrite, hsame]
    rfl
  · rw [writeStatus, beginStatusWrite, hsame]
    rfl

end

section
variable {c : ChanId} {s : State}

/-- A completion is posted: coalescing takes it, and the next one's record write begins (R160, R162). -/
theorem statusWrite_posts :
    (popPost c (coalesce c (statusEnded c s))).taken =
        (s.cc.posts.eraseP (fun p => p.chan == c)).map (fun p => (p.chan, p.slot, p.completion)) ∧
      (popPost c (coalesce c (statusEnded c s))).cc.statusWrites =
        s.cc.statusWrites.eraseP (fun w => w.chan == c) ∧
      (∀ d, d ≠ c → (popPost c (coalesce c (statusEnded c s))).chan d = s.chan d) ∧
      ((s.chan c).threshold ≤ (s.chan c).pendingInt + 1 ∨ (s.chan c).holdoff = 0 →
        (popPost c (coalesce c (statusEnded c s))).chan c = { s.chan c with pendingInt := 0, holdoffTimer := none } ∧
        .interrupt (s.chan c).vector ∈ (popPost c (coalesce c (statusEnded c s))).out) ∧
      ((s.chan c).pendingInt + 1 < (s.chan c).threshold → (s.chan c).holdoff ≠ 0 →
        (popPost c (coalesce c (statusEnded c s))).chan c = { s.chan c with
          pendingInt := (s.chan c).pendingInt + 1,
          holdoffTimer := if (s.chan c).pendingInt = 0 then some (s.now + (s.chan c).holdoff)
                          else (s.chan c).holdoffTimer }) ∧
      (∀ q, (s.cc.posts.eraseP (fun p => p.chan == c)).find? (fun p => p.chan == c) = some q → q.phase = .queued →
        (popPost c (coalesce c (statusEnded c s))).firstPost c = some { q with phase := .record } ∧
        (popPost c (coalesce c (statusEnded c s))).out.head? = some (.write q.addr (completionBytes q.completion))) ∧
      SameContents s (popPost c (coalesce c (statusEnded c s))) := by
  have hposts : (coalesce c (statusEnded c s)).cc.posts = s.cc.posts := by simp [statusEnded]
  refine ⟨by rw [popPost_taken, hposts], by simp [statusEnded], fun d hd => ?_, fun hsends => ?_,
    fun hcount hholdoff => ?_, fun q hq hqueued => ?_, ?_⟩
  · rw [popPost_chan, coalesce_chan_other hd]
    rfl
  · obtain ⟨hchan, hout⟩ := coalesce_sends (s := statusEnded c s) hsends
    obtain ⟨later, hlater⟩ := popPost_out c (coalesce c (statusEnded c s))
    refine ⟨(popPost_chan c _ c).trans hchan, ?_⟩
    rw [hlater, hout]
    exact List.mem_append_right _ List.mem_cons_self
  · exact (popPost_chan c _ c).trans (coalesce_counts (s := statusEnded c s) hcount hholdoff)
  · obtain ⟨hfirst, hout⟩ := popPost_begins c (coalesce c (statusEnded c s)) (by rwa [hposts]) hqueued
    exact ⟨hfirst, by rw [hout]; rfl⟩
  · have hended : SameContents s (statusEnded c s) := ⟨.of_journal rfl, by unfold SameUnits; simp [statusEnded]⟩
    exact (hended.trans (coalesce_contents c _)).trans (popPost_contents c _)

/-- A completion is posted whose channel had become CLOSED: its interrupt is sent at once (log entry 14). -/
theorem statusWrite_postsDetached {p : Post} {d : Detached} (hp : s.firstPost c = some p) (hd : p.detached = some d) :
    ∃ u, popPost c (coalesceDetached c (statusEnded c s)) = u ∧ u.cc.chans = s.cc.chans ∧
      u.taken = (s.cc.posts.eraseP (fun x => x.chan == c)).map (fun x => (x.chan, x.slot, x.completion)) ∧
      u.cc.statusWrites = s.cc.statusWrites.eraseP (fun w => w.chan == c) ∧ Emitted (.interrupt d.vector) s u ∧
      (∀ q, (s.cc.posts.eraseP (fun x => x.chan == c)).find? (fun x => x.chan == c) = some q → q.phase = .queued →
        u.firstPost c = some { q with phase := .record } ∧
        u.out = .write q.addr (completionBytes q.completion) :: .interrupt d.vector :: s.out) ∧
      SameContents s u := by
  have hout : (coalesceDetached c (statusEnded c s)).out = .interrupt d.vector :: s.out := by
    rw [coalesceDetached_out (s := statusEnded c s) hp hd]
    rfl
  have hposts : (coalesceDetached c (statusEnded c s)).cc.posts = s.cc.posts := by simp [statusEnded]
  refine ⟨_, rfl, by simp [statusEnded], by rw [popPost_taken, hposts], by simp [statusEnded], ?_,
    fun q hq hqueued => ?_, ?_⟩
  · obtain ⟨later, hlater⟩ := popPost_out c (coalesceDetached c (statusEnded c s))
    exact ⟨later, by rw [hlater, hout]⟩
  · rw [← hout]
    exact popPost_begins c _ (by rwa [hposts]) hqueued
  · have hended : SameContents s (statusEnded c s) := ⟨.of_journal rfl, by unfold SameUnits; simp [statusEnded]⟩
    exact (hended.trans (coalesceDetached_contents c _)).trans (popPost_contents c _)

/-- A host write error gives up a channel's completions that a drain left (log entry 14). -/
theorem statusWrite_drops : (dropDetached c (statusEnded c s)).cc.chans = s.cc.chans ∧
    (dropDetached c (statusEnded c s)).taken =
      (s.cc.posts.filter (fun x => !(x.chan == c && x.detached.isSome))).map
        (fun x => (x.chan, x.slot, x.completion)) ∧ SameContents s (dropDetached c (statusEnded c s)) := by
  have hended : SameContents s (statusEnded c s) := ⟨.of_journal rfl, by unfold SameUnits; simp [statusEnded]⟩
  exact ⟨by simp [statusEnded], dropDetached_taken c _, hended.trans (dropDetached_contents c _)⟩

/-! ### The holdoff timer (R162) -/

theorem exec_holdoffExpiry {t : Nat} (h : (s.chan c).holdoffTimer = some t) :
    exec (.holdoffExpiry c) s = .next
      (if 0 < (s.chan c).pendingInt then sendInterrupt c (s.reachTime t)
       else (s.reachTime t).modChan c (fun ch => { ch with holdoffTimer := none })) := by
  simp only [exec, execHoldoffExpiry, h]
  rfl

/-- The timer has expired: the pending interrupt is sent, and count and timer are cleared. -/
theorem holdoff_expires (t : Nat) : ∃ u, (if 0 < (s.chan c).pendingInt then sendInterrupt c (s.reachTime t)
      else (s.reachTime t).modChan c (fun ch => { ch with holdoffTimer := none })) = u ∧
    (u.chan c).holdoffTimer = none ∧ (u.chan c).pendingInt = 0 ∧ (∀ d, d ≠ c → u.chan d = s.chan d) ∧
    u.taken = s.taken ∧ SameContents { s with now := max s.now t } u ∧
    u.out = (if 0 < (s.chan c).pendingInt then [.interrupt (s.chan c).vector] else []) ++ s.out := by
  by_cases hcount : 0 < (s.chan c).pendingInt
  · rw [if_pos hcount, if_pos hcount]
    refine ⟨_, rfl, by rw [sendInterrupt_chan_same], by rw [sendInterrupt_chan_same],
      fun d hd => sendInterrupt_chan_other _ hd, taken_of_posts (by simp), ?_, sendInterrupt_out c _⟩
    exact ⟨.of_journal (by simp), by unfold SameUnits; simp [State.reachTime]⟩
  · rw [if_neg hcount, if_neg hcount]
    refine ⟨_, rfl, by rw [State.chan_modChan_same], ?_, fun d hd => State.chan_modChan_other _ _ hd,
      taken_of_posts (by simp), ?_, by simp⟩
    · rw [State.chan_modChan_same]
      exact Nat.eq_zero_of_not_pos hcount
    · exact ⟨.of_journal (by simp), by unfold SameUnits; simp [State.reachTime]⟩

end

/-- Settles O19: the slot, the two ends of a post, the same of a completion whose channel has closed, and the holdoff
timer. -/
theorem postingRule : Obligations.PostingRule := by
  refine ⟨fun s c x => ⟨takeSlot_not_live x, fun hlive => ?_⟩, ⟨fun s c p hp hphase hd => ?_, fun s c w hw hpost => ?_⟩,
    fun s c p d hp hd => ⟨fun hphase => ?_, fun w hw hpost => ?_⟩, fun s c t ht => ?_⟩
  · exact ⟨takeSlot_taken x hlive, takeSlot_chan_same x hlive, fun d hd => takeSlot_chan_other x s hd,
      takeSlot_addrs hlive, takeSlot_begins hlive, fun p hp hphase => takeSlot_waits hlive hp hphase,
      takeSlot_contents c x s⟩
  · obtain ⟨hchan, hothers, hwrites, hout⟩ := publish_writes (c := c) (s := s) hd
    obtain ⟨hstatus, htaken⟩ := publish_phase hp
    rw [exec_recordWriteEnd hp hphase, exec_recordWriteEnd hp hphase, hd]
    exact ⟨⟨_, rfl, hchan, hothers, hstatus, htaken, hwrites, hout, publish_contents p⟩, rfl⟩
  · rw [exec_statusWriteEnd hw, exec_statusWriteEnd hw, hpost]
    exact ⟨⟨_, rfl, statusWrite_posts⟩, rfl⟩
  · obtain ⟨hstatus, htaken⟩ := publish_phase hp
    rw [exec_recordWriteEnd hp hphase, exec_recordWriteEnd hp hphase, hd]
    refine ⟨⟨_, rfl, ?_, htaken, hstatus, ?_, ?_, publish_contents p⟩,
      ⟨_, rfl, by simp, dropDetached_taken c s, dropDetached_contents c s⟩⟩
    · rw [if_pos rfl, publish_detached hd]
      simp
    · rw [if_pos rfl, publish_detached hd]
      rfl
    · rw [if_pos rfl, publish_detached hd]
      rfl
  · rw [exec_statusWriteEnd hw, exec_statusWriteEnd hw, hpost]
    obtain ⟨u, hu, hposted⟩ := statusWrite_postsDetached hp hd
    exact ⟨⟨u, congrArg _ hu, hposted⟩, ⟨_, rfl, statusWrite_drops⟩⟩
  · obtain ⟨u, hu, hexpired⟩ := holdoff_expires (s := s) (c := c) t
    exact ⟨u, by rw [exec_holdoffExpiry ht, hu], hexpired⟩

end Sys2Proof.Machine


namespace Sys2Proof.Machine

/-! ### The end of a drain (R156, R168) -/

theorem filter_modifyFirst {α : Type} {p q : α → Bool} {f : α → α} (h : ∀ x, p x = true → q x = false ∧ q (f x) = false)
    (l : List α) : (modifyFirst p f l).filter q = l.filter q := by
  induction l with
  | nil => rfl
  | cons x xs ih =>
    cases hx : p x with
    | true =>
      obtain ⟨hq, hqf⟩ := h x hx
      simp [modifyFirst, hx, hq, hqf]
    | false => simp [modifyFirst, hx, List.filter_cons, ih]

/-- The post of one channel changes no other channel's completions. -/
theorem beginRecordWrite_others (c : ChanId) (s : State) :
    (beginRecordWrite c s).cc.posts.filter (fun p => p.chan != c) = s.cc.posts.filter (fun p => p.chan != c) := by
  rw [beginRecordWrite]
  split
  · split
    · exact filter_modifyFirst (fun p hp => by simp at hp; simp [hp]) _
    · rfl
  · rfl

theorem takeSlot_others (c : ChanId) (x : Completion) (s : State) :
    (takeSlot c x s).cc.posts.filter (fun p => p.chan != c) = s.cc.posts.filter (fun p => p.chan != c) := by
  cases hlive : (s.chan c).live with
  | false => rw [takeSlot_not_live x hlive]
  | true =>
    have hposts : (slotClaimed c x s).cc.posts = s.cc.posts ++ [nextPost c x (s.chan c)] := rfl
    rw [takeSlot_eq hlive, beginRecordWrite_others, hposts, List.filter_append]
    simp [nextPost]

/-- Another channel's completion stands as it stood. -/
theorem mem_posts_takeSlot {c : ChanId} {x : Completion} {s : State} {p : Post} (h : p.chan ≠ c) :
    p ∈ (takeSlot c x s).cc.posts ↔ p ∈ s.cc.posts := by
  have hmem : ∀ l : List Post, p ∈ l.filter (fun p => p.chan != c) ↔ p ∈ l := fun l => by simp [h]
  rw [← hmem, takeSlot_others, hmem]

theorem takeSlot_out (c : ChanId) (x : Completion) (s : State) : ∃ later, (takeSlot c x s).out = later ++ s.out := by
  cases hlive : (s.chan c).live with
  | false => exact ⟨[], by rw [takeSlot_not_live x hlive]; rfl⟩
  | true => rw [takeSlot_eq hlive]; exact beginRecordWrite_out c (slotClaimed c x s)

/-- What has begun on the link is not taken back by a completion. -/
theorem mem_out_takeSlot {c : ChanId} {x : Completion} {s : State} {a : LinkAction} (h : a ∈ s.out) :
    a ∈ (takeSlot c x s).out := by
  obtain ⟨later, hout⟩ := takeSlot_out c x s
  rw [hout]
  exact List.mem_append_right _ h

/-- What the posts of a channel need once it is CLOSED (log entry 14). -/
def Channel.kept (ch : Channel) : Detached :=
  { statusAddr := ch.statusAddr, reqConsumer := ch.reqConsumer, cplSlots := ch.cplSlots, vector := ch.vector }

/-- The state in which the status block write of a drain's end has begun, and the pending interrupt is sent. -/
def drainReported (c : ChanId) (s : State) : State :=
  if 0 < (s.chan c).pendingInt then
    sendInterrupt c (beginStatusWrite c .ignored (s.chan c).statusAddr
      (statusBytes (s.chan c).reqConsumer (s.chan c).published .closed (s.chan c).faultReason) s)
  else beginStatusWrite c .ignored (s.chan c).statusAddr
    (statusBytes (s.chan c).reqConsumer (s.chan c).published .closed (s.chan c).faultReason) s

section
variable {c : ChanId} {s : State}

theorem drained_eq (c : ChanId) (s : State) :
    drained c s = (detachPosts c (drainReported c s)).setChan c Channel.closed := rfl

/-- A pending interrupt clears its count and its timer, no more. -/
theorem drainReported_keeps (c : ChanId) (s : State) :
    (drainReported c s).cc.posts = s.cc.posts ∧ ((drainReported c s).chan c).statusAddr = (s.chan c).statusAddr ∧
      ((drainReported c s).chan c).kept = (s.chan c).kept := by
  have hchan : ∀ b, (beginStatusWrite c .ignored (s.chan c).statusAddr b s).chan c = s.chan c :=
    fun b => by simp [State.chan]
  rw [drainReported]
  split
  · rw [sendInterrupt_chan_same, hchan]
    exact ⟨by simp, rfl, rfl⟩
  · rw [hchan]
    exact ⟨by simp, rfl, rfl⟩

theorem drained_posts (c : ChanId) (s : State) :
    (drained c s).cc.posts = s.cc.posts.map (fun p =>
      if p.chan == c && p.detached.isNone then { p with detached := some (s.chan c).kept } else p) := by
  obtain ⟨hposts, -, hkept⟩ := drainReported_keeps c s
  rw [← hposts, ← hkept]
  rfl

theorem drained_taken (c : ChanId) (s : State) : (drained c s).taken = s.taken := by
  rw [drained_eq, taken_of_posts (s := detachPosts c (drainReported c s)) (by simp), detachPosts_taken,
    taken_of_posts (drainReported_keeps c s).1]

theorem drained_out (c : ChanId) (s : State) : (drained c s).out = (drainReported c s).out := by
  simp [drained_eq]

theorem drained_writes (c : ChanId) (s : State) :
    .write (s.chan c).statusAddr
        (statusBytes (s.chan c).reqConsumer (s.chan c).published .closed (s.chan c).faultReason) ∈ (drained c s).out ∧
      (0 < (s.chan c).pendingInt → .interrupt (s.chan c).vector ∈ (drained c s).out) := by
  rw [drained_out, drainReported]
  split
  · next h =>
    rw [sendInterrupt_out]
    exact ⟨by simp [beginStatusWrite, State.emit], fun _ => by simp [State.chan]⟩
  · next h => exact ⟨by simp [beginStatusWrite, State.emit], fun hpos => absurd hpos h⟩

theorem drained_contents (c : ChanId) (s : State) : SameContents s (drained c s) := by
  have hjournal : (drained c s).journal = s.journal := by simp [drained_eq, drainReported, apply_ite]
  exact ⟨.of_journal hjournal, by unfold SameUnits; simp [drained_eq, drainReported, apply_ite]⟩

/-- Every completion of the channel has left it for the addresses it keeps. -/
theorem drained_detaches :
    (∀ p ∈ s.cc.posts, p.chan = c → p.detached = none →
      { p with detached := some (s.chan c).kept } ∈ (drained c s).cc.posts) ∧
    ∀ p ∈ (drained c s).cc.posts, p.chan = c → p.detached ≠ none := by
  rw [drained_posts]
  refine ⟨fun p hp hc hd => List.mem_map.mpr ⟨p, hp, by simp [hc, hd]⟩, fun p hp hc => ?_⟩
  obtain ⟨q, -, rfl⟩ := List.mem_map.mp hp
  by_cases h : (q.chan == c && q.detached.isNone) = true
  · simp [h]
  · rw [if_neg h] at hc ⊢
    intro hd
    simp [hc, hd] at h

/-- The waiting close completes, when there is one and channel 0 is another channel and takes its completion (R168). -/
theorem closeDrained_completes {pc : PendingClose} (hpc : (s.chan c).pendingClose = some pc) :
    closeDrained c s = takeSlot 0 (drainedClose c pc) (drained c s) := by
  rw [closeDrained_eq, hpc]
  simp only [drainedClose, closeDetail]
  rfl

theorem closeDrained_quiet (h : (s.chan c).pendingClose = none ∨ c = 0 ∨ (s.chan 0).live = false) :
    closeDrained c s = drained c s := by
  cases hpc : (s.chan c).pendingClose with
  | none => rw [closeDrained_eq, hpc]
  | some pc =>
    have hdead : ((drained c s).chan 0).live = false := by
      by_cases hc : c = 0
      · subst hc
        rw [drained_chan_same, closed_not_live]
      · rw [drained_chan_other s (Ne.symm hc)]
        simpa [hpc, hc] using h
    rw [closeDrained_completes hpc, takeSlot_not_live _ hdead]

theorem drainCheck_ends (hstate : (s.chan c).state = .draining) (hzero : (s.chan c).inFlight = 0) :
    drainCheck c s = closeDrained c s := by
  rw [drainCheck, if_pos ⟨hstate, hzero⟩]

end

/-- Settles O20: the record and its posts at the drain's end, then the waiting close where channel 0 takes it. -/
theorem drainEnds : Obligations.DrainEnds := by
  intro c s
  refine ⟨fun hnot => by rw [drainCheck, if_neg hnot], fun hstate hzero => ?_⟩
  obtain ⟨hwrite, hinterrupt⟩ := drained_writes c s
  obtain ⟨hkept, hdetached⟩ := drained_detaches (c := c) (s := s)
  rw [drainCheck_ends hstate hzero]
  by_cases hquiet : (s.chan c).pendingClose = none ∨ c = 0 ∨ (s.chan 0).live = false
  · rw [closeDrained_quiet hquiet]
    refine ⟨drained_chan_same c s, fun pc hpc hc hlive => ?_, fun _ => ⟨drained_taken c s, fun hc => ?_⟩, hwrite,
      hinterrupt, hkept, hdetached, fun d hd _ => drained_chan_other s hd, drained_contents c s⟩
    · simp [hpc, hc, hlive] at hquiet
    · exact drained_chan_other s (Ne.symm hc)
  · obtain ⟨hpending, hc, hlive⟩ : (s.chan c).pendingClose ≠ none ∧ c ≠ 0 ∧ (s.chan 0).live = true := by
      simpa [not_or] using hquiet
    obtain ⟨pc, hpc⟩ := Option.ne_none_iff_exists'.mp hpending
    have hzeroChan : (drained c s).chan 0 = s.chan 0 := drained_chan_other s (Ne.symm hc)
    have hzeroLive : ((drained c s).chan 0).live = true := by rwa [hzeroChan]
    rw [closeDrained_completes hpc]
    refine ⟨?_, fun pc' hpc' _ _ => ⟨?_, ?_⟩, fun h => absurd h hquiet, mem_out_takeSlot hwrite,
      fun h => mem_out_takeSlot (hinterrupt h), fun p hp hpc hd => ?_, fun p hp hpc => ?_, fun d hd hd0 => ?_,
      (drained_contents c s).trans (takeSlot_contents _ _ _)⟩
    · rw [takeSlot_chan_other _ _ hc, drained_chan_same]
    · rw [takeSlot_taken _ hzeroLive, drained_taken, hzeroChan]
      rw [hpc] at hpc'
      cases hpc'
      rfl
    · rw [takeSlot_chan_same _ hzeroLive, hzeroChan]
    · exact (mem_posts_takeSlot (by rw [hpc]; exact hc)).mpr (hkept p hp hpc hd)
    · exact hdetached p ((mem_posts_takeSlot (by rw [hpc]; exact hc)).mp hp) hpc
    · rw [takeSlot_chan_other _ _ hd0, drained_chan_other s hd]

end Sys2Proof.Machine


namespace Sys2Proof.Machine

/-! ### The VOID marks of several transactions (R19, R52)

Every footprint is a multiple of 32 bytes, and so is a segment's base: a VOID mark is always byte 2 of a header. No walk
reads its way by that byte, so the entries of a transaction stay where they are while others become VOID. -/

theorem Memory.drop_readBytes (m : Memory) (a k n : Nat) : (m.readBytes a (k + n)).drop k = m.readBytes (a + k) n := by
  induction k generalizing a with
  | zero => simp
  | succ k ih =>
    rw [Nat.succ_add, Memory.readBytes, List.drop_succ_cons, ih, Nat.add_assoc, Nat.add_comm 1 k]

theorem Memory.take_readBytes (m : Memory) (a k n : Nat) : (m.readBytes a (k + n)).take k = m.readBytes a k := by
  induction k generalizing a with
  | zero => simp [Memory.readBytes]
  | succ k ih => rw [Nat.succ_add, Memory.readBytes, List.take_succ_cons, ih, Memory.readBytes]

/-- A field of bytes read from memory is read at its own address. -/
theorem fieldAt_readBytes (m : Memory) (a : Nat) {off n len : Nat} (h : off + n ≤ len) :
    fieldAt (m.readBytes a len) off n = leValue (m.readBytes (a + off) n) := by
  obtain ⟨rest, rfl⟩ := Nat.exists_eq_add_of_le h
  rw [fieldAt, Nat.add_assoc, Memory.drop_readBytes, Memory.take_readBytes]

/-- Two memories agree but for bytes that stand where a header has its state byte. -/
def SameButStates (m k : Memory) : Prop := ∀ x, x % 32 ≠ 2 → k.read x = m.read x

theorem SameButStates.field {m k : Memory} (h : SameButStates m k) {a off n : Nat} (ha : a % 32 = 0) (hoff : 3 ≤ off)
    (hn : off + n ≤ 32) : fieldAt (k.readBytes a 32) off n = fieldAt (m.readBytes a 32) off n := by
  rw [fieldAt_readBytes _ _ hn, fieldAt_readBytes _ _ hn]
  exact congrArg leValue (readBytes_congr _ _ (fun x hlow hhigh => h x (by omega)))

/-- The fields of a header by which a walk goes on and a transaction's entries are found. -/
theorem SameButStates.header {m k : Memory} (h : SameButStates m k) {a : Nat} (ha : a % 32 = 0) :
    (parseHeader (k.readBytes a 32)).length = (parseHeader (m.readBytes a 32)).length ∧
      (parseHeader (k.readBytes a 32)).serial = (parseHeader (m.readBytes a 32)).serial ∧
      (parseHeader (k.readBytes a 32)).seq = (parseHeader (m.readBytes a 32)).seq :=
  ⟨h.field ha (by decide) (by decide), h.field ha (by decide) (by decide), h.field ha (by decide) (by decide)⟩

theorem walkFrom_sameButStates {m k : Memory} (h : SameButStates m k) {base : Nat} (hbase : base % 32 = 0)
    (i : SegId) (fill serial first last fuel : Nat) {off : Nat} (hoff : off % 32 = 0) :
    ((walkFrom k base fill fuel off).filter (fun e => e.2.serial == serial && between first e.2.seq last)).map
        (fun e => (i, e.1)) =
      ((walkFrom m base fill fuel off).filter (fun e => e.2.serial == serial && between first e.2.seq last)).map
        (fun e => (i, e.1)) := by
  induction fuel generalizing off with
  | zero => rfl
  | succ fuel ih =>
    obtain ⟨hlength, hserial, hseq⟩ := h.header (a := base + off) (by omega)
    have hfootprint := (footprint_spec (parseHeader (m.readBytes (base + off) 32)).length).1
    simp only [walkFrom]
    split
    · rw [hlength]
      simp only [List.filter_cons, hserial, hseq]
      split
      · rw [List.map_cons, List.map_cons, ih (by omega)]
      · exact ih (by omega)
    · rfl

theorem walkFrom_aligned {m : Memory} {base fill fuel off : Nat} (hoff : off % 32 = 0) :
    ∀ e ∈ walkFrom m base fill fuel off, e.1 % 32 = 0 := by
  induction fuel generalizing off with
  | zero => simp [walkFrom]
  | succ fuel ih =>
    have hfootprint := (footprint_spec (parseHeader (m.readBytes (base + off) 32)).length).1
    simp only [walkFrom]
    split
    · intro e he
      rcases List.mem_cons.mp he with rfl | he
      · exact hoff
      · exact ih (by omega) e he
    · simp

theorem segBase_aligned (i : SegId) : segBase i % 32 = 0 := by
  unfold segBase
  omega

/-- Where a transaction's entries stand does not depend on state bytes. -/
theorem entriesOfTxn_congr {s u : State} (hchain : u.journal.chain = s.journal.chain)
    (hsegs : u.journal.segs = s.journal.segs) (hsram : SameButStates s.journal.sram u.journal.sram)
    (serial first last : Nat) : u.entriesOfTxn serial first last = s.entriesOfTxn serial first last := by
  have hseg : ∀ i, u.seg i = s.seg i := fun i => by simp only [State.seg, hsegs]
  simp only [State.entriesOfTxn, State.entriesOf, hchain, hseg,
    walkFrom_sameButStates hsram (segBase_aligned _) _ _ _ _ _ _ (Nat.zero_mod 32)]

theorem entriesOfTxn_aligned {s : State} {serial first last : Nat} {e : SegId × Nat}
    (h : e ∈ s.entriesOfTxn serial first last) : e.2 % 32 = 0 := by
  obtain ⟨i, -, hi⟩ := List.mem_flatMap.mp h
  obtain ⟨x, hx, rfl⟩ := List.mem_map.mp hi
  exact walkFrom_aligned (Nat.zero_mod 32) x (List.mem_of_mem_filter hx)

/-- The VOID marks of one transaction are state bytes. -/
theorem voidTxn_sameButStates (t : TxnRecord) (s : State) :
    SameButStates s.journal.sram (voidTxn t s).journal.sram := fun x hx =>
  (voidTxn_voided t s).2 x fun e he => by
    have haligned := entriesOfTxn_aligned he
    have hbase := segBase_aligned e.1
    omega

/-- The entries of every transaction of a list become VOID, and no other byte of SRAM changes. -/
theorem voidTxns_read (l : List TxnRecord) (s : State) (a : Nat) :
    ((∃ t ∈ l, ∃ e ∈ s.entriesOfTxn t.serial t.firstSeq t.lastSeq, a = segBase e.1 + (e.2 + 2)) →
        (l.foldl (fun s t => voidTxn t s) s).journal.sram.read a = 2) ∧
      ((∀ t ∈ l, ∀ e ∈ s.entriesOfTxn t.serial t.firstSeq t.lastSeq, a ≠ segBase e.1 + (e.2 + 2)) →
        (l.foldl (fun s t => voidTxn t s) s).journal.sram.read a = s.journal.sram.read a) := by
  induction l generalizing s with
  | nil => simp
  | cons x xs ih =>
    obtain ⟨hmarked, hother⟩ := ih (voidTxn x s)
    obtain ⟨hvoid, hkept⟩ := voidTxn_voided x s
    have hentries : ∀ t : TxnRecord, (voidTxn x s).entriesOfTxn t.serial t.firstSeq t.lastSeq =
        s.entriesOfTxn t.serial t.firstSeq t.lastSeq :=
      fun t => entriesOfTxn_congr (by simp) (by simp) (voidTxn_sameButStates x s) _ _ _
    simp only [hentries] at hmarked hother
    rw [List.foldl_cons]
    refine ⟨fun ⟨t, ht, e, he, ha⟩ => ?_, fun hnone => ?_⟩
    · by_cases hlater : ∃ t ∈ xs, ∃ e ∈ s.entriesOfTxn t.serial t.firstSeq t.lastSeq, a = segBase e.1 + (e.2 + 2)
      · exact hmarked hlater
      · rcases List.mem_cons.mp ht with rfl | ht
        · rw [hother fun u hu f hf hfa => hlater ⟨u, hu, f, hf, hfa⟩, ha]
          exact hvoid e he
        · exact absurd ⟨t, ht, e, he, ha⟩ hlater
    · rw [hother fun t ht => hnone t (List.mem_cons_of_mem _ ht)]
      exact hkept a (hnone x List.mem_cons_self)

/-- The end of the transactions of some channels makes their OPEN ones VOID (R52). -/
theorem endTxns_voided (p : ChanId → Bool) (s : State) : VoidedAll (fun t => p t.chan) s (endTxns p s) := by
  have hread := voidTxns_read (s.txns.table.filter (fun t => p t.chan && !t.expired)) s
  have hmem : ∀ t, t ∈ s.txns.table.filter (fun t => p t.chan && !t.expired) ↔
      t ∈ s.txns.table ∧ p t.chan = true ∧ t.expired = false := fun t => by simp
  refine ⟨fun t ht hp hopen e he => (hread _).1 ⟨t, (hmem t).mpr ⟨ht, hp, hopen⟩, e, he, rfl⟩, fun a ha => ?_⟩
  refine (hread a).2 fun t ht e he => ?_
  obtain ⟨htable, hp, hopen⟩ := (hmem t).mp ht
  exact ha t htable hp hopen e he

/-- All records of the channels are removed, and the next serial stays (R52). -/
theorem endTxns_txns (p : ChanId → Bool) (s : State) :
    (endTxns p s).txns = { s.txns with table := s.txns.table.filter (fun t => !p t.chan) } := by
  have hkept := foldl_keeps (fun s : State => s.txns) (fun s t => voidTxn t s) (fun s t => by simp)
    (s.txns.table.filter (fun t => p t.chan && !t.expired)) s
  simp only [endTxns]
  rw [hkept]

/-- What VOID marks say of a state holds of another one with the same journal and transactions before them. -/
theorem VoidedAll.congr {p : TxnRecord → Bool} {s t u v : State} (h : VoidedAll p t u)
    (hsram : t.journal.sram = s.journal.sram) (hchain : t.journal.chain = s.journal.chain)
    (hsegs : t.journal.segs = s.journal.segs) (htxns : t.txns = s.txns) (hv : v.journal.sram = u.journal.sram) :
    VoidedAll p s v := by
  have hentries : ∀ serial first last, t.entriesOfTxn serial first last = s.entriesOfTxn serial first last :=
    entriesOfTxn_congr hchain hsegs (fun x _ => by rw [hsram])
  simpa only [VoidedAll, hentries, hsram, htxns, hv] using h

/-! ### The operation in flight while bytes are written into segments (R34, R76) -/

/-- The operation in flight is the same, a store pass but for how far it has come (log entry 6). -/
structure OpGoesOn (o o' : Option Operation) : Prop where
  idle : o = none → o' = none
  job : ∀ i w, o = some (.job i w) → ∃ w', (w' = w ∨ min w 4096 ≤ w' ∧ w' ≤ 4096) ∧ o' = some (.job i w')
  checkpoint : ∀ slot x k, o = some (.checkpoint slot x k) → o' = some (.checkpoint slot x k)
  closingMark : ∀ m k, o = some (.closingMark m k) → o' = some (.closingMark m k)

theorem OpGoesOn.refl (o : Option Operation) : OpGoesOn o o :=
  ⟨id, fun _ w h => ⟨w, Or.inl rfl, h⟩, fun _ _ _ h => h, fun _ _ h => h⟩

theorem OpGoesOn.trans {o o' o'' : Option Operation} (a : OpGoesOn o o') (b : OpGoesOn o' o'') : OpGoesOn o o'' := by
  refine ⟨fun h => b.idle (a.idle h), fun i w h => ?_, fun slot x k h => b.checkpoint _ _ _ (a.checkpoint _ _ _ h),
    fun m k h => b.closingMark _ _ (a.closingMark _ _ h)⟩
  obtain ⟨w', hw, h'⟩ := a.job i w h
  obtain ⟨w'', hw', h''⟩ := b.job i w' h'
  exact ⟨w'', by omega, h''⟩

/-- A pass never falls back, but to the end of its segment. -/
theorem OpGoesOn.pass {o o' : Option Operation} (a : OpGoesOn o o') (i : SegId) (w : Nat) (h : o = some (.job i w)) :
    ∃ w', (w ≤ w' ∨ w' = 4096) ∧ o' = some (.job i w') := by
  obtain ⟨w', hw, h'⟩ := a.job i w h
  exact ⟨w', by omega, h'⟩

theorem advanceCopy_op (i : SegId) (s : State) : OpGoesOn s.store.op (advanceCopy i s).store.op := by
  rw [advanceCopy]
  split
  · next j w hop =>
    split
    · rw [hop]
      refine ⟨fun h => (by cases h), fun i w h => ?_, fun _ _ _ h => (by cases h), fun _ _ h => (by cases h)⟩
      cases h
      exact ⟨_, by omega, rfl⟩
    · exact OpGoesOn.refl _
  · exact OpGoesOn.refl _

theorem voidTxn_op (t : TxnRecord) (s : State) : OpGoesOn s.store.op (voidTxn t s).store.op :=
  foldl_invariant (P := fun u => OpGoesOn s.store.op u.store.op) markVoid
    (fun u e hu => hu.trans (advanceCopy_op e.1 u)) _ (OpGoesOn.refl _)

theorem endTxns_op (p : ChanId → Bool) (s : State) : OpGoesOn s.store.op (endTxns p s).store.op :=
  foldl_invariant (P := fun u => OpGoesOn s.store.op u.store.op) (fun u t => voidTxn t u)
    (fun u t hu => hu.trans (voidTxn_op t u)) _ (OpGoesOn.refl _)

/-! ### Host reset (R166) -/

/-- With no request held, a change of the held set queues nothing when pressure does not rise (R68, R73). -/
theorem heldChanged_store {t : State} (hheld : t.budget.held = [])
    (hquiet : t.budget.pressure = true ∨ t.dirtyCount + t.budget.headroom < t.budget.b) :
    (heldChanged t).store = t.store := by
  have hclear : clearFull t = { t with journal.full := false } := by simp [clearFull, hheld]
  have hlevel : (clearFull t).pressureLevel = decide (t.dirtyCount + t.budget.headroom ≥ t.budget.b) := by
    rw [hclear]
    simp only [State.pressureLevel, hheld, List.any_nil, Bool.or_false]
    rfl
  simp only [heldChanged, recomputePressure]
  split
  · split
    · simp
    · next hchanged =>
      have hfalls : (clearFull t).pressureLevel = false := by
        rw [hlevel] at hchanged ⊢
        rw [hclear] at hchanged
        rcases hquiet with hpressure | hbelow
        · simpa [hpressure] using hchanged
        · simpa using hbelow
      simp [hfalls]
  · simp

/-- The state of a host reset before the store engine may start an operation (R165). -/
def hostCleared (s : State) : State := heldChanged (dropHostWork (endTxns (fun _ => true) (abandonTransfers s)))

section
variable {s : State}

theorem hostReset_eq (h : s.device ≠ .off) : hostReset s = startNext false (hostCleared s) := by
  rw [hostReset, if_neg h]
  rfl

theorem hostCleared_dirtyCount (s : State) :
    (dropHostWork (endTxns (fun _ => true) (abandonTransfers s))).dirtyCount = s.dirtyCount :=
  dirtyCount_congr (SameSegments.of_segs (by simp))

/-- The store engine at a host reset that leaves pressure as it is or releases it. -/
theorem hostCleared_store
    (hquiet : s.budget.pressure = true ∨ s.dirtyCount + s.budget.headroom < s.budget.b) :
    (hostCleared s).store.queue = s.store.queue ∧ (hostCleared s).store.metadataDirty = s.store.metadataDirty ∧
      (hostCleared s).store.jobsSinceDirty = s.store.jobsSinceDirty ∧
      OpGoesOn s.store.op (hostCleared s).store.op := by
  have hstore := heldChanged_store (t := dropHostWork (endTxns (fun _ => true) (abandonTransfers s))) rfl
    (by rw [hostCleared_dirtyCount]; simpa using hquiet)
  have hop := endTxns_op (fun _ => true) (abandonTransfers s)
  rw [hostCleared, hstore]
  exact ⟨by simp, by simp, by simp, by simpa using hop⟩

/-- With an operation in flight, or with nothing queued, the store engine starts none. -/
theorem startNext_none {t : State} (h : t.store.op ≠ none ∨ t.store.queue = []) : startNext false t = t := by
  rw [startNext]
  split
  · next hmay =>
    have hqueue : t.store.queue = [] := h.resolve_left (not_not.mpr (mayStart_iff.mp hmay).1)
    rw [if_neg (by simp)]
    simp only [startJob, hqueue]
  · rfl

theorem hostReset_storeGoesOn (hoff : s.device ≠ .off) (hidle : s.store.op ≠ none ∨ s.store.queue = [])
    (hquiet : s.budget.pressure = true ∨ s.dirtyCount + s.budget.headroom < s.budget.b) :
    (hostReset s).store.queue = s.store.queue ∧ (hostReset s).store.metadataDirty = s.store.metadataDirty ∧
      (hostReset s).store.jobsSinceDirty = s.store.jobsSinceDirty ∧ OpGoesOn s.store.op (hostReset s).store.op := by
  have hstore := hostCleared_store hquiet
  have hnone : (hostCleared s).store.op.isNone = s.store.op.isNone := by simp [hostCleared]
  have hop : (hostCleared s).store.op ≠ none ∨ (hostCleared s).store.queue = [] := by
    rw [hstore.1]
    refine hidle.imp_left fun hbusy hidle => hbusy ?_
    rw [hidle] at hnone
    exact Option.isNone_iff_eq_none.mp hnone.symm
  rw [hostReset_eq hoff, startNext_none hop]
  exact hstore

/-- What every block clears (R166). -/
theorem hostReset_clears (hoff : s.device ≠ .off) :
    (hostReset s).window = { s.window with enable := false, ctrlFault := none } ∧
      (∀ c, (hostReset s).chan c = Channel.closed) ∧ (hostReset s).cc.fetch = none ∧
      (hostReset s).cc.lastServed = 15 ∧ (hostReset s).cc.alertWaiters = [] ∧ (hostReset s).cc.posts = [] ∧
      (hostReset s).cc.statusWrites = [] ∧ (hostReset s).staging.buffers = [] ∧ (hostReset s).staging.waiters = [] ∧
      (hostReset s).journal.readBuffers = [] ∧ (hostReset s).journal.readWaiters = [] ∧
      (hostReset s).store.waiting = [] ∧ (hostReset s).store.reservationWaiters = [] ∧
      (hostReset s).budget.held = [] ∧ (hostReset s).txns = { s.txns with table := [] } := by
  have htxns : (endTxns (fun _ => true) (abandonTransfers s)).txns = { s.txns with table := [] } := by
    simp [endTxns_txns]
  rw [hostReset_eq hoff]
  refine ⟨?_, fun c => ?_, ?_, ?_, ?_, ?_, ?_, ?_, ?_, ?_, ?_, ?_, ?_, ?_, ?_⟩
  all_goals simp [hostCleared, dropHostWork, State.chan, htxns]

/-- The transfers in progress are recorded as abandoned (R119, R166). -/
theorem hostReset_out (hoff : s.device ≠ .off) :
    (hostReset s).out = .abandoned s.writeCuts (Config.freeInterruptSent s.free) :: s.out := by
  rw [hostReset_eq hoff, ← abandonTransfers_out]
  simp [hostCleared]

theorem hostReset_segments (hoff : s.device ≠ .off) : SameSegments s (hostReset s) := by
  rw [hostReset_eq hoff]
  exact (SameSegments.of_segs (by simp [hostCleared])).trans (startNext_segments false _)

theorem hostReset_voided (hoff : s.device ≠ .off) : VoidedAll (fun _ => true) s (hostReset s) := by
  rw [hostReset_eq hoff]
  exact (endTxns_voided (fun _ => true) (abandonTransfers s)).congr (by simp) (by simp) (by simp) (by simp)
    (by simp [hostCleared])

end

/-- Settles O13: what every block clears, what the frame of a host reset keeps, the VOID marks, and the store engine. -/
theorem hostResetEffect : Obligations.HostResetEffect := by
  intro cause s hoff
  obtain ⟨hwindow, hchans, hfetch, hserved, hwaiters, hposts, hwrites, hbuffers, hstaging, hreads, hreadWaiters,
    hwaiting, hreservations, hheld, htxns⟩ := hostReset_clears hoff
  refine ⟨hostReset s, rfl, hostReset_device hoff, hwindow, hchans, hfetch, hserved, hwaiters, by simp, hposts, hwrites,
    hbuffers, hstaging, hreads, hreadWaiters, hwaiting, hreservations, hheld, by rw [htxns], by rw [htxns], by simp,
    by simp, by simp, by simp, by simp, fun i _ => hostReset_segments hoff i, by simp, by simp, by simp, by simp,
    by simp, by simp, by simp, by simp, by simp, by simp, by simp, by simp, hostReset_voided hoff,
    ⟨_, hostReset_out hoff⟩, by simp, by simp, by simp, by simp, fun hidle hquiet => ?_⟩
  obtain ⟨hqueue, hdirty, hjobs, hop⟩ := hostReset_storeGoesOn hoff hidle hquiet
  exact ⟨hqueue, hdirty, hjobs, hop.idle, hop.pass, hop.checkpoint, hop.closingMark⟩

end Sys2Proof.Machine


namespace Sys2Proof.Machine

/-! ### A fault begins (R164, steps 1 to 3; R152, R165, R168) -/

/-- The state of a fault in which the channel's work is dropped, before what a fault of channel 0 adds. -/
def faultDropped (c : ChanId) (reason : FaultReason) (s : State) : State :=
  (dropWork c ((dropWrites c reason s).modChan c
    (fun ch => { ch with state := .faulted, faultReason := some reason }))).modChan c
    (fun ch => { ch with inFlight := 0, cplNext := ch.published })

section
variable (c : ChanId) (reason : FaultReason) (s : State)

theorem beginFault_eq : beginFault c reason s =
    if c = 0 then controlFault reason (faultDropped c reason s) else faultDropped c reason s := rfl

theorem faultDropped_chan_same : (faultDropped c reason s).chan c =
    { s.chan c with state := .faulted, faultReason := some reason, exec := none, inFlight := 0,
                    cplNext := (s.chan c).published } := by
  have hdropped : (dropWrites c reason s).chan c = s.chan c := by simp [State.chan]
  rw [faultDropped, State.chan_modChan_same, dropWork_chan_same, State.chan_modChan_same, hdropped]

theorem faultDropped_chan_other {d : ChanId} (h : d ≠ c) : (faultDropped c reason s).chan d = s.chan d := by
  have hdropped : (dropWrites c reason s).chan d = s.chan d := by simp [State.chan]
  have hwork : ∀ t : State, (dropWork c t).chan d = t.chan d := fun t => by
    rw [← endExecution_chan_other t h]
    simp [dropWork, State.chan]
  rw [faultDropped, State.chan_modChan_other _ _ h, hwork, State.chan_modChan_other _ _ h, hdropped]

/-- What of the channel's work stands no more, and what of the others' is kept. -/
theorem faultDropped_work :
    (faultDropped c reason s).cc.fetch = (if s.cc.fetch = some c then none else s.cc.fetch) ∧
      (faultDropped c reason s).store.waiting = s.store.waiting.filter (fun w => w.chan != c) ∧
      (faultDropped c reason s).cc.posts = s.cc.posts.filter (fun p => !(p.chan == c && p.detached.isNone)) ∧
      (faultDropped c reason s).out = (dropWrites c reason s).out ∧
      (faultDropped c reason s).window = s.window ∧ (faultDropped c reason s).cc.alertWaiters = s.cc.alertWaiters := by
  refine ⟨?_, ?_, ?_, ?_, ?_, ?_⟩ <;> simp [faultDropped, dropWork, abandonPosts]

theorem faultDropped_holdings : HoldingsReturned c s (faultDropped c reason s) := by
  have hreturned := endExecution_holdings c ((dropWrites c reason s).modChan c
    (fun ch => { ch with state := .faulted, faultReason := some reason }))
  have hdropped : HoldingsReturned c s (endExecution c ((dropWrites c reason s).modChan c
      (fun ch => { ch with state := .faulted, faultReason := some reason }))) := by
    unfold HoldingsReturned at hreturned ⊢
    simpa using hreturned
  exact hdropped.of_eq (by simp [faultDropped, dropWork]) (by simp [faultDropped, dropWork])
    (by simp [faultDropped, dropWork]) (by simp [faultDropped, dropWork]) (by simp [faultDropped, dropWork])
    (by simp [faultDropped, dropWork])

/-- The state of a fault in which its channel is FAULTED and its OPEN transactions are VOID (R164, R52). -/
def faultBegun : State := endTxns (fun d => d == c) (beginFault c reason s)

end

section
variable {c : ChanId} {reason : FaultReason} {s : State}

theorem faultBegun_chan_same : (faultBegun c reason s).chan c =
    { s.chan c with state := .faulted, faultReason := some reason, exec := none, inFlight := 0,
                    cplNext := (s.chan c).published,
                    pendingClose := if c = 0 then none else (s.chan c).pendingClose } := by
  have hcc : (faultBegun c reason s).chan c = (beginFault c reason s).chan c := by simp [faultBegun, State.chan]
  rw [hcc, beginFault_eq]
  split
  · have hcontrol : (controlFault reason (faultDropped c reason s)).chan c =
        { (faultDropped c reason s).chan c with pendingClose := none } := State.getElem_buildChans _ c
    rw [hcontrol, faultDropped_chan_same]
  · rw [faultDropped_chan_same]

theorem faultBegun_chan_other {d : ChanId} (h : d ≠ c) : (faultBegun c reason s).chan d =
    if c = 0 then { s.chan d with pendingClose := none } else s.chan d := by
  have hcc : (faultBegun c reason s).chan d = (beginFault c reason s).chan d := by simp [faultBegun, State.chan]
  rw [hcc, beginFault_eq]
  split
  · have hcontrol : (controlFault reason (faultDropped c reason s)).chan d =
        { (faultDropped c reason s).chan d with pendingClose := none } := State.getElem_buildChans _ d
    rw [hcontrol, faultDropped_chan_other c reason s h]
  · rw [faultDropped_chan_other c reason s h]

theorem faultBegun_work (c : ChanId) (reason : FaultReason) (s : State) :
    (faultBegun c reason s).cc.fetch = (if s.cc.fetch = some c then none else s.cc.fetch) ∧
      (faultBegun c reason s).store.waiting = s.store.waiting.filter (fun w => w.chan != c) ∧
      (faultBegun c reason s).cc.posts = s.cc.posts.filter (fun p => !(p.chan == c && p.detached.isNone)) ∧
      (faultBegun c reason s).out = (dropWrites c reason s).out := by
  obtain ⟨hfetch, hwaiting, hposts, hout, -⟩ := faultDropped_work c reason s
  rw [← hfetch, ← hwaiting, ← hposts, ← hout]
  simp only [faultBegun, endTxns_frame, beginFault_eq]
  split <;> simp

/-- A fault of channel 0 sets CTRL_FAULT with the first cause and discards the alert waiters; no other one does (R152,
R165, R171). -/
theorem faultBegun_control (c : ChanId) (reason : FaultReason) (s : State) :
    (c = 0 → (faultBegun c reason s).window = { s.window with ctrlFault := some (s.window.ctrlFault.getD reason) } ∧
        (faultBegun c reason s).cc.alertWaiters = []) ∧
      (c ≠ 0 → (faultBegun c reason s).window = s.window ∧
        (faultBegun c reason s).cc.alertWaiters = s.cc.alertWaiters) := by
  obtain ⟨-, -, -, -, hwindow, hwaiters⟩ := faultDropped_work c reason s
  simp only [faultBegun, endTxns_frame, beginFault_eq]
  refine ⟨fun hc => ?_, fun hc => ?_⟩
  · rw [if_pos hc]
    exact ⟨by simp only [controlFault, hwindow], rfl⟩
  · rw [if_neg hc]
    exact ⟨hwindow, hwaiters⟩

theorem faultBegun_holdings (c : ChanId) (reason : FaultReason) (s : State) :
    HoldingsReturned c s (faultBegun c reason s) := by
  refine (faultDropped_holdings c reason s).of_eq ?_ ?_ ?_ ?_ ?_ ?_
  all_goals
    simp only [faultBegun, endTxns_frame, beginFault_eq]
    split <;> simp

theorem faultBegun_txns : (faultBegun c reason s).txns =
    { s.txns with table := s.txns.table.filter (fun x => !(x.chan == c)) } := by
  rw [faultBegun, endTxns_txns]
  simp

/-! ### A fault is reported (R164) -/

/-- The state in which a fault's status block write and interrupt have begun, before its alert. -/
def faultShown (c : ChanId) (reason : FaultReason) (t : State) : State :=
  sendInterrupt c (if reason = .statusWrite then t else writeStatus c .ignored t)

theorem reportFault_eq (c : ChanId) (reason : FaultReason) (t : State) : reportFault c reason t =
    postAlert .channelFault 0 (c.val + reason.code * 2 ^ 8) (faultShown c reason t) := rfl

theorem faultShown_chans (c : ChanId) (reason : FaultReason) (t : State) :
    (faultShown c reason t).chan c = { t.chan c with pendingInt := 0, holdoffTimer := none } ∧
      ∀ d, d ≠ c → (faultShown c reason t).chan d = t.chan d := by
  have hchan : ∀ d, (if reason = .statusWrite then t else writeStatus c .ignored t).chan d = t.chan d :=
    fun d => by split <;> simp [State.chan]
  exact ⟨by rw [faultShown, sendInterrupt_chan_same, hchan],
    fun d hd => by rw [faultShown, sendInterrupt_chan_other _ hd, hchan]⟩

theorem faultShown_out (c : ChanId) (reason : FaultReason) (t : State) :
    (reason ≠ .statusWrite → .write (t.chan c).statusAddr (t.chan c).statusBlock ∈ (faultShown c reason t).out) ∧
      .interrupt (t.chan c).vector ∈ (faultShown c reason t).out ∧ ∀ a ∈ t.out, a ∈ (faultShown c reason t).out := by
  rw [faultShown, sendInterrupt_out]
  split
  · next h => exact ⟨fun hne => absurd h hne, List.mem_cons_self, fun a ha => List.mem_cons_of_mem _ ha⟩
  · refine ⟨fun _ => ?_, ?_, fun a ha => ?_⟩
    · simp [writeStatus, beginStatusWrite, State.emit]
    · simp [State.chan]
    · simp [writeStatus, beginStatusWrite, State.emit, ha]

theorem faultShown_kept (c : ChanId) (reason : FaultReason) (t : State) :
    (faultShown c reason t).cc.posts = t.cc.posts ∧ (faultShown c reason t).cc.alerts = t.cc.alerts ∧
      (faultShown c reason t).cc.alertWaiters = t.cc.alertWaiters ∧ (faultShown c reason t).clock = t.clock := by
  unfold faultShown
  split <;> simp

/-- An alert reaches channel 0 at most. -/
theorem postAlert_chan_other {d : ChanId} (kind : AlertKind) (n k : Nat) (t : State) (h : d ≠ 0) :
    (postAlert kind n k t).chan d = t.chan d := by
  rw [postAlert]
  split
  · exact takeSlot_chan_other _ _ h
  · rfl

theorem mem_posts_postAlert {p : Post} (kind : AlertKind) (n k : Nat) (t : State) (h : p.chan ≠ 0) :
    p ∈ (postAlert kind n k t).cc.posts ↔ p ∈ t.cc.posts := by
  rw [postAlert]
  split
  · exact mem_posts_takeSlot h
  · rfl

theorem mem_out_postAlert {a : LinkAction} (kind : AlertKind) (n k : Nat) {t : State} (h : a ∈ t.out) :
    a ∈ (postAlert kind n k t).out := by
  rw [postAlert]
  split
  · exact mem_out_takeSlot h
  · exact h

/-! ### The close that waited for the drain of a channel that has faulted (R168) -/

/-- The completion of the close of a channel that has faulted (section 11.3, log entry 17). -/
def faultedClose (c : ChanId) (reason : FaultReason) (pc : PendingClose) : Completion :=
  { tag := pc.tag, kindCode := 0x14, status := .ok, deferred := false, alertCode := 0, alertCount := 0, seq := 0,
    stamp := Stamp.zero, detail := c.val + 3 * 2 ^ 8 + reason.code * 2 ^ 16 + pc.cancelled * 2 ^ 32 }

theorem closeFaulted_none {t : State} (h : (t.chan c).pendingClose = none) : closeFaulted c reason t = t := by
  simp only [closeFaulted, h]

theorem closeFaulted_some {t : State} {pc : PendingClose} (h : (t.chan c).pendingClose = some pc) :
    closeFaulted c reason t = takeSlot 0 (faultedClose c reason pc) (t.setChan c Channel.closed) := by
  simp only [closeFaulted, h]
  rfl

theorem mem_out_closeFaulted {t : State} {a : LinkAction} (h : a ∈ t.out) : a ∈ (closeFaulted c reason t).out := by
  cases hpc : (t.chan c).pendingClose with
  | none => rw [closeFaulted_none hpc]; exact h
  | some pc => rw [closeFaulted_some hpc]; exact mem_out_takeSlot (by simpa using h)

/-- Another data channel does not see the close. -/
theorem closeFaulted_chan_other {t : State} {d : ChanId} (hc : d ≠ c) (h0 : d ≠ 0) :
    (closeFaulted c reason t).chan d = t.chan d := by
  cases hpc : (t.chan c).pendingClose with
  | none => rw [closeFaulted_none hpc]
  | some pc => rw [closeFaulted_some hpc, takeSlot_chan_other _ _ h0, State.chan_setChan_other _ _ hc]

/-! ### A fault up to its grant run (R164, log entry 33) -/

/-- The state of a fault before the grant run that may follow it. -/
def faultDone (c : ChanId) (reason : FaultReason) (s : State) : State :=
  closeFaulted c reason (reportFault c reason (faultBegun c reason s))

theorem faultChannel_live (h : (s.chan c).live = true) :
    faultChannel c reason s = grantAfter (s.oldestIs c) (faultDone c reason s) := if_pos h

theorem faultChannel_dead (h : (s.chan c).live = false) : faultChannel c reason s = s := by
  rw [faultChannel, if_neg (by simp [h])]

/-- With no alert waiter left, the report is an alert in the list and nothing else (R171). -/
theorem reportFault_quiet (h : c = 0 ∨ s.cc.alertWaiters = []) :
    reportFault c reason (faultBegun c reason s) = { faultShown c reason (faultBegun c reason s) with
      cc.alerts := foldAlert .channelFault 0 (c.val + reason.code * 2 ^ 8) s.clock.reading s.cc.alerts } := by
  obtain ⟨-, halerts, hwaiters, hclock⟩ := faultShown_kept c reason (faultBegun c reason s)
  obtain ⟨hzero, hother⟩ := faultBegun_control c reason s
  have hlist : (faultBegun c reason s).cc.alerts = s.cc.alerts := by simp [faultBegun]
  have hreading : (faultShown c reason (faultBegun c reason s)).clock.reading = s.clock.reading := by
    rw [hclock]
    simp [faultBegun]
  have hnone : (faultShown c reason (faultBegun c reason s)).cc.alertWaiters = [] := by
    rw [hwaiters]
    by_cases hc : c = 0
    · exact (hzero hc).2
    · rw [(hother hc).2]
      exact h.resolve_left hc
  rw [reportFault_eq, postAlert_eq hnone, hreading, halerts, hlist]

/-- The record of the channel once the fault is reported. -/
theorem reportFault_chan_same : (reportFault c reason (faultBegun c reason s)).chan c =
    { s.chan c with state := .faulted, faultReason := some reason, exec := none, inFlight := 0,
                    cplNext := (s.chan c).published, pendingInt := 0, holdoffTimer := none,
                    pendingClose := if c = 0 then none else (s.chan c).pendingClose } := by
  obtain ⟨hshown, -⟩ := faultShown_chans c reason (faultBegun c reason s)
  rw [faultBegun_chan_same] at hshown
  rw [← hshown]
  by_cases hc : c = 0
  · rw [reportFault_quiet (Or.inl hc)]
    rfl
  · exact postAlert_chan_other _ _ _ _ hc

theorem reportFault_chan_other {d : ChanId} (hc : d ≠ c) (h0 : d ≠ 0) :
    (reportFault c reason (faultBegun c reason s)).chan d = (faultBegun c reason s).chan d := by
  rw [reportFault_eq, postAlert_chan_other _ _ _ _ h0, (faultShown_chans c reason _).2 d hc]

/-- Without a close that waits for another channel's drain, nothing follows the report. -/
theorem faultDone_unclosed (h : c = 0 ∨ (s.chan c).pendingClose = none) :
    faultDone c reason s = reportFault c reason (faultBegun c reason s) := by
  refine closeFaulted_none ?_
  rw [reportFault_chan_same]
  rcases h with h | h <;> simp [h]

theorem faultDone_closes {pc : PendingClose} (hc : c ≠ 0) (hpc : (s.chan c).pendingClose = some pc) :
    faultDone c reason s = takeSlot 0 (faultedClose c reason pc)
      ((reportFault c reason (faultBegun c reason s)).setChan c Channel.closed) := by
  refine closeFaulted_some ?_
  rw [reportFault_chan_same, if_neg hc, hpc]

theorem mem_out_faultDone {a : LinkAction} (h : a ∈ (faultShown c reason (faultBegun c reason s)).out) :
    a ∈ (faultDone c reason s).out :=
  mem_out_closeFaulted (mem_out_postAlert _ _ _ h)

/-- The channel's completions that it had not posted are gone (R164). -/
theorem faultDone_posts : ∀ p ∈ (faultDone c reason s).cc.posts, p.chan = c → p.detached ≠ none := by
  obtain ⟨-, -, hposts, -⟩ := faultBegun_work c reason s
  have hbegun : ∀ p ∈ (faultBegun c reason s).cc.posts, p.chan = c → p.detached ≠ none := fun p hp hpc hd => by
    rw [hposts] at hp
    simpa [hpc, hd] using (List.mem_filter.mp hp).2
  obtain ⟨hshown, -⟩ := faultShown_kept c reason (faultBegun c reason s)
  intro p hp hpc
  by_cases hc : c = 0
  · rw [faultDone_unclosed (Or.inl hc), reportFault_quiet (Or.inl hc)] at hp
    exact hbegun p (hshown ▸ hp) hpc
  · have hreported : p ∈ (reportFault c reason (faultBegun c reason s)).cc.posts := by
      cases hclose : (s.chan c).pendingClose with
      | none => rwa [faultDone_unclosed (Or.inr hclose)] at hp
      | some pc =>
        rw [faultDone_closes hc hclose, mem_posts_takeSlot (by rw [hpc]; exact hc)] at hp
        simpa using hp
    rw [reportFault_eq, mem_posts_postAlert _ _ _ _ (by rw [hpc]; exact hc), hshown] at hreported
    exact hbegun p hreported hpc

/-- What the fault writes and sends, and where the host writes that it drops stop (R164, log entry 39). -/
theorem faultDone_out (c : ChanId) (reason : FaultReason) (s : State) :
    (reason ≠ .statusWrite →
      .write (s.chan c).statusAddr
        (statusBytes (s.chan c).reqConsumer (s.chan c).published .faulted (some reason)) ∈
          (faultDone c reason s).out) ∧
      .interrupt (s.chan c).vector ∈ (faultDone c reason s).out ∧
      (s.faultWrites c reason ≠ [] → ∃ cuts, .abandoned cuts true ∈ (faultDone c reason s).out ∧
        cuts.map Prod.fst = (s.faultWrites c reason).map Prod.fst ∧
        ∀ x ∈ cuts.zip (s.faultWrites c reason), x.1.2 ≤ x.2.2) := by
  obtain ⟨hwrite, hinterrupt, hkept⟩ := faultShown_out c reason (faultBegun c reason s)
  obtain ⟨-, -, -, hbegun⟩ := faultBegun_work c reason s
  obtain ⟨-, hdropped⟩ := dropWrites_out c reason s
  rw [faultBegun_chan_same] at hwrite hinterrupt
  refine ⟨fun hne => mem_out_faultDone (hwrite hne), mem_out_faultDone hinterrupt, fun hne => ?_⟩
  refine ⟨_, mem_out_faultDone (hkept _ ?_), cutWrites_addresses s.free _, cutWrites_le s.free _⟩
  rw [hbegun, (hdropped hne).1]
  exact List.mem_cons_self

/-- Channel 0 and the completions taken, once the fault of another channel is reported to no alert waiter. -/
theorem reportFault_quiet_taken (h : c = 0 ∨ s.cc.alertWaiters = []) :
    (reportFault c reason (faultBegun c reason s)).takenBy =
        (s.cc.posts.filter (fun p => !(p.chan == c && p.detached.isNone))).map (fun p => (p.chan, p.completion)) ∧
      (c ≠ 0 → (reportFault c reason (faultBegun c reason s)).chan 0 = s.chan 0) := by
  obtain ⟨-, -, hposts, -⟩ := faultBegun_work c reason s
  obtain ⟨hshown, -⟩ := faultShown_kept c reason (faultBegun c reason s)
  obtain ⟨-, hothers⟩ := faultShown_chans c reason (faultBegun c reason s)
  rw [reportFault_quiet h]
  refine ⟨?_, fun hc => ?_⟩
  · rw [State.takenBy, ← hposts, ← hshown]
  · refine (hothers 0 (Ne.symm hc)).trans ?_
    rw [faultBegun_chan_other (Ne.symm hc), if_neg hc]

theorem faultDone_alerts (h : c = 0 ∨ s.cc.alertWaiters = []) : (faultDone c reason s).cc.alerts =
    foldAlert .channelFault 0 (c.val + reason.code * 2 ^ 8) s.clock.reading s.cc.alerts := by
  simp only [faultDone, closeFaulted_frame, reportFault_quiet h]

/-- The waiting close completes behind what the fault has left (R168). -/
theorem faultDone_answers (h : c = 0 ∨ s.cc.alertWaiters = []) {pc : PendingClose}
    (hpc : (s.chan c).pendingClose = some pc) (hc : c ≠ 0) (hlive : (s.chan 0).live = true) :
    (faultDone c reason s).chan 0 = (s.chan 0).answered 1 ∧
      (faultDone c reason s).takenBy =
        (s.cc.posts.filter (fun p => !(p.chan == c && p.detached.isNone))).map (fun p => (p.chan, p.completion)) ++
          [(0, faultedClose c reason pc)] := by
  obtain ⟨htaken, hzero⟩ := reportFault_quiet_taken (reason := reason) h
  have hchan : ((reportFault c reason (faultBegun c reason s)).setChan c Channel.closed).chan 0 = s.chan 0 := by
    rw [State.chan_setChan_other _ _ (Ne.symm hc), hzero hc]
  have hlive' : (((reportFault c reason (faultBegun c reason s)).setChan c Channel.closed).chan 0).live = true := by
    rwa [hchan]
  rw [faultDone_closes hc hpc]
  refine ⟨?_, ?_⟩
  · rw [takeSlot_chan_same _ hlive', hchan]
    rfl
  · rw [takenBy_eq, takeSlot_taken _ hlive', List.map_append, ← takenBy_eq, ← htaken]
    rfl

/-- The host writes that a fault drops are those of the channel's request and of its unposted completions (R164). -/
theorem mem_faultWrites (c : ChanId) (reason : FaultReason) (s : State) :
    (∀ r seq stamp n, (s.chan c).exec = some r → r.stage = .readWrite seq stamp n →
        (r.req.addr, n) ∈ s.faultWrites c reason) ∧
      (∀ p ∈ s.cc.posts, p.chan = c → p.detached = none → p.phase = .record → reason ≠ .completionWrite →
        (p.addr, 32) ∈ s.faultWrites c reason) := by
  refine ⟨fun r seq stamp n hexec hstage => List.mem_append_left _ ?_, fun p hp hc hd hphase hne => ?_⟩
  · simp [hexec, Executing.hostWrite, hstage]
  · refine List.mem_append_right _ ?_
    rw [if_neg hne]
    exact List.mem_map.mpr ⟨p, List.mem_filter.mpr ⟨hp, by simp [hc, hd, hphase]⟩, rfl⟩

/-- The fault leaves the journal's counters, chain and records as they are, and makes the channel's OPEN transactions
VOID. -/
theorem faultDone_journal (c : ChanId) (reason : FaultReason) (s : State) :
    (faultDone c reason s).journal.nextSeq = s.journal.nextSeq ∧ (faultDone c reason s).journal.head = s.journal.head ∧
      (faultDone c reason s).journal.chain = s.journal.chain ∧
      SameSegmentsBut (fun _ => False) s (faultDone c reason s) ∧
      VoidedAll (fun x => x.chan == c) s (faultDone c reason s) :=
  ⟨by simp [faultDone, faultBegun], by simp [faultDone, faultBegun], by simp [faultDone, faultBegun],
    fun i _ => SameSegments.of_segs (by simp [faultDone, faultBegun]) i,
    (endTxns_voided (fun d => d == c) (beginFault c reason s)).congr (by simp) (by simp) (by simp) (by simp)
      (by simp [faultDone, faultBegun])⟩

theorem faultDone_holdings (c : ChanId) (reason : FaultReason) (s : State) :
    HoldingsReturned c s (faultDone c reason s) :=
  (faultBegun_holdings c reason s).of_eq (by simp [faultDone]) (by simp [faultDone]) (by simp [faultDone])
    (by simp [faultDone]) (by simp [faultDone]) (by simp [faultDone])

theorem faultDone_window (c : ChanId) (reason : FaultReason) (s : State) :
    (c = 0 → (faultDone c reason s).window = { s.window with ctrlFault := some (s.window.ctrlFault.getD reason) } ∧
        (faultDone c reason s).cc.alertWaiters = []) ∧
      (c ≠ 0 → (faultDone c reason s).window = s.window) := by
  obtain ⟨hzero, hother⟩ := faultBegun_control c reason s
  obtain ⟨-, -, hwaiters, -⟩ := faultShown_kept c reason (faultBegun c reason s)
  have hwindow : (faultDone c reason s).window = (faultBegun c reason s).window := by simp [faultDone]
  refine ⟨fun hc => ⟨hwindow.trans (hzero hc).1, ?_⟩, fun hc => hwindow.trans (hother hc).1⟩
  rw [faultDone_unclosed (Or.inl hc), reportFault_quiet (Or.inl hc)]
  exact hwaiters.trans (hzero hc).2

end

/-- Settles O17: the channel, its work, its transactions, its report and its waiting close, each from its own step of the
fault; the grant run comes last. -/
theorem faultEffect : Obligations.FaultEffect := by
  refine ⟨fun s c hfetch => by simp only [exec, execFetchEnd, hfetch], fun c reason s =>
    ⟨faultChannel_dead, fun hlive => ⟨faultDone c reason s, faultChannel_live hlive, ?_⟩⟩⟩
  obtain ⟨hseq, hhead, hchain, hsegments, hvoided⟩ := faultDone_journal c reason s
  obtain ⟨hwrite, hinterrupt, habandoned⟩ := faultDone_out c reason s
  obtain ⟨hcontrol, hwindow⟩ := faultDone_window c reason s
  obtain ⟨hdata, hrecords⟩ := mem_faultWrites c reason s
  obtain ⟨hfetch, hwaiting, -, -⟩ := faultBegun_work c reason s
  refine ⟨fun hopen => ?_, fun d hd h0 => ?_, by simpa [faultDone] using hfetch, by simpa [faultDone] using hwaiting,
    faultDone_posts, ?_, hvoided, faultDone_holdings c reason s, hseq, hhead, hchain, hsegments, hwrite, hinterrupt,
    hcontrol, hwindow, fun hquiet => ⟨faultDone_alerts hquiet, fun hopen => ?_,
      fun pc hpc hc hzero => faultDone_answers hquiet hpc hc hzero⟩, fun hc hclose => ?_, hdata, hrecords, habandoned⟩
  · rw [faultDone_unclosed hopen, reportFault_chan_same]
    rcases hopen with hc | hnone
    · rw [if_pos hc]
    · rw [hnone, ite_self]
  · rw [faultDone, closeFaulted_chan_other hd h0, reportFault_chan_other hd h0, faultBegun_chan_other hd]
  · rw [← faultBegun_txns (reason := reason)]
    simp [faultDone]
  · rw [faultDone_unclosed hopen.symm]
    exact reportFault_quiet_taken hquiet
  · obtain ⟨pc, hpc⟩ := Option.ne_none_iff_exists'.mp hclose
    rw [faultDone_closes hc hpc, takeSlot_chan_other _ _ hc, State.chan_setChan_same]

end Sys2Proof.Machine


namespace Sys2Proof.Machine

/-! ### The alert list and the alert waiters (R171, R173) -/

/-- A kind with no record in the list joins its tail (R171). -/
theorem foldAlert_joins {kind : AlertKind} {alerts : List AlertRecord} (n d : Nat) (stamp : Stamp)
    (h : ∀ a ∈ alerts, a.kind ≠ kind) : foldAlert kind n d stamp alerts =
      alerts ++ [{ kind := kind, count := 1, seqValue := n, detail := d, stamp := stamp }] := by
  have hnone : alerts.any (fun a => a.kind == kind) = false := by simpa using h
  simp [foldAlert, hnone]

/-- A kind with a record in the list is counted in it, at its place (R171). -/
theorem foldAlert_counts {kind : AlertKind} {alerts : List AlertRecord} (n d : Nat) (stamp : Stamp)
    (h : ∃ a ∈ alerts, a.kind = kind) : foldAlert kind n d stamp alerts = alerts.map (fun a =>
      if a.kind = kind then
        { kind := kind, count := min 255 (a.count + 1), seqValue := n, detail := d, stamp := stamp }
      else a) := by
  have hsome : alerts.any (fun a => a.kind == kind) = true := by simpa using h
  rw [foldAlert, if_pos hsome]
  refine List.map_congr_left fun a _ => ?_
  by_cases hk : a.kind = kind <;> simp [hk]

/-- The oldest waiter takes an alert, on a live channel 0 (R173). -/
theorem postAlert_handed {kind : AlertKind} (n d : Nat) {s : State} {tag : Tag} {rest : List Tag}
    (hw : s.cc.alertWaiters = tag :: rest) (hlive : (s.chan 0).live = true) :
    (postAlert kind n d s).cc.alertWaiters = rest ∧ (postAlert kind n d s).cc.alerts = s.cc.alerts ∧
      (postAlert kind n d s).taken = s.taken ++ [(0, (s.chan 0).cplNext, AlertRecord.completion
        { kind := kind, count := 1, seqValue := n, detail := d, stamp := s.clock.reading } tag true)] := by
  simp only [postAlert, hw]
  exact ⟨by simp, by simp, takeSlot_taken (s := { s with cc.alertWaiters := rest }) _ hlive⟩

/-- Settles O44: the oldest waiter takes the alert, or it is folded into the list. -/
theorem alertPosting : Obligations.AlertPosting := by
  intro s kind n d
  refine ⟨fun tag rest hw hlive => postAlert_handed n d hw hlive, fun hw hnew => ?_, fun hw hold => ?_⟩
  · rw [postAlert_eq hw, foldAlert_joins n d _ hnew]
  · rw [postAlert_eq hw, foldAlert_counts n d _ hold]

/-! ### ALERT_WAIT (R173) -/

/-- The event of a request that its owning block takes (R159). -/
theorem settle_withExec {c : ChanId} {k : Kind} {r : Executing} {s : State} (test : Bool)
    (f : Executing → State → State) (h : Executes c k .handed r s) :
    settle test (withExec c k Stage.isHanded f s) = settle test (f r s) := by
  obtain ⟨-, hexec, hkind, hstage⟩ := h
  rw [withExec_eq hexec hkind (by simp [hstage, Stage.isHanded])]

/-- A state that differs from `s` in neither a channel, a completion nor a holding. -/
theorem requestApart_of_eq {c : ChanId} {s t : State}
    (hcc : t.cc.chans = s.cc.chans ∧ t.cc.posts = s.cc.posts ∧ t.cc.fetch = s.cc.fetch)
    (hheld : t.budget.held = s.budget.held) (hfull : t.journal.full = s.journal.full)
    (hstaging : t.staging = s.staging)
    (hread : t.journal.readBuffers = s.journal.readBuffers ∧ t.journal.readWaiters = s.journal.readWaiters)
    (hreservations : t.store.reservationWaiters = s.store.reservationWaiters) : RequestApart c s t := by
  obtain ⟨hchans, hposts, hfetch⟩ := hcc
  have hchan : ∀ d, t.chan d = s.chan d := fun d => by rw [State.chan, hchans]; rfl
  exact ⟨hposts, hfetch, by rw [hchan], fun d _ => hchan d, hheld, hfull, by rw [hstaging], by rw [hstaging],
    by rw [hread.1], by rw [hread.2], by rw [hreservations]⟩

/-- Where no held record leaves, pressure stands after the holdings are returned. -/
theorem HoldingsReturned.pressure {c : ChanId} {s t u : State} (h : HoldingsReturned c t u)
    (hheld : t.budget.held = s.budget.held) (hpressure : t.budget.pressure = s.budget.pressure)
    (hnone : ∀ x ∈ s.budget.held, x.chan ≠ c) : u.budget.pressure = s.budget.pressure := by
  obtain ⟨-, -, -, -, -, -, hkept⟩ := h
  exact (hkept (by rwa [hheld])).1.trans hpressure

/-- A request completes at the end of an event that has changed neither channels, completions nor holdings. -/
theorem completed_settle_apart {c : ChanId} {s t : State} (x : Completion) (test : Bool)
    (h : (t.chan c).state = .active) (ht : RequestApart c s t) (hheld : t.budget.held = s.budget.held)
    (hpressure : t.budget.pressure = s.budget.pressure) :
    Completed c x s (settle test (completeExec c x t)) ∧ SameContents t (settle test (completeExec c x t)) := by
  have hcompleted := completed_settle x test h
  obtain ⟨-, -, hreturned, -⟩ := id hcompleted
  exact ⟨hcompleted.of_requestApart ht (hreturned.pressure hheld hpressure),
    (completeExec_contents c x t).trans (settle_contents test _)⟩

/-- The end of an execution leaves the journal and the other units as they are. -/
theorem endExecution_contents (c : ChanId) (s : State) : SameContents s (endExecution c s) := by
  refine ⟨⟨by simp, by simp, by simp, by simp, by simp, by simp, SameSegments.of_segs (by simp)⟩, ?_⟩
  unfold SameUnits
  simp

/-- A request whose execution ends without a slot stays in flight (R84, R173). -/
theorem deferred_endExecution (c : ChanId) (test : Bool) (s : State) :
    Deferred c s (settle test (endExecution c s)) := by
  have hfetch : (endExecution c s).cc.fetch = s.cc.fetch := by simp
  refine ⟨?_, ?_, ?_, fun d hd => ?_⟩
  · rw [settle_taken, taken_of_posts (s := s) (by simp)]
  · rw [settle_channels (fun _ => False) test _ c (by simp), fetchBegun_congr c hfetch, endExecution_chan_same]
  · exact (endExecution_holdings c s).of_eq (by simp) (by simp) (by simp) (by simp) (by simp) (by simp)
  · rw [settle_channels (fun _ => False) test _ d (by simp), fetchBegun_congr d hfetch, endExecution_chan_other s hd]

section
variable {r : Executing} {s : State}

/-- With an alert in the list the oldest record leaves it and answers the request. -/
theorem alertWaitExecute_answers {a : AlertRecord} {rest : List AlertRecord} (ha : s.cc.alerts = a :: rest) :
    alertWaitExecute r s = completeExec 0 (a.completion r.req.tag false) { s with cc.alerts := rest } := by
  simp only [alertWaitExecute, ha]

/-- With the list empty and a place free, the request joins the waiters. -/
theorem alertWaitExecute_waits (ha : s.cc.alerts = []) (hroom : s.cc.alertWaiters.length < 4) :
    alertWaitExecute r s = endExecution 0 { s with cc.alertWaiters := s.cc.alertWaiters ++ [r.req.tag] } := by
  simp only [alertWaitExecute, ha, if_pos hroom]

/-- With four waiters there is no place. -/
theorem alertWaitExecute_limit (ha : s.cc.alerts = []) (hfull : 4 ≤ s.cc.alertWaiters.length) :
    alertWaitExecute r s = completeExec 0 (r.req.refusal .limit 0) s := by
  simp only [alertWaitExecute, ha, if_neg (Nat.not_lt.mpr hfull)]

/-- The event of an ALERT_WAIT that its owning block takes (R159). -/
theorem exec_alertWait (h : Executes 0 .alertWait .handed r s) :
    exec .alertWait s = .next (settle false (alertWaitExecute r s)) := by
  simp only [exec, execAlertWait]
  rw [settle_withExec false _ h]

end

/-- Settles O43: by the alert list, and with an empty one by the number of waiters. -/
theorem alertWaitRule : Obligations.AlertWaitRule := by
  intro s r h
  refine ⟨fun a rest ha => ?_, fun ha hroom => ?_, fun ha hfull => ?_⟩
  · obtain ⟨hcompleted, hcontents⟩ := completed_settle_apart (s := s) (t := { s with cc.alerts := rest })
      (a.completion r.req.tag false) false h.1
      (requestApart_of_eq ⟨rfl, rfl, rfl⟩ rfl rfl rfl ⟨rfl, rfl⟩ rfl) rfl rfl
    exact ⟨_, by rw [exec_alertWait h, alertWaitExecute_answers ha], hcontents, hcompleted⟩
  · have hdeferred := deferred_endExecution 0 false { s with cc.alertWaiters := s.cc.alertWaiters ++ [r.req.tag] }
    obtain ⟨-, -, hreturned, -⟩ := id hdeferred
    refine ⟨_, by rw [exec_alertWait h, alertWaitExecute_waits ha hroom], ?_,
      (endExecution_contents 0 _).trans (settle_contents false _)⟩
    exact hdeferred.of_requestApart (requestApart_of_eq ⟨rfl, rfl, rfl⟩ rfl rfl rfl ⟨rfl, rfl⟩ rfl)
      (hreturned.pressure (s := s) rfl rfl)
  · exact onlyCompletes_withExec h (alertWaitExecute_limit ha hfull)

/-! ### QUERY and RECOVERY_REPORT (R149, R170) -/

theorem emit_contents (a : LinkAction) (s : State) : SameContents s (s.emit a) :=
  ⟨.of_journal rfl, by simp [SameUnits]⟩

/-- A request that begins a host write moves on to the stage in which it waits for the write's end. -/
theorem movedTo_write {c : ChanId} {st : Stage} {r : Executing} {s : State} (a : LinkAction)
    (h : (s.chan c).exec = some r) :
    MovedTo c { r with stage := st } s (settle false ((setStage c st s).emit a)) ∧
      Emitted a s (settle false ((setStage c st s).emit a)) ∧
      SameContents s (settle false ((setStage c st s).emit a)) :=
  ⟨movedTo_settle false h rfl, emitted_settle false (by simp [State.emit]),
    ((setStage_contents c st s).trans (emit_contents a _)).trans (settle_contents false _)⟩

/-- A QUERY whose buffer takes the snapshot begins its write (R170). -/
theorem queryExecute_writes {r : Executing} {s : State} (h : 128 ≤ r.req.bufLength) : queryExecute r s =
    (setStage 0 (.snapshotWrite s.store.storedThrough s.clock.reading) s).emit
      (.write r.req.addr s.snapshotBytes) := by
  rw [queryExecute, if_neg (Nat.not_lt.mpr h)]

/-- A RECOVERY_REPORT whose buffer takes the report begins its write (R149). -/
theorem reportExecute_writes {r : Executing} {s : State} (h : 256 ≤ r.req.bufLength) : reportExecute r s =
    (setStage 0 .reportWrite s).emit (.write r.req.addr s.recovery.reportBytes) := by
  rw [reportExecute, if_neg (Nat.not_lt.mpr h)]

/-- The end of the snapshot's write (R170). -/
theorem exec_snapshotWriteEnd {r : Executing} {s : State} {through : Nat} {reading : Stamp}
    (h : Executes 0 .query (.snapshotWrite through reading) r s) (ok : Bool) :
    exec (.snapshotWriteEnd ok) s = .next (settle false (completeExec 0
      (if ok then r.req.completion .ok through reading 128 else r.req.refusal .hostWriteError 0) s)) := by
  obtain ⟨-, hexec, hkind, hstage⟩ := h
  simp only [exec, execSnapshotWriteEnd]
  rw [withExec_eq hexec hkind rfl, endQuery, hstage]
  cases ok <;> rfl

/-- The end of the report's write (R149). -/
theorem exec_reportWriteEnd {r : Executing} {s : State} (h : Executes 0 .recoveryReport .reportWrite r s) (ok : Bool) :
    exec (.reportWriteEnd ok) s = .next (settle false (completeExec 0
      (if ok then r.req.completion .ok 0 Stamp.zero 256 else r.req.refusal .hostWriteError 0) s)) := by
  obtain ⟨-, hexec, hkind, hstage⟩ := h
  simp only [exec, execReportWriteEnd]
  rw [withExec_eq hexec hkind (by simp [hstage])]

/-- Settles O42: too small a buffer is a completion alone, else the request moves on to its host write, and the write's
end is a completion alone. -/
theorem hostBufferReports : Obligations.HostBufferReports := by
  intro s r
  refine ⟨fun h hsmall => onlyCompletes_withExec h (if_pos hsmall), fun h hroom => ?_, fun through reading h => ?_,
    fun h hsmall => onlyCompletes_withExec h (if_pos hsmall), fun h hroom => ?_, fun h => ?_⟩
  · refine ⟨_, ?_, movedTo_write (.write r.req.addr s.snapshotBytes) h.2.1⟩
    simp only [exec, execQuery]
    rw [settle_withExec false _ h, queryExecute_writes hroom]
  · rw [exec_snapshotWriteEnd h, exec_snapshotWriteEnd h]
    exact ⟨onlyCompletes_settle _ false h.1, onlyCompletes_settle _ false h.1⟩
  · refine ⟨_, ?_, movedTo_write (.write r.req.addr s.recovery.reportBytes) h.2.1⟩
    simp only [exec, execRecoveryReport]
    rw [settle_withExec false _ h, reportExecute_writes hroom]
  · rw [exec_reportWriteEnd h, exec_reportWriteEnd h]
    exact ⟨onlyCompletes_settle _ false h.1, onlyCompletes_settle _ false h.1⟩

end Sys2Proof.Machine


namespace Sys2Proof.Machine

/-! ### The parameters of a request record (R174, section 11.1) -/

theorem leValue_lt (b : List Byte) : leValue b < 256 ^ b.length := by
  induction b with
  | nil => simp [leValue]
  | cons x xs ih =>
    rw [leValue, List.length_cons, pow_succ]
    have := x.isLt
    omega

theorem fieldAt_lt (b : List Byte) (off n : Nat) : fieldAt b off n < 256 ^ n :=
  (leValue_lt _).trans_le (Nat.pow_le_pow_right (by decide) (List.length_take_le n _))

/-- A field of the parameter area stands in the record at its own offset. -/
theorem param_parseRequest (k : Kind) (b : List Byte) {off n : Nat} (hlow : 32 ≤ off) (hhigh : off + n ≤ 64) :
    (parseRequest k b).param off n = fieldAt b off n := by
  rw [Request.param, parseRequest, fieldAt_fitBytes _ (by omega), fieldAt, fieldAt, List.drop_drop,
    Nat.add_sub_cancel' hlow]

/-- A request that passes validation is the record as it reads (R175). -/
theorem validateRecord_passed {c : ChanId} {b : List Byte} {r : Request} (h : validateRecord c b = .passed r) :
    ∃ k, r = parseRequest k b := by
  unfold validateRecord at h
  split at h
  · cases h
  · next k _ =>
    split at h
    · split at h
      · cases h
      · exact ⟨k, (Validation.passed.inj h).symm⟩
    · cases h

/-- The channel and the parameters that an OPEN_CHANNEL names (R167, section 11.1). -/
theorem openChannel_parameters {b : List Byte} {r : Request} (h : validateRecord 0 b = .passed r) :
    r.tag.toNat = fieldAt b 2 2 ∧ r.openTarget.val = fieldAt b 56 1 % 2 ^ 4 ∧
    r.openedChannel = { Channel.closed with
      state := .active,
      setup := some { reqAddr := BitVec.ofNat 64 (fieldAt b 32 8), reqSlots := 2 ^ (fieldAt b 58 1 % 2 ^ 4),
                      cplAddr := BitVec.ofNat 64 (fieldAt b 40 8), cplSlots := 2 ^ (fieldAt b 58 1 / 2 ^ 4),
                      statusAddr := BitVec.ofNat 64 (fieldAt b 48 8) },
      vector := fieldAt b 56 1 / 2 ^ 4, threshold := fieldAt b 57 1, holdoff := fieldAt b 59 2,
      ageLimit := fieldAt b 61 3 } := by
  obtain ⟨k, rfl⟩ := validateRecord_passed h
  have hparam : ∀ off n, 32 ≤ off → off + n ≤ 64 → (parseRequest k b).param off n = fieldAt b off n :=
    fun off n => param_parseRequest k b
  refine ⟨Nat.mod_eq_of_lt (fieldAt_lt b 2 2), ?_, ?_⟩
  · rw [Request.openTarget, hparam 56 1 (by decide) (by decide)]
    rfl
  · simp only [Request.openedChannel, hparam _ _ (show 32 ≤ 32 by decide) (show 32 + 8 ≤ 64 by decide),
      hparam 40 8 (by decide) (by decide), hparam 48 8 (by decide) (by decide), hparam 56 1 (by decide) (by decide),
      hparam 57 1 (by decide) (by decide), hparam 58 1 (by decide) (by decide), hparam 59 2 (by decide) (by decide),
      hparam 61 3 (by decide) (by decide)]
    rfl

/-! ### OPEN_CHANNEL (R167) -/

/-- The completion of an ACTIVE channel's request takes its slot behind the end of the execution (R159, R160). -/
theorem completeExec_active {c : ChanId} {s : State} (x : Completion) (h : (s.chan c).state = .active) :
    completeExec c x s = takeSlot c x (endExecution c s) :=
  handCompletion_active x (by rw [endExecution_chan_same]; exact h)

/-- What an event has begun on the link stands at its end behind the completion of a request (log entry 15). -/
theorem mem_out_completed {c : ChanId} {s : State} {a : LinkAction} (x : Completion) (test : Bool)
    (h : (s.chan c).state = .active) (ha : a ∈ s.out) : a ∈ (settle test (completeExec c x s)).out := by
  obtain ⟨later, hout⟩ := settle_out test (completeExec c x s)
  rw [hout, completeExec_active x h]
  exact List.mem_append_right _ (mem_out_takeSlot (by simpa using ha))

theorem openedChannel_empty (r : Request) : r.openedChannel.pendingRecords = 0 := by
  simp [Channel.pendingRecords, ringDiff, Request.openedChannel, Channel.closed]

/-- The state in which an opened channel has its record and its status block write has begun (R167, R161). -/
def channelOpened (r : Request) (s : State) : State :=
  writeStatus r.openTarget .becameActive (s.setChan r.openTarget r.openedChannel)

section
variable {r : Request} {s : State}

theorem channelOpened_eq (r : Request) (s : State) : channelOpened r s =
    beginStatusWrite r.openTarget .becameActive r.openedChannel.statusAddr (statusBytes 0 0 .active none)
      (s.setChan r.openTarget r.openedChannel) := by
  rw [channelOpened, writeStatus, State.chan_setChan_same]
  rfl

theorem channelOpened_chan_same : (channelOpened r s).chan r.openTarget = r.openedChannel := by
  have hchan : (channelOpened r s).chan r.openTarget = (s.setChan r.openTarget r.openedChannel).chan r.openTarget := by
    simp [channelOpened, State.chan]
  rw [hchan, State.chan_setChan_same]

theorem channelOpened_chan_other {d : ChanId} (h : d ≠ r.openTarget) : (channelOpened r s).chan d = s.chan d := by
  have hchan : (channelOpened r s).chan d = (s.setChan r.openTarget r.openedChannel).chan d := by
    simp [channelOpened, State.chan]
  rw [hchan, State.chan_setChan_other _ _ h]

theorem channelOpened_contents (r : Request) (s : State) : SameContents s (channelOpened r s) :=
  ⟨.of_journal (by simp [channelOpened]), by unfold SameUnits; simp [channelOpened]⟩

/-- The channel controller after an opening: one status block write more, no completion taken (R161). -/
theorem channelOpened_controller (r : Request) (s : State) : (channelOpened r s).cc.posts = s.cc.posts ∧
    (channelOpened r s).cc.fetch = s.cc.fetch ∧ (channelOpened r s).cc.statusWrites = s.cc.statusWrites ++
      [{ chan := r.openTarget, addr := r.openedChannel.statusAddr, purpose := .becameActive }] ∧
    .write r.openedChannel.statusAddr (statusBytes 0 0 .active none) ∈ (channelOpened r s).out := by
  rw [channelOpened_eq]
  exact ⟨by simp, by simp, by simp [beginStatusWrite], by simp [beginStatusWrite, State.emit]⟩

end

/-- Settles O39: the parameters are read at their offsets; a CLOSED channel is opened and then the request completes, and
another one makes the request BUSY. -/
theorem openChannelRule : Obligations.OpenChannelRule := by
  refine ⟨fun b r hpassed _ => openChannel_parameters hpassed, fun s r h hne => ⟨fun hclosed => ?_, fun hopen =>
    onlyCompletes_withExec h (if_neg hopen)⟩⟩
  obtain ⟨hposts, hfetch, hwrites, hout⟩ := channelOpened_controller r.req s
  have hzero : (channelOpened r.req s).chan 0 = s.chan 0 := channelOpened_chan_other (Ne.symm hne)
  have hactive : ((channelOpened r.req s).chan 0).state = .active := by rw [hzero]; exact h.1
  generalize hx : r.req.completion .ok 0 Stamp.zero r.req.openTarget.val = x
  have hevent : exec .openChannel s = .next (settle false (completeExec 0 x (channelOpened r.req s))) := by
    simp only [exec, execOpenChannel]
    rw [settle_withExec false _ h, openExecute, if_pos hclosed, hx]
    rfl
  obtain ⟨htaken, hchan, -, hothers⟩ := completed_settle x false hactive
  rw [hzero, fetchBegun_congr 0 hfetch] at hchan
  rw [hzero, taken_of_posts hposts] at htaken
  refine ⟨_, hevent, htaken, ?_, rfl, hchan, fun d hd => ?_, ?_, ?_, mem_out_completed x false hactive hout⟩
  · obtain ⟨-, -, hkept, -⟩ := completeExec_completed x hactive
    have hopened := (hkept _ hne).trans channelOpened_chan_same
    rw [settle_chan_empty false (by rw [hopened]; exact openedChannel_empty _), hopened]
  · obtain ⟨hd0, hdt⟩ := not_or.mp hd
    rw [hothers d hd0, channelOpened_chan_other hdt, fetchBegun_congr d hfetch]
  · exact ((channelOpened_contents _ _).trans (completeExec_contents _ _ _)).trans (settle_contents _ _)
  · rw [← hwrites, completeExec_active x hactive]
    simp

end Sys2Proof.Machine


namespace Sys2Proof.Machine

/-! ### An ACTIVE channel while others are answered (R156, R160) -/

/-- Channel `c`, when ACTIVE, has had completions take its slots, and nothing else of its record has changed. -/
def OnlyAnswered (c : ChanId) (s t : State) : Prop :=
  (s.chan c).state = .active → ∃ next flight, t.chan c = { s.chan c with cplNext := next, inFlight := flight }

namespace OnlyAnswered
variable {c : ChanId} {s t u : State}

theorem of_chan (h : t.chan c = s.chan c) : OnlyAnswered c s t := fun _ => ⟨_, _, h⟩

theorem trans (h : OnlyAnswered c s t) (h' : OnlyAnswered c t u) : OnlyAnswered c s u := by
  intro hactive
  obtain ⟨next, flight, ht⟩ := h hactive
  obtain ⟨next', flight', hu⟩ := h' (by rw [ht]; exact hactive)
  exact ⟨next', flight', by rw [hu, ht]⟩

theorem takeSlot (d : ChanId) (x : Completion) (s : State) : OnlyAnswered c s (takeSlot d x s) := by
  intro hactive
  by_cases hd : c = d
  · subst hd
    exact ⟨_, _, takeSlot_chan_same x (live_of_active hactive)⟩
  · exact of_chan (takeSlot_chan_other x s hd) hactive

theorem closeDrained {d : ChanId} (hd : (s.chan d).state = .draining) : OnlyAnswered c s (closeDrained d s) := by
  intro hactive
  have hne : c ≠ d := by
    rintro rfl
    rw [hd] at hactive
    cases hactive
  have hdrained : OnlyAnswered c s (drained d s) := of_chan (drained_chan_other s hne)
  rw [closeDrained_eq]
  split
  · exact hdrained.trans (takeSlot _ _ _) hactive
  · exact hdrained hactive

theorem handCompletion (d : ChanId) (x : Completion) (s : State) : OnlyAnswered c s (handCompletion d x s) := by
  rw [Machine.handCompletion, drainCheck]
  split
  · next h => exact (takeSlot d x s).trans (closeDrained h.1)
  · exact takeSlot d x s

theorem finishWaiters (p : Waiter → Bool) (status : Status) (s : State) :
    OnlyAnswered c s (finishWaiters p status s) :=
  foldl_invariant (P := OnlyAnswered c s) (completeWaiter status) (fun _ w ht => ht.trans (handCompletion w.chan _ _)) _
    (of_chan rfl)

theorem postAlert (kind : AlertKind) (n d : Nat) (s : State) : OnlyAnswered c s (postAlert kind n d s) := by
  rw [Machine.postAlert]
  split
  · next rest _ => exact (of_chan rfl : OnlyAnswered c s { s with cc.alertWaiters := rest }).trans (takeSlot _ _ _)
  · exact of_chan rfl

theorem evalExposureBut (lost : Waiter → Bool) (s : State) : OnlyAnswered c s (evalExposureBut lost s) := by
  rw [Machine.evalExposureBut]
  split
  · simp only
    split
    · split
      · exact ((of_chan rfl : OnlyAnswered c s { s with budget.exposed := false }).trans (postAlert _ _ _ _)).trans
          (finishWaiters _ _ _)
      · exact of_chan rfl
    · split
      · exact (of_chan rfl : OnlyAnswered c s { s with budget.exposed := true }).trans (postAlert _ _ _ _)
      · exact of_chan rfl
  · exact of_chan rfl

/-- The end of an event that completes another channel's request. -/
theorem settle_completeExec {d : ChanId} (x : Completion) (test : Bool) (hne : c ≠ d) (h : (s.chan d).state = .active) :
    OnlyAnswered c s (settle test (completeExec d x s)) := by
  intro _
  obtain ⟨-, -, -, hothers⟩ := completed_settle x test h
  exact ⟨_, _, hothers c hne⟩

end OnlyAnswered

/-! ### The answers of waiting records, seen from another state (R83) -/

/-- Whether records can be answered depends on the channels' states and in-flight counts alone. -/
theorem Answers.of_channels {ended : Bool} {own : List (ChanId × Completion)} {s t u : State} (h : Answers ended own t u)
    (hw : t.store.waiting = s.store.waiting) (hs : t.store.storedThrough = s.store.storedThrough)
    (hp : t.cc.posts = s.cc.posts)
    (hc : ∀ c, (t.chan c).state = (s.chan c).state ∧ (t.chan c).inFlight = (s.chan c).inFlight) :
    Answers ended own s u := by
  have hstate : ∀ c, (t.chan c).state = (s.chan c).state := fun c => (hc c).1
  have hflight : ∀ c, (t.chan c).inFlight = (s.chan c).inFlight := fun c => (hc c).2
  unfold Answers State.CanAnswer State.exposureAnswers State.coverAnswers State.takenBy at *
  simpa only [hw, hs, hp, hstate, hflight] using h

/-- Where neither exposure ends nor S rises, no record is answered. -/
theorem Answers.none {s u : State} (hw : u.store.waiting = s.store.waiting)
    (hs : u.store.storedThrough = s.store.storedThrough) (hp : u.cc.posts = s.cc.posts) : Answers false [] s u := by
  refine ⟨by simp [hw, hs], fun _ => ?_⟩
  simp [hs, State.takenBy, hp, State.exposureAnswers, State.coverAnswers, endings]

/-! ### CONFIGURE: the settings (R169) -/

/-- The state in which every selected setting has its value, and B follows from L (R60, R169). -/
def settingsTaken (r : Request) (s : State) : State :=
  { configureBlocks r (configureNamed r s) with
    budget.b := if r.selects 0 then min s.monitor.c (r.param 34 2) else s.budget.b }

/-- The state in which exposure has been evaluated against the new B (R66). -/
def settingsFollowed (r : Request) (s : State) : State :=
  if r.selects 0 then evalExposure (settingsTaken r s) else settingsTaken r s

section
variable (r : Request) (s : State)

@[simp] theorem settingsTaken_frame :
    (settingsTaken r s).device = s.device ∧ (settingsTaken r s).journal = s.journal ∧
    (settingsTaken r s).txns = s.txns ∧ (settingsTaken r s).clock = s.clock ∧
    (settingsTaken r s).budget.held = s.budget.held ∧ (settingsTaken r s).budget.exposed = s.budget.exposed ∧
    (settingsTaken r s).store.storedThrough = s.store.storedThrough ∧
    (settingsTaken r s).store.waiting = s.store.waiting ∧ (settingsTaken r s).store.idleTimer = s.store.idleTimer ∧
    (settingsTaken r s).cc.posts = s.cc.posts ∧ (settingsTaken r s).cc.alerts = s.cc.alerts ∧
    (settingsTaken r s).cc.alertWaiters = s.cc.alertWaiters := by
  simp [settingsTaken]

@[simp] theorem settingsFollowed_frame :
    (settingsFollowed r s).device = s.device ∧ (settingsFollowed r s).journal = s.journal ∧
    (settingsFollowed r s).txns = s.txns ∧ (settingsFollowed r s).clock = s.clock ∧
    (settingsFollowed r s).budget.held = s.budget.held ∧
    (settingsFollowed r s).budget.limit = (settingsTaken r s).budget.limit ∧
    (settingsFollowed r s).budget.headroom = (settingsTaken r s).budget.headroom ∧
    (settingsFollowed r s).budget.b = (settingsTaken r s).budget.b ∧
    (settingsFollowed r s).store.storedThrough = s.store.storedThrough ∧
    (settingsFollowed r s).store.idleDelay = (settingsTaken r s).store.idleDelay ∧
    (settingsFollowed r s).store.idleTimer = s.store.idleTimer := by
  unfold settingsFollowed
  split <;> simp

/-- The values of the settings that no channel has (R169). -/
theorem settingsTaken_values :
    (settingsTaken r s).budget.limit = (if r.selects 0 then r.param 34 2 else s.budget.limit) ∧
      (settingsTaken r s).budget.headroom = (if r.selects 1 then r.param 36 1 else s.budget.headroom) ∧
      (settingsTaken r s).store.idleDelay = (if r.selects 2 then r.param 40 2 else s.store.idleDelay) ∧
      (settingsTaken r s).budget.b = (if r.selects 0 then min s.monitor.c (r.param 34 2) else s.budget.b) := by
  simp [settingsTaken, configureBlocks]

theorem settingsTaken_chan (c : ChanId) : (settingsTaken r s).chan c = (configureNamed r s).chan c := by
  simp [settingsTaken, State.chan]

/-- The record of the named channel (R169). -/
theorem settingsTaken_chan_named (h : r.namesChannel = true) :
    (settingsTaken r s).chan r.configureTarget = r.configured (s.chan r.configureTarget) := by
  rw [settingsTaken_chan, configureNamed, if_pos h, State.chan_modChan_same]

/-- No setting touches a channel's state or its in-flight count. -/
theorem settingsTaken_chan_counts (c : ChanId) : ((settingsTaken r s).chan c).state = (s.chan c).state ∧
    ((settingsTaken r s).chan c).inFlight = (s.chan c).inFlight := by
  rw [settingsTaken_chan, configureNamed]
  split
  · by_cases hc : c = r.configureTarget
    · subst hc
      rw [State.chan_modChan_same]
      exact ⟨rfl, rfl⟩
    · rw [State.chan_modChan_other _ _ hc]
      exact ⟨rfl, rfl⟩
  · exact ⟨rfl, rfl⟩

end

/-- The recomputation of pressure changes pressure and the store queue, and nothing else (R68). -/
theorem recomputePressure_eq (s : State) : ∃ queue pressure,
    recomputePressure s = { s with store.queue := queue, budget.pressure := pressure } := by
  have hseg : ∀ (i : SegId) (t : State), ∃ queue, queueSeg i t = { t with store.queue := queue } := fun i t => by
    simp only [queueSeg]
    split
    · exact ⟨_, rfl⟩
    · exact ⟨t.store.queue, rfl⟩
  have hopen : ∀ t : State, ∃ queue, queueOpen t = { t with store.queue := queue } := fun t => by
    simp only [queueOpen]
    split
    · exact hseg _ t
    · exact ⟨t.store.queue, rfl⟩
  simp only [recomputePressure]
  split
  · split
    · exact ⟨s.store.queue, s.budget.pressure, rfl⟩
    · split
      · obtain ⟨queue, hqueue⟩ := hopen { s with budget.pressure := s.pressureLevel }
        exact ⟨queue, s.pressureLevel, hqueue⟩
      · exact ⟨s.store.queue, s.pressureLevel, rfl⟩
  · exact ⟨s.store.queue, s.budget.pressure, rfl⟩

/-- With no request held, a new B brings about an evaluation of exposure and a new level of pressure (R60). -/
theorem recomputeBudget_none_held {s t : State} (ht : t = { s with budget.b := min s.monitor.c s.budget.limit })
    (hheld : s.budget.held = []) (hlive : s.budgetLive = true) :
    recomputeBudget s = recomputePressure (evalExposure t) := by
  subst ht
  refine (if_pos hlive).trans ?_
  rw [grantAfter, grantRun_none_held (by simpa using hheld), ite_self]

section
variable {r : Request} {s : State}

theorem settingsTaken_selected (h : r.selects 0 = true) : settingsTaken r s =
    { configureBlocks r (configureNamed r s) with
      budget.b := min (configureBlocks r (configureNamed r s)).monitor.c
        (configureBlocks r (configureNamed r s)).budget.limit } := by
  simp [settingsTaken, configureBlocks, h]

theorem settingsTaken_unselected (h : r.selects 0 = false) :
    settingsTaken r s = configureBlocks r (configureNamed r s) := by
  simp [settingsTaken, configureBlocks, h]

/-- With no request held, the settings bring about an evaluation of exposure, and after it at most a new level of
pressure (R60, R169). -/
theorem applyConfigure_eq (hheld : s.budget.held = []) (hlive : s.budgetLive = true) :
    ∃ queue pressure, applyConfigure r s =
      { settingsFollowed r s with store.queue := queue, budget.pressure := pressure } := by
  cases h0 : r.selects 0 with
  | true =>
    have happly : applyConfigure r s = recomputePressure (settingsFollowed r s) := by
      simp only [applyConfigure, settingsFollowed, h0, if_true]
      exact recomputeBudget_none_held (settingsTaken_selected h0) (by simpa using hheld)
        (by simpa [State.budgetLive] using hlive)
    rw [happly]
    exact recomputePressure_eq _
  | false =>
    have happly : applyConfigure r s =
        if r.selects 1 then recomputePressure (settingsFollowed r s) else settingsFollowed r s := by
      simp only [applyConfigure, settingsFollowed, h0, Bool.false_eq_true, if_false, settingsTaken_unselected h0]
    rw [happly]
    split
    · exact recomputePressure_eq _
    · exact ⟨(settingsFollowed r s).store.queue, (settingsFollowed r s).budget.pressure, rfl⟩

end

/-! ### CONFIGURE: what the settings bring about (R66, R67, R169) -/

section
variable (r : Request) (s : State)

theorem settingsFollowed_answered (c : ChanId) : OnlyAnswered c (settingsTaken r s) (settingsFollowed r s) := by
  unfold settingsFollowed
  split
  · exact .evalExposureBut _ _
  · exact .of_chan rfl

theorem settingsFollowed_takenAdded : TakenAdded s (settingsFollowed r s) := by
  have htaken : TakenAdded s (settingsTaken r s) := .of_posts (by simp)
  unfold settingsFollowed
  split
  · exact htaken.trans (evalExposureBut_takenAdded _ _)
  · exact htaken

theorem settingsTaken_dirtyCount : (settingsTaken r s).dirtyCount = s.dirtyCount :=
  dirtyCount_congr (.of_segs (by simp))

end

section
variable {r : Request} {s : State} (hlive : s.budgetLive = true)
include hlive

/-- The exposure state follows the new B when L is selected, and stands otherwise (R66). -/
theorem settingsFollowed_exposed : (settingsFollowed r s).budget.exposed =
    if r.selects 0 then decide ((settingsTaken r s).budget.b < s.dirtyCount) else s.budget.exposed := by
  have hlive' : (settingsTaken r s).budgetLive = true := by simpa [State.budgetLive] using hlive
  unfold settingsFollowed
  split
  · rw [evalExposureBut_exposed _ hlive', settingsTaken_dirtyCount]
  · simp

/-- With no alert waiter: the alert of a change of exposure, and the answers of the records that its end satisfies. -/
theorem settingsFollowed_follows (hw : s.cc.alertWaiters = []) :
    ExposureFollows (r.selects 0) s.dirtyCount s (settingsFollowed r s) ∧
      Answers (r.selects 0 && s.budget.exposed && decide (s.dirtyCount ≤ (settingsTaken r s).budget.b)) [] s
        (settingsFollowed r s) := by
  have hlive' : (settingsTaken r s).budgetLive = true := by simpa [State.budgetLive] using hlive
  have hw' : (settingsTaken r s).cc.alertWaiters = [] := by simpa using hw
  have hcounts := settingsTaken_chan_counts r s
  cases h0 : r.selects 0 with
  | true =>
    have hfollows := evalExposure_follows hlive' hw'
    have hanswers := evalExposure_answers hlive' hw'
    rw [settingsTaken_dirtyCount] at hfollows hanswers
    simp only [settingsFollowed, h0, if_true, Bool.true_and]
    exact ⟨hfollows.of_eq (by simp) ⟨rfl, rfl⟩ fun _ _ => .of_eq rfl rfl,
      (by simpa using hanswers : Answers _ [] (settingsTaken r s) _).of_channels (by simp) (by simp) (by simp) hcounts⟩
  | false =>
    simp only [settingsFollowed, h0, Bool.false_eq_true, if_false, Bool.false_and]
    exact ⟨.unevaluated _ (by simp) (by simp), .none (by simp) (by simp) (by simp)⟩

end

section
variable {r : Request} {s u : State} (hheld : s.budget.held = []) (hlive : s.budgetLive = true) {x : Completion}
  (hu : u = settle false (completeExec 0 x (applyConfigure r s)))
include hheld hlive hu

/-- At the end of the event the settings have their values, and the running timers their expiries (R169). -/
theorem configure_values : u.budget.limit = (if r.selects 0 then r.param 34 2 else s.budget.limit) ∧
    u.budget.headroom = (if r.selects 1 then r.param 36 1 else s.budget.headroom) ∧
    u.store.idleDelay = (if r.selects 2 then r.param 40 2 else s.store.idleDelay) ∧
    u.store.idleTimer = s.store.idleTimer ∧
    u.budget.b = (if r.selects 0 then min s.monitor.c u.budget.limit else s.budget.b) ∧
    u.budget.exposed = (if r.selects 0 then decide (u.budget.b < s.dirtyCount) else s.budget.exposed) := by
  obtain ⟨queue, pressure, hz⟩ := applyConfigure_eq (r := r) hheld hlive
  obtain ⟨hlimit, hheadroom, hdelay, hb⟩ := settingsTaken_values r s
  have hexposed := settingsFollowed_exposed (r := r) hlive
  rw [hz] at hu
  subst hu
  refine ⟨by simp [hlimit], by simp [hheadroom], by simp [hdelay], by simp, ?_, by simp [hexposed]⟩
  cases h0 : r.selects 0 <;> simp [hb, hlimit, h0]

/-- The journal, the transactions, the clock and S stand (R169). -/
theorem configure_leaves : SameLog s u ∧ u.txns = s.txns ∧ u.clock = s.clock ∧
    u.store.storedThrough = s.store.storedThrough := by
  obtain ⟨queue, pressure, hz⟩ := applyConfigure_eq (r := r) hheld hlive
  have hlog : SameLog s (applyConfigure r s) := .of_journal (by rw [hz]; simp)
  have hlogs := (hlog.trans (completeExec_contents 0 x _).1).trans (settle_contents false _).1
  rw [← hu] at hlogs
  rw [hz] at hu
  exact ⟨hlogs, by simp [hu], by simp [hu], by simp [hu]⟩

omit hu in
theorem applyConfigure_answered (c : ChanId) : OnlyAnswered c (settingsTaken r s) (applyConfigure r s) := by
  obtain ⟨queue, pressure, hz⟩ := applyConfigure_eq (r := r) hheld hlive
  rw [hz]
  exact (settingsFollowed_answered r s c).trans (.of_chan rfl)

omit hu in
/-- Channel 0 is still ACTIVE when the request completes. -/
theorem applyConfigure_active (hactive : (s.chan 0).state = .active) :
    ((applyConfigure r s).chan 0).state = .active := by
  have hstate := (settingsTaken_chan_counts r s 0).1.trans hactive
  obtain ⟨next, flight, hchan⟩ := applyConfigure_answered (r := r) hheld hlive 0 hstate
  rw [hchan]
  exact hstate

/-- The record of the named data channel: its settings have their values, and a running holdoff timer its expiry (R169). -/
theorem configure_channel (hactive : (s.chan 0).state = .active) (hnamed : r.namesChannel = true)
    (htarget : (s.chan r.configureTarget).state = .active) (hne : r.configureTarget ≠ 0) :
    ∃ next flight, u.chan r.configureTarget =
      { r.configured (s.chan r.configureTarget) with cplNext := next, inFlight := flight } := by
  have hanswered : OnlyAnswered r.configureTarget (settingsTaken r s) u := by
    rw [hu]
    exact (applyConfigure_answered hheld hlive _).trans
      (.settle_completeExec x false hne (applyConfigure_active hheld hlive hactive))
  obtain ⟨next, flight, hchan⟩ := hanswered ((settingsTaken_chan_counts r s _).1.trans htarget)
  exact ⟨next, flight, by rw [hchan, settingsTaken_chan_named r s hnamed]⟩

/-- The request's own completion takes its slot after those that the settings bring about (log entry 29). -/
theorem configure_taken (hactive : (s.chan 0).state = .active) : (∃ more slot, u.taken = s.taken ++ more ++ [(0, slot, x)]) ∧
    u.takenBy = (settingsFollowed r s).takenBy ++ [(0, x)] := by
  obtain ⟨queue, pressure, hz⟩ := applyConfigure_eq (r := r) hheld hlive
  have hstate := applyConfigure_active (r := r) hheld hlive hactive
  obtain ⟨more, hmore⟩ := settingsFollowed_takenAdded r s
  obtain ⟨htaken, -⟩ := completeExec_completed x hstate
  have hposts : u.cc.posts = (completeExec 0 x (applyConfigure r s)).cc.posts := by rw [hu]; simp
  have hsame : (applyConfigure r s).cc.posts = (settingsFollowed r s).cc.posts := by rw [hz]
  refine ⟨⟨more, _, by rw [taken_of_posts hposts, htaken, taken_of_posts hsame, hmore]⟩, ?_⟩
  rw [State.takenBy, hposts, ← State.takenBy, completeExec_takenBy x hstate, State.takenBy, hsame]
  rfl

/-- With no alert waiter: the exposure state with its alert, and the answers of the waiting records (R66, R67). -/
theorem configure_exposure (hactive : (s.chan 0).state = .active) (hw : s.cc.alertWaiters = []) :
    ExposureFollows (r.selects 0) s.dirtyCount s u ∧
      Answers (r.selects 0 && s.budget.exposed && decide (s.dirtyCount ≤ u.budget.b)) [(0, x)] s u := by
  obtain ⟨queue, pressure, hz⟩ := applyConfigure_eq (r := r) hheld hlive
  obtain ⟨hfollows, hanswers⟩ := settingsFollowed_follows (r := r) hlive hw
  obtain ⟨-, htaken⟩ := configure_taken hheld hlive hu hactive
  rw [hz] at hu
  have hb : u.budget.b = (settingsTaken r s).budget.b := by simp [hu]
  rw [hb]
  exact ⟨hfollows.of_eq ⟨rfl, rfl, rfl⟩ ⟨by simp [hu], by simp [hu]⟩ fun _ _ => .of_eq (by simp [hu]) (by simp [hu]),
    hanswers.with_own (by simp [hu]) (by simp [hu]) htaken⟩

end

/-- Settles O41: BUSY by the named channel's state; else the settings, what exposure makes of the new B, and the request's
own completion behind it. -/
theorem configureRule : Obligations.ConfigureRule := by
  intro s r h
  refine ⟨fun hnamed hstate => onlyCompletes_withExec h (if_pos ⟨hnamed, hstate⟩), fun hok hheld hlive => ?_⟩
  have hevent : exec .configure s = .next (settle false
      (completeExec 0 (r.req.completion .ok 0 Stamp.zero (applyConfigure r.req s).configureDetail)
        (applyConfigure r.req s))) := by
    simp only [exec, execConfigure]
    rw [settle_withExec false _ h, configureExecute, if_neg fun hbusy => hbusy.2 (hok hbusy.1).1]
  generalize hu : settle false _ = u at hevent
  have hdetail : (applyConfigure r.req s).configureDetail =
      u.budget.b + u.budget.limit * 2 ^ 16 + u.budget.headroom * 2 ^ 32 := by
    rw [← hu]
    simp [State.configureDetail]
  rw [hdetail] at hu
  obtain ⟨hlimit, hheadroom, hdelay, htimer, hb, hexposed⟩ := configure_values hheld hlive hu.symm
  obtain ⟨hlog, htxns, hclock, hthrough⟩ := configure_leaves hheld hlive hu.symm
  obtain ⟨htaken, -⟩ := configure_taken hheld hlive hu.symm h.1
  refine ⟨u, hevent, hlimit, hheadroom, hdelay, htimer, hb, fun h0 => by simpa [h0] using hexposed,
    fun h0 => by simpa [h0] using hexposed, fun hnamed => ?_, hlog, htxns, hclock, hthrough,
    configure_exposure hheld hlive hu.symm h.1, htaken⟩
  obtain ⟨hactive, hne⟩ := hok hnamed
  obtain ⟨next, flight, hchan⟩ := configure_channel hheld hlive hu.symm h.1 hnamed hactive hne
  rw [hchan]
  exact ⟨rfl, rfl, rfl, rfl, rfl⟩

end Sys2Proof.Machine


namespace Sys2Proof.Machine

/-! ### Completions that take their slots one after another (R160) -/

/-- The completions `l`, all of channel `d`, have taken its next slots in their order. -/
def SlotsTaken (d : ChanId) (l : List (ChanId × Completion)) (s y : State) : Prop :=
  y.chan d = (s.chan d).answered l.length ∧ (∀ c, c ≠ d → y.chan c = s.chan c) ∧ y.takenBy = s.takenBy ++ l

theorem Channel.answered_one (ch : Channel) :
    ch.answered 1 = { ch with cplNext := (ch.cplNext + 1) % ch.cplSlots, inFlight := ch.inFlight - 1 } := rfl

theorem Channel.answered_add (ch : Channel) (m n : Nat) : (ch.answered m).answered n = ch.answered (m + n) := by
  simp only [Channel.answered, Nat.sub_sub]
  rw [Nat.add_comm m n, Function.iterate_add_apply]
  rfl

theorem takeSlot_takenBy {c : ChanId} {s : State} (x : Completion) (h : (s.chan c).live = true) :
    (takeSlot c x s).takenBy = s.takenBy ++ [(c, x)] := by
  rw [takenBy_eq, takeSlot_taken x h, List.map_append, ← takenBy_eq]
  rfl

theorem drained_takenBy (c : ChanId) (s : State) : (drained c s).takenBy = s.takenBy := by
  rw [takenBy_eq, drained_taken, ← takenBy_eq]

namespace SlotsTaken
variable {d : ChanId} {l m : List (ChanId × Completion)} {s t u : State}

theorem refl (d : ChanId) (s : State) : SlotsTaken d [] s s := ⟨rfl, fun _ _ => rfl, (List.append_nil _).symm⟩

theorem takeSlot (x : Completion) (h : (s.chan d).live = true) : SlotsTaken d [(d, x)] s (takeSlot d x s) :=
  ⟨takeSlot_chan_same x h, fun _ hc => takeSlot_chan_other x s hc, takeSlot_takenBy x h⟩

theorem trans (h : SlotsTaken d l s t) (h' : SlotsTaken d m t u) : SlotsTaken d (l ++ m) s u := by
  obtain ⟨hchan, hothers, htaken⟩ := h
  obtain ⟨hchan', hothers', htaken'⟩ := h'
  refine ⟨?_, fun c hc => (hothers' c hc).trans (hothers c hc), ?_⟩
  · rw [hchan', hchan, Channel.answered_add, List.length_append]
  · rw [htaken', htaken, List.append_assoc]

/-- The slots are taken from a state with the same channels and completions too. -/
theorem of_cc (h : SlotsTaken d l t u) (hchans : t.cc.chans = s.cc.chans) (hposts : t.cc.posts = s.cc.posts) :
    SlotsTaken d l s u := by
  simpa only [SlotsTaken, State.takenBy, State.chan, hchans, hposts] using h

end SlotsTaken

/-! ### The drain check (R168) -/

theorem drainCheck_rests {c : ChanId} {s : State} (h : (s.chan c).inFlight ≠ 0) : drainCheck c s = s := by
  rw [drainCheck, if_neg fun hc => h hc.2]

/-- A second drain check finds the channel closed, or not drained. -/
theorem drainCheck_idem (c : ChanId) (s : State) : drainCheck c (drainCheck c s) = drainCheck c s := by
  by_cases h : (s.chan c).state = .draining ∧ (s.chan c).inFlight = 0
  · rw [drainCheck_ends h.1 h.2]
    refine if_neg fun hc => ?_
    have hdead := closeDrained_not_live c s
    simp [Channel.live, hc.1] at hdead
  · have hrests : drainCheck c s = s := if_neg h
    rw [hrests, hrests]

/-- A drain check changes the channel that it closes and channel 0, no other. -/
theorem drainCheck_chan_other {c d : ChanId} (s : State) (h0 : c ≠ 0) (hd : c ≠ d) :
    (drainCheck d s).chan c = s.chan c := by
  rw [drainCheck]
  split
  · rw [closeDrained_eq]
    split
    · rw [takeSlot_chan_other _ _ h0, drained_chan_other s hd]
    · exact drained_chan_other s hd
  · rfl

/-- The drain check after the last completion in flight closes the channel and answers the close that waited (R168). -/
theorem drainCheck_closes {d : ChanId} {l : List (ChanId × Completion)} {pc : PendingClose} {s y : State}
    (hd : d ≠ 0) (hy : SlotsTaken d l s y) (hstate : (s.chan d).state = .draining) (hlen : l.length = (s.chan d).inFlight)
    (hpc : (s.chan d).pendingClose = some pc) (hlive : (s.chan 0).live = true) :
    (drainCheck d y).chan d = Channel.closed ∧ (drainCheck d y).chan 0 = (s.chan 0).answered 1 ∧
      (drainCheck d y).takenBy = s.takenBy ++ l ++ [(0, drainedClose d pc)] := by
  obtain ⟨hchan, hothers, htaken⟩ := hy
  have hzero : (y.chan d).inFlight = 0 := by rw [hchan]; simp [Channel.answered, hlen]
  have hchan0 : (drained d y).chan 0 = s.chan 0 := (drained_chan_other y hd.symm).trans (hothers 0 hd.symm)
  rw [drainCheck_ends (by rw [hchan]; exact hstate) hzero, closeDrained_completes (by rw [hchan]; exact hpc)]
  refine ⟨?_, ?_, ?_⟩
  · rw [takeSlot_chan_other _ _ hd, drained_chan_same]
  · rw [takeSlot_chan_same _ (by rwa [hchan0]), hchan0]
    rfl
  · rw [takeSlot_takenBy _ (by rwa [hchan0]), drained_takenBy, htaken]

/-! ### Waiting records of a DRAINING channel (R156, R168) -/

section
variable {d : ChanId} {s : State}

/-- While the channel has as many in flight, its waiting records take their slots in order; the drain check that counts
is the one after the last of them. -/
theorem completeWaiters_slots (status : Status) (l : List Waiter) (hl : ∀ w ∈ l, w.chan = d)
    (hstate : (s.chan d).state = .draining) (hlen : l.length ≤ (s.chan d).inFlight) :
    ∃ y, SlotsTaken d (endings status s.store.storedThrough l) s y ∧
      l.foldl (completeWaiter status) s = if l = [] then y else drainCheck d y := by
  induction l generalizing s with
  | nil => exact ⟨s, .refl d s, rfl⟩
  | cons w l ih =>
    obtain ⟨rfl, hrest⟩ := List.forall_mem_cons.mp hl
    have hlive : (s.chan w.chan).live = true := by simp [Channel.live, hstate]
    have hslot := SlotsTaken.takeSlot (w.completion status s.store.storedThrough) hlive
    rw [List.length_cons] at hlen
    simp only [List.foldl_cons, completeWaiter, reduceCtorEq, if_false]
    by_cases hnil : l = []
    · subst hnil
      exact ⟨_, hslot, rfl⟩
    · have hpos := List.length_pos_iff.mpr hnil
      rw [(handCompletion_keeps_open _ (Or.inr ⟨hstate, by omega⟩)).1]
      obtain ⟨y, hy, hfold⟩ := ih (s := takeSlot w.chan (w.completion status s.store.storedThrough) s) hrest
        (by rw [hslot.1]; exact hstate) (by rw [hslot.1]; exact Nat.le_sub_of_add_le hlen)
      rw [if_neg hnil] at hfold
      refine ⟨y, ?_, hfold⟩
      have hstored : (takeSlot w.chan (w.completion status s.store.storedThrough) s).store = s.store := by simp
      rw [hstored] at hy
      exact hslot.trans hy

theorem length_endings (status : Status) (through : Nat) (l : List Waiter) :
    (endings status through l).length = l.length := List.length_map _

theorem mem_waitersOn {w : Waiter} : w ∈ s.waitersOn d → w.chan = d := by
  simp [State.waitersOn]

theorem waitersOf_eq (d : ChanId) (s : State) : s.waitersOf d = (s.waitersOn d).length :=
  List.countP_eq_length_filter

theorem cancelWaiters_none (h : s.waitersOn d = []) : cancelWaiters d s = s := by
  have hkept : s.store.waiting.filter (fun w => !(w.chan == d)) = s.store.waiting := by
    refine List.filter_eq_self.mpr fun w hw => ?_
    have hne := List.filter_eq_nil_iff.mp h w hw
    simpa using hne
  have hdone : s.store.waiting.filter (fun w => w.chan == d) = [] := h
  rw [cancelWaiters, finishWaiters, hkept, hdone]
  rfl

/-- The records of a channel that are cancelled change that channel and channel 0, no other. -/
theorem cancelWaiters_chan_other {c : ChanId} (s : State) (h0 : c ≠ 0) (hd : c ≠ d) :
    (cancelWaiters d s).chan c = s.chan c := by
  refine List.foldlRecOn (motive := fun t : State => t.chan c = s.chan c) _ (completeWaiter .cancelled) rfl
    fun t ht w hw => ?_
  rw [completeWaiter, handCompletion, mem_waitersOn hw, drainCheck_chan_other _ h0 hd, takeSlot_chan_other _ _ hd, ht]

theorem cancelWaiters_waiting (d : ChanId) (s : State) :
    (cancelWaiters d s).store.waiting = s.store.waiting.filter (fun w => w.chan != d) :=
  finishWaiters_waiting (fun w => w.chan == d) .cancelled s

end

/-- From `s` to `t` the completions `l` of channel `d` have taken its next slots, with a drain check after the last. -/
def Cancels (d : ChanId) (l : List (ChanId × Completion)) (s t : State) : Prop :=
  (l = [] → t = s) ∧ (l ≠ [] → ∃ y, SlotsTaken d l s y ∧ t = drainCheck d y)

namespace Cancels
variable {d : ChanId} {l m : List (ChanId × Completion)} {s t u : State}

theorem nil (d : ChanId) (s : State) : Cancels d [] s s := ⟨fun _ => rfl, fun h => absurd rfl h⟩

/-- A drain check after them is the one after the last of them. -/
theorem drainCheck_eq (h : Cancels d l s t) : ∃ y, SlotsTaken d l s y ∧ drainCheck d t = drainCheck d y := by
  obtain ⟨hnil, hcons⟩ := h
  by_cases hl : l = []
  · subst hl
    obtain rfl := hnil rfl
    exact ⟨_, .refl d _, rfl⟩
  · obtain ⟨y, hy, rfl⟩ := hcons hl
    exact ⟨y, hy, drainCheck_idem d y⟩

/-- With others still in flight the channel does not close. -/
theorem slots (h : Cancels d l s t) (hlen : l.length < (s.chan d).inFlight) :
    SlotsTaken d l s t ∧ drainCheck d t = t := by
  have hrests : ∀ y, SlotsTaken d l s y → drainCheck d y = y := fun y ⟨hchan, _, _⟩ => by
    refine drainCheck_rests ?_
    rw [hchan]
    exact Nat.sub_ne_zero_of_lt hlen
  obtain ⟨hnil, hcons⟩ := h
  have ht : SlotsTaken d l s t := by
    by_cases hl : l = []
    · obtain rfl := hnil hl
      subst hl
      exact .refl d _
    · obtain ⟨y, hy, rfl⟩ := hcons hl
      rwa [hrests y hy]
  exact ⟨ht, hrests t ht⟩

/-- Further completions of the channel follow, when it has as many in flight. -/
theorem append (h : Cancels d l s t) (hstate : (s.chan d).state = .draining)
    (hlen : l.length + m.length ≤ (s.chan d).inFlight) (hnil : m = [] → u = t)
    (hnext : (t.chan d).state = .draining → m.length ≤ (t.chan d).inFlight → Cancels d m t u) :
    Cancels d (l ++ m) s u := by
  by_cases hm : m = []
  · obtain rfl := hnil hm
    rwa [hm, List.append_nil]
  · have hpos := List.length_pos_iff.mpr hm
    obtain ⟨hslots, -⟩ := h.slots (by omega)
    obtain ⟨-, hcons⟩ := hnext (by rw [hslots.1]; exact hstate)
      (by rw [hslots.1]; exact Nat.le_sub_of_add_le (by omega))
    obtain ⟨y, hy, rfl⟩ := hcons hm
    exact ⟨fun h => absurd (List.append_eq_nil_iff.mp h).2 hm, fun _ => ⟨y, hslots.trans hy, rfl⟩⟩

/-- The waiting records of a channel that fit its in-flight count are cancelled in their order. -/
theorem waiters (hstate : (s.chan d).state = .draining) (hlen : (s.waitersOn d).length ≤ (s.chan d).inFlight) :
    Cancels d (endings .cancelled s.store.storedThrough (s.waitersOn d)) s (cancelWaiters d s) := by
  refine ⟨fun hnil => cancelWaiters_none (List.map_eq_nil_iff.mp hnil), fun hcons => ?_⟩
  obtain ⟨y, hy, hfold⟩ := completeWaiters_slots
    (s := { s with store.waiting := s.store.waiting.filter (fun w => !(w.chan == d)) }) .cancelled (s.waitersOn d)
    (fun _ => mem_waitersOn) hstate hlen
  rw [if_neg fun hnil => hcons (List.map_eq_nil_iff.mpr hnil)] at hfold
  exact ⟨y, hy.of_cc rfl rfl, hfold⟩

end Cancels

end Sys2Proof.Machine


namespace Sys2Proof.Machine

/-! ### CLOSE_CHANNEL of a channel that does not begin to drain (R168) -/

theorem closeDetail_closed (d : ChanId) : closeDetail d .closed none 0 = d.val := by
  simp [closeDetail, ChannelState.code, reasonCode]

theorem closeDetail_draining (d : ChanId) (n : Nat) :
    closeDetail d .draining none n = d.val + 2 * 2 ^ 8 + n * 2 ^ 32 := by
  simp [closeDetail, ChannelState.code, reasonCode]

theorem closeDetail_faulted (d : ChanId) (reason : Option FaultReason) :
    closeDetail d .faulted reason 0 = d.val + 3 * 2 ^ 8 + reasonCode reason * 2 ^ 16 := by
  simp [closeDetail, ChannelState.code]

section
variable {r : Executing} {s : State}

theorem closeExecute_closed (h : (s.chan r.req.closeTarget).state = .closed) :
    closeExecute r s = completeExec 0 (r.req.completion .ok 0 Stamp.zero r.req.closeTarget.val) s := by
  simp only [closeExecute, h, closeDetail_closed]

theorem closeExecute_busy (h : (s.chan r.req.closeTarget).state = .draining) (hforce : r.req.forceFlag = false) :
    closeExecute r s = completeExec 0 (r.req.completion .busy 0 Stamp.zero r.req.closeTarget.val) s := by
  simp only [closeExecute, h, hforce, Bool.false_eq_true, if_false]

theorem closeExecute_forced (h : (s.chan r.req.closeTarget).state = .draining) (hforce : r.req.forceFlag = true) :
    closeExecute r s = completeExec 0 (r.req.completion .ok 0 Stamp.zero
      (r.req.closeTarget.val + 2 * 2 ^ 8 + (s.waitersOn r.req.closeTarget).length * 2 ^ 32))
      (cancelWaiters r.req.closeTarget s) := by
  simp only [closeExecute, h, hforce, if_true, closeDetail_draining, waitersOf_eq]

theorem closeExecute_faulted (h : (s.chan r.req.closeTarget).state = .faulted) :
    closeExecute r s = completeExec 0 (r.req.completion .ok 0 Stamp.zero
      (r.req.closeTarget.val + 3 * 2 ^ 8 + reasonCode (s.chan r.req.closeTarget).faultReason * 2 ^ 16))
      (s.setChan r.req.closeTarget Channel.closed) := by
  simp only [closeExecute, h, closeDetail_faulted]

theorem closeExecute_active (h : (s.chan r.req.closeTarget).state = .active) :
    closeExecute r s = beginDrain r.req.closeTarget r.req.tag r.req.forceFlag s := by
  simp only [closeExecute, h]

theorem exec_closeChannel (h : Executes 0 .closeChannel .handed r s) :
    exec .closeChannel s = .next (settle false (closeExecute r s)) := by
  simp only [exec, execCloseChannel]
  rw [settle_withExec false _ h]

end

/-- Another channel that is not ACTIVE keeps its record when a request completes at the end of an event. -/
theorem completed_chan_inactive {c d : ChanId} {t : State} (x : Completion) (test : Bool)
    (hactive : (t.chan c).state = .active) (hne : d ≠ c) (hd : (t.chan d).state ≠ .active) :
    (settle test (completeExec c x t)).chan d = t.chan d := by
  obtain ⟨-, -, hothers, -⟩ := completeExec_completed x hactive
  rw [settle_chan_inactive test (by rwa [hothers d hne]), hothers d hne]

/-- Channel 0's request completes after `n` other completions of its channel in the same event. -/
theorem completed_behind {n : Nat} {s t : State} (x : Completion) (test : Bool) (hactive : (s.chan 0).state = .active)
    (hchan : t.chan 0 = (s.chan 0).answered n) (hfetch : t.cc.fetch = s.cc.fetch) :
    (settle test (completeExec 0 x t)).chan 0 = { ((s.chan 0).answered (n + 1)) with
        exec := none
        inFlight := (s.chan 0).inFlight - n - 1 + fetchBegun 0 s (settle test (completeExec 0 x t)) } ∧
      (settle test (completeExec 0 x t)).takenBy = t.takenBy ++ [(0, x)] := by
  have ht : (t.chan 0).state = .active := by rw [hchan]; exact hactive
  obtain ⟨htaken, hcompleted, -, -⟩ := completed_settle x test ht
  refine ⟨?_, ?_⟩
  · rw [hcompleted, fetchBegun_congr 0 hfetch, hchan, ← Channel.answered_add, Channel.answered_one]
    rfl
  · rw [takenBy_eq, htaken, List.map_append, ← takenBy_eq]
    rfl

/-- A FAULTED channel closes and the request completes. -/
theorem close_faulted {r : Executing} {s : State} {d : ChanId} (h : Executes 0 .closeChannel .handed r s)
    (htarget : r.req.closeTarget = d) (hd : d ≠ 0) (hstate : (s.chan d).state = .faulted) :
    ∃ u, exec .closeChannel s = .next u ∧ u.chan d = Channel.closed ∧
      u.chan 0 = { ((s.chan 0).answered 1) with
        exec := none, inFlight := (s.chan 0).inFlight - 1 + fetchBegun 0 s u } ∧
      SameChannelsBut (fun x => x = 0 ∨ x = d) s u ∧ SameContents s u ∧
      u.taken = s.taken ++ [(0, (s.chan 0).cplNext, r.req.completion .ok 0 Stamp.zero
        (d.val + 3 * 2 ^ 8 + reasonCode (s.chan d).faultReason * 2 ^ 16))] := by
  subst htarget
  have hchan : (s.setChan r.req.closeTarget Channel.closed).chan 0 = s.chan 0 :=
    State.chan_setChan_other _ _ hd.symm
  have hfetch : (s.setChan r.req.closeTarget Channel.closed).cc.fetch = s.cc.fetch := by simp
  have hactive : ((s.setChan r.req.closeTarget Channel.closed).chan 0).state = .active := by rw [hchan]; exact h.1
  have hclosed : (s.setChan r.req.closeTarget Channel.closed).chan r.req.closeTarget = Channel.closed :=
    State.chan_setChan_same _ _ _
  rw [exec_closeChannel h, closeExecute_faulted hstate]
  generalize r.req.completion .ok 0 Stamp.zero _ = x
  obtain ⟨htaken, -, -, hothers⟩ := completed_settle x false hactive
  refine ⟨_, rfl, ?_, (completed_behind x false h.1 hchan hfetch).1, fun c hc => ?_,
    (setChan_contents _ _ s).trans ((completeExec_contents 0 x _).trans (settle_contents false _)), ?_⟩
  · rw [completed_chan_inactive x false hactive hd (by rw [hclosed]; decide), hclosed]
  · obtain ⟨h0, hne⟩ := not_or.mp hc
    rw [hothers c h0, State.chan_setChan_other _ _ hne, fetchBegun_congr c hfetch]
  · rw [htaken, hchan, taken_of_posts (s := s) (by simp)]

/-! ### CLOSE_CHANNEL with FORCE of a DRAINING channel (R168, log entry 33) -/

section
variable {d : ChanId} {s : State}

theorem HoldingsReturned.toReturnedFor {c : ChanId} {s u : State} (h : HoldingsReturned c s u) :
    ReturnedFor (fun x => x == c) s u := by
  obtain ⟨hbuffers, hwaiters, hread, hreaders, hreservations, hheld, hkept⟩ := h
  exact ⟨hbuffers, hwaiters, hread, hreaders, hreservations, hheld,
    fun hnone => hkept fun x hx => by simpa using hnone x hx⟩

/-- The cancelled records leave the list, and nothing else changes but channels and their completions. -/
theorem cancelWaiters_units (d : ChanId) (s : State) :
    SameLog s (cancelWaiters d s) ∧
      SameUnits { s with store.waiting := (cancelWaiters d s).store.waiting } (cancelWaiters d s) :=
  ⟨.of_journal (by simp), by unfold SameUnits; simp⟩

theorem cancelWaiters_active (h : (s.chan 0).state = .active) : ((cancelWaiters d s).chan 0).state = .active :=
  ((ChannelStands.finishWaiters _ _ s).2 h).1

/-- What the request completes with FORCE whatever the counts are. -/
theorem forced_completes (x : Completion) (h : (s.chan 0).state = .active) (u : State)
    (hu : u = settle false (completeExec 0 x (cancelWaiters d s))) :
    u.store.waiting = s.store.waiting.filter (fun w => w.chan != d) ∧ (u.chan 0).exec = none ∧
      ReturnedFor (fun x => x == 0) s u ∧ SameChannelsBut (fun x => x = 0 ∨ x = d) s u ∧ SameLog s u ∧
      SameUnits { s with store.waiting := u.store.waiting } u := by
  have hactive := cancelWaiters_active (d := d) h
  have hfetch : (cancelWaiters d s).cc.fetch = s.cc.fetch := by simp
  obtain ⟨hlog, hunits⟩ := cancelWaiters_units d s
  have hcontents := (completeExec_contents 0 x (cancelWaiters d s)).trans (settle_contents false _)
  obtain ⟨-, hzero, hreturned, hothers⟩ := completed_settle x false hactive
  rw [← hu] at hcontents hzero hreturned hothers
  have hwaiting : u.store.waiting = (cancelWaiters d s).store.waiting := by
    rw [hu]
    simp
  refine ⟨hwaiting.trans (cancelWaiters_waiting d s), by rw [hzero], ?_, fun c hc => ?_, hlog.trans hcontents.1, ?_⟩
  · simpa [ReturnedFor] using hreturned.toReturnedFor
  · obtain ⟨h0, hne⟩ := not_or.mp hc
    rw [hothers c h0, cancelWaiters_chan_other s h0 hne, fetchBegun_congr c hfetch]
  · rw [hwaiting]
    exact hunits.trans hcontents.2

/-- With others of the channel in flight behind the records it stays DRAINING. -/
theorem forced_drains (x : Completion) (h : (s.chan 0).state = .active) (hd : d ≠ 0)
    (hstate : (s.chan d).state = .draining) (hlen : (s.waitersOn d).length < (s.chan d).inFlight) (u : State)
    (hu : u = settle false (completeExec 0 x (cancelWaiters d s))) :
    u.chan d = (s.chan d).answered (s.waitersOn d).length ∧
      u.chan 0 = { ((s.chan 0).answered 1) with
        exec := none, inFlight := (s.chan 0).inFlight - 1 + fetchBegun 0 s u } ∧
      u.takenBy = s.takenBy ++ endings .cancelled s.store.storedThrough (s.waitersOn d) ++ [(0, x)] := by
  have hcount := length_endings .cancelled s.store.storedThrough (s.waitersOn d)
  obtain ⟨⟨hchan, hothers, htaken⟩, -⟩ := (Cancels.waiters hstate hlen.le).slots (by rwa [hcount])
  obtain ⟨hzero, hanswered⟩ := completed_behind (n := 0) x false h (hothers 0 hd.symm)
    (show (cancelWaiters d s).cc.fetch = s.cc.fetch by simp)
  subst hu
  refine ⟨?_, hzero, by rw [hanswered, htaken]⟩
  rw [completed_chan_inactive x false (cancelWaiters_active h) hd (by rw [hchan]; simp [Channel.answered, hstate]),
    hchan, hcount]

/-- With nothing in flight behind the records the channel closes, and the close that waited is answered first. -/
theorem forced_closes (x : Completion) (h : (s.chan 0).state = .active) (hd : d ≠ 0)
    (hstate : (s.chan d).state = .draining) {pc : PendingClose} (hpc : (s.chan d).pendingClose = some pc)
    (hpos : 0 < (s.chan d).inFlight) (hlen : (s.waitersOn d).length = (s.chan d).inFlight) (u : State)
    (hu : u = settle false (completeExec 0 x (cancelWaiters d s))) :
    u.chan d = Channel.closed ∧
      u.chan 0 = { ((s.chan 0).answered 2) with
        exec := none, inFlight := (s.chan 0).inFlight - 1 - 1 + fetchBegun 0 s u } ∧
      u.takenBy = s.takenBy ++ endings .cancelled s.store.storedThrough (s.waitersOn d) ++
        [(0, drainedClose d pc), (0, x)] := by
  have hcount := length_endings .cancelled s.store.storedThrough (s.waitersOn d)
  obtain ⟨y, hslots, heq⟩ := (Cancels.waiters hstate hlen.le).2 (List.length_pos_iff.mp (by omega))
  obtain ⟨hchan, hchan0, htaken⟩ := drainCheck_closes hd hslots hstate (hcount.trans hlen) hpc (live_of_active h)
  rw [← heq] at hchan hchan0 htaken
  obtain ⟨hzero, hanswered⟩ := completed_behind x false h hchan0
    (show (cancelWaiters d s).cc.fetch = s.cc.fetch by simp)
  subst hu
  refine ⟨?_, hzero, by rw [hanswered, htaken, List.append_assoc]; rfl⟩
  rw [completed_chan_inactive x false (cancelWaiters_active h) hd (by rw [hchan]; decide), hchan]

end

end Sys2Proof.Machine


namespace Sys2Proof.Machine

/-! ### Holdings that return in one event (R165) -/

namespace ReturnedFor
variable {p q : ChanId → Bool} {s t u : State}

theorem of_eq (h : ReturnedFor p s t) (hstaging : u.staging = t.staging)
    (hread : u.journal.readBuffers = t.journal.readBuffers) (hreaders : u.journal.readWaiters = t.journal.readWaiters)
    (hreservations : u.store.reservationWaiters = t.store.reservationWaiters) (hbudget : u.budget = t.budget)
    (hfull : u.journal.full = t.journal.full) : ReturnedFor p s u := by
  simpa only [ReturnedFor, hstaging, hread, hreaders, hreservations, hbudget, hfull] using h

/-- Of no channel, nothing returns. -/
theorem none (s : State) : ReturnedFor (fun _ => false) s s := by
  simp [ReturnedFor]

theorem trans (h : ReturnedFor p s t) (h' : ReturnedFor q t u) : ReturnedFor (fun x => p x || q x) s u := by
  obtain ⟨hbuffers, hwaiters, hread, hreaders, hreservations, hheld, hkept⟩ := h
  obtain ⟨hbuffers', hwaiters', hread', hreaders', hreservations', hheld', hkept'⟩ := h'
  have hor : ∀ a b : Bool, (!b && !a) = !(a || b) := by decide
  rw [hbuffers, List.filter_filter] at hbuffers'
  rw [hwaiters, List.filter_filter] at hwaiters'
  rw [hread, List.filter_filter] at hread'
  rw [hreaders, List.filter_filter] at hreaders'
  rw [hreservations, List.filter_filter] at hreservations'
  rw [hheld, List.filter_filter] at hheld'
  simp only [hor] at hbuffers' hwaiters' hread' hreaders' hreservations' hheld'
  refine ⟨hbuffers', hwaiters', hread', hreaders', hreservations', hheld', fun hnone => ?_⟩
  have hboth := fun x hx => Bool.or_eq_false_iff.mp (hnone x hx)
  obtain ⟨hpressure, hfull⟩ := hkept fun x hx => (hboth x hx).1
  obtain ⟨hpressure', hfull'⟩ := hkept' fun x hx => (hboth x (List.mem_of_mem_filter (hheld ▸ hx))).2
  exact ⟨hpressure'.trans hpressure, hfull'.trans hfull⟩

end ReturnedFor

/-! ### The held request of a channel that begins to drain (R168) -/

section
variable {d : ChanId} {s : State}

/-- The state in which the held request of the channel, if it has one, has ended its execution. -/
def heldEnded (d : ChanId) (s : State) : State := if (s.heldAnswer d).isEmpty then s else endExecution d s

/-- A held request takes the answer CANCELLED; without one nothing happens. -/
theorem cancelHeld_cases (d : ChanId) (s : State) :
    (s.heldAnswer d = [] ∧ cancelHeld d s = s ∧ heldEnded d s = s) ∨
      ∃ x, s.heldAnswer d = [(d, x)] ∧ cancelHeld d s = handCompletion d x (endExecution d s) ∧
        heldEnded d s = endExecution d s := by
  cases hexec : (s.chan d).exec with
  | none => exact Or.inl (by simp [State.heldAnswer, cancelHeld, heldEnded, hexec])
  | some r =>
    by_cases hstage : r.stage = .held
    · exact Or.inr ⟨r.req.refusal .cancelled 0, by simp [State.heldAnswer, cancelHeld, heldEnded, hexec, hstage,
        completeExec]⟩
    · exact Or.inl (by simp [State.heldAnswer, cancelHeld, heldEnded, hexec, hstage])

theorem heldAnswer_congr {t : State} (h : (t.chan d).exec = (s.chan d).exec) : t.heldAnswer d = s.heldAnswer d := by
  rw [State.heldAnswer, h, State.heldAnswer]

theorem heldEnded_chan_same (d : ChanId) (s : State) : (heldEnded d s).chan d =
    { s.chan d with exec := if (s.heldAnswer d).isEmpty then (s.chan d).exec else none } := by
  rw [heldEnded]
  split
  · rfl
  · exact endExecution_chan_same d s

theorem heldEnded_chan_other {c : ChanId} (s : State) (h : c ≠ d) : (heldEnded d s).chan c = s.chan c := by
  rw [heldEnded]
  split
  · rfl
  · exact endExecution_chan_other s h

theorem heldEnded_takenBy (d : ChanId) (s : State) : (heldEnded d s).takenBy = s.takenBy := by
  rw [takenBy_eq, takenBy_eq, taken_of_posts (s := s) (by simp [heldEnded, apply_ite])]

/-- The held request of a DRAINING channel takes the next slot. -/
theorem Cancels.held (hstate : (s.chan d).state = .draining) :
    Cancels d (s.heldAnswer d) (heldEnded d s) (cancelHeld d s) := by
  rcases cancelHeld_cases d s with ⟨hnone, heq, hended⟩ | ⟨x, hsome, heq, hended⟩
  · rw [hnone, heq, hended]
    exact .nil d s
  · rw [hsome, heq, hended]
    have hlive : ((endExecution d s).chan d).live = true := by
      rw [endExecution_chan_same]
      simp [Channel.live, hstate]
    exact ⟨fun h => absurd h (List.cons_ne_nil _ _), fun _ => ⟨_, .takeSlot x hlive, rfl⟩⟩

theorem cancelHeld_chan_other {c : ChanId} (s : State) (h0 : c ≠ 0) (hd : c ≠ d) :
    (cancelHeld d s).chan c = s.chan c := by
  rcases cancelHeld_cases d s with ⟨-, heq, -⟩ | ⟨x, -, heq, -⟩
  · rw [heq]
  · rw [heq, handCompletion, drainCheck_chan_other _ h0 hd, takeSlot_chan_other _ _ hd, endExecution_chan_other s hd]

/-- What the held request held is returned. -/
theorem cancelHeld_returned (d : ChanId) (s : State) :
    ReturnedFor (fun x => x == d && !(s.heldAnswer d).isEmpty) s (cancelHeld d s) := by
  rcases cancelHeld_cases d s with ⟨hnone, heq, -⟩ | ⟨x, hsome, heq, -⟩
  · simpa [heq, hnone] using ReturnedFor.none s
  · have hreturned := (endExecution_holdings d s).toReturnedFor.of_eq (u := cancelHeld d s) (by simp [heq])
      (by simp [heq]) (by simp [heq]) (by simp [heq]) (by simp [heq]) (by simp [heq])
    simpa [hsome] using hreturned

/-! ### CLOSE_CHANNEL of an ACTIVE channel (R168) -/

/-- The channel is DRAINING, its transactions have ended, and nothing has completed yet. -/
def drainBegun (d : ChanId) (tag : Tag) (n : Nat) (s : State) : State :=
  endTxns (fun x => x == d) (markDraining d tag n s)

/-- The waiting records of the channel are cancelled with FORCE, else they stay. -/
def cancelForced (force : Bool) (d : ChanId) (s : State) : State := if force then cancelWaiters d s else s

/-- The waiting records that a close cancels. -/
def State.forcedOn (s : State) (force : Bool) (d : ChanId) : List Waiter := if force then s.waitersOn d else []

/-- The channel drains as far as it can without the host: what `beginDrain` does before the grant run. -/
def drainEntered (d : ChanId) (tag : Tag) (force : Bool) (s : State) : State :=
  drainCheck d (cancelForced force d (cancelHeld d (drainBegun d tag (s.forcedOn force d).length s)))

theorem beginDrain_eq (d : ChanId) (tag : Tag) (force : Bool) (s : State) :
    beginDrain d tag force s = grantAfter (s.oldestIs d) (drainEntered d tag force s) := by
  cases force with
  | false => rfl
  | true =>
    simp only [beginDrain, waitersOf_eq]
    rfl

theorem Cancels.forced (force : Bool) (hstate : (s.chan d).state = .draining)
    (hlen : (s.forcedOn force d).length ≤ (s.chan d).inFlight) :
    Cancels d (endings .cancelled s.store.storedThrough (s.forcedOn force d)) s (cancelForced force d s) := by
  cases force with
  | false => exact .nil d s
  | true => exact Cancels.waiters hstate hlen

theorem cancelForced_none {force : Bool} (h : s.forcedOn force d = []) : cancelForced force d s = s := by
  cases force with
  | false => rfl
  | true => exact cancelWaiters_none h

theorem cancelForced_chan_other {c : ChanId} (force : Bool) (s : State) (h0 : c ≠ 0) (hd : c ≠ d) :
    (cancelForced force d s).chan c = s.chan c := by
  cases force with
  | false => rfl
  | true => exact cancelWaiters_chan_other s h0 hd

theorem cancelForced_waiting (force : Bool) (d : ChanId) (s : State) :
    (cancelForced force d s).store.waiting = s.store.waiting.filter (fun w => !(force && w.chan == d)) := by
  cases force with
  | false => simp [cancelForced]
  | true => exact cancelWaiters_waiting d s

end

section
variable {d : ChanId} {tag : Tag} {n : Nat} {s : State}

theorem drainBegun_chan (d : ChanId) (tag : Tag) (n : Nat) (s : State) (c : ChanId) :
    (drainBegun d tag n s).chan c = (markDraining d tag n s).chan c := by
  simp [drainBegun, State.chan]

theorem drainBegun_chan_other {c : ChanId} (h : c ≠ d) :
    (drainBegun d tag n s).chan c = (endExecution 0 s).chan c := by
  rw [drainBegun_chan, markDraining, State.chan_modChan_other _ _ h]

theorem drainBegun_chan_zero (hd : d ≠ 0) : (drainBegun d tag n s).chan 0 = { s.chan 0 with exec := none } := by
  rw [drainBegun_chan_other hd.symm, endExecution_chan_same]

theorem drainBegun_chan_same (hd : d ≠ 0) : (drainBegun d tag n s).chan d =
    { s.chan d with state := .draining, pendingClose := some { tag := tag, cancelled := n } } := by
  rw [drainBegun_chan, markDraining, State.chan_modChan_same, endExecution_chan_other s hd]

theorem drainBegun_heldAnswer (hd : d ≠ 0) : (drainBegun d tag n s).heldAnswer d = s.heldAnswer d :=
  heldAnswer_congr (by rw [drainBegun_chan_same hd])

theorem drainBegun_takenBy (d : ChanId) (tag : Tag) (n : Nat) (s : State) :
    (drainBegun d tag n s).takenBy = s.takenBy := by
  rw [takenBy_eq, takenBy_eq, taken_of_posts (s := s) (by simp [drainBegun, markDraining])]

theorem drainBegun_returned (d : ChanId) (tag : Tag) (n : Nat) (s : State) :
    ReturnedFor (fun x => x == 0) s (drainBegun d tag n s) :=
  (endExecution_holdings 0 s).toReturnedFor.of_eq (by simp [drainBegun, markDraining])
    (by simp [drainBegun, markDraining]) (by simp [drainBegun, markDraining]) (by simp [drainBegun, markDraining])
    (by simp [drainBegun, markDraining]) (by simp [drainBegun, markDraining])

end

end Sys2Proof.Machine


namespace Sys2Proof.Machine

section
variable {d : ChanId} {s t : State}

theorem forcedOn_congr (force : Bool) (d : ChanId) (h : t.store.waiting = s.store.waiting) :
    t.forcedOn force d = s.forcedOn force d := by
  rw [State.forcedOn, State.waitersOn, h]
  rfl

/-- The held request and then the waiting records are cancelled, where the channel has as many in flight. -/
theorem drainBegun_cancels (tag : Tag) (force : Bool) (n : Nat) (hd : d ≠ 0)
    (hlen : (s.heldAnswer d).length + (s.forcedOn force d).length ≤ (s.chan d).inFlight) :
    Cancels d (s.heldAnswer d ++ endings .cancelled s.store.storedThrough (s.forcedOn force d))
      (heldEnded d (drainBegun d tag n s)) (cancelForced force d (cancelHeld d (drainBegun d tag n s))) := by
  have hchan := drainBegun_chan_same (tag := tag) (n := n) (s := s) hd
  have hdraining : ((drainBegun d tag n s).chan d).state = .draining := by rw [hchan]
  have hended := heldEnded_chan_same d (drainBegun d tag n s)
  have hforced : (cancelHeld d (drainBegun d tag n s)).forcedOn force d = s.forcedOn force d :=
    forcedOn_congr force d (by simp [drainBegun])
  have hstored : (cancelHeld d (drainBegun d tag n s)).store.storedThrough = s.store.storedThrough := by
    simp [drainBegun]
  have hcount := length_endings .cancelled s.store.storedThrough (s.forcedOn force d)
  have hheld := Cancels.held hdraining
  rw [drainBegun_heldAnswer hd] at hheld
  refine hheld.append (by rw [hended, hchan]) (by rw [hended, hchan, hcount]; exact hlen) (fun hnil => ?_)
    (fun hstate hfits => ?_)
  · exact cancelForced_none (hforced.trans (List.map_eq_nil_iff.mp hnil))
  · have hcancels := Cancels.forced force hstate (by rwa [hforced, ← hcount])
    rwa [hforced, hstored] at hcancels

/-- The record of a channel that has begun to drain, with the execution of a held request ended. -/
theorem heldEnded_drainBegun (tag : Tag) (n : Nat) (hd : d ≠ 0) :
    (heldEnded d (drainBegun d tag n s)).chan d = { s.chan d with
      state := .draining, exec := if (s.heldAnswer d).isEmpty then (s.chan d).exec else none
      pendingClose := some { tag := tag, cancelled := n } } := by
  rw [heldEnded_chan_same, drainBegun_heldAnswer hd, drainBegun_chan_same hd]

theorem heldEnded_drainBegun_zero (tag : Tag) (n : Nat) (hd : d ≠ 0) :
    (heldEnded d (drainBegun d tag n s)).chan 0 = { s.chan 0 with exec := none } := by
  rw [heldEnded_chan_other _ hd.symm, drainBegun_chan_zero hd]

theorem heldEnded_drainBegun_takenBy (tag : Tag) (n : Nat) :
    (heldEnded d (drainBegun d tag n s)).takenBy = s.takenBy :=
  (heldEnded_takenBy d _).trans (drainBegun_takenBy d tag n s)

/-- With others in flight behind those that it cancels the channel is DRAINING. -/
theorem drainEntered_drains (tag : Tag) (force : Bool) (hd : d ≠ 0)
    (hlen : (s.heldAnswer d).length + (s.forcedOn force d).length < (s.chan d).inFlight) :
    (drainEntered d tag force s).chan d =
        { ((s.chan d).answered ((s.heldAnswer d).length + (s.forcedOn force d).length)) with
          state := .draining, exec := if (s.heldAnswer d).isEmpty then (s.chan d).exec else none
          pendingClose := some { tag := tag, cancelled := (s.forcedOn force d).length } } ∧
      (drainEntered d tag force s).chan 0 = { s.chan 0 with exec := none } ∧
      (drainEntered d tag force s).takenBy =
        s.takenBy ++ s.heldAnswer d ++ endings .cancelled s.store.storedThrough (s.forcedOn force d) := by
  have hcount : (s.heldAnswer d ++ endings .cancelled s.store.storedThrough (s.forcedOn force d)).length =
      (s.heldAnswer d).length + (s.forcedOn force d).length := by
    rw [List.length_append, length_endings]
  obtain ⟨⟨hchan, hothers, htaken⟩, hrests⟩ :=
    (drainBegun_cancels tag force (s.forcedOn force d).length hd hlen.le).slots
      (by rw [heldEnded_drainBegun _ _ hd, hcount]; exact hlen)
  rw [drainEntered, hrests]
  refine ⟨?_, ?_, ?_⟩
  · rw [hchan, hcount, heldEnded_drainBegun _ _ hd]
    rfl
  · rw [hothers 0 hd.symm, heldEnded_drainBegun_zero _ _ hd]
  · rw [htaken, heldEnded_drainBegun_takenBy, List.append_assoc]

/-- With nothing left in flight the channel closes and the request completes. -/
theorem drainEntered_closes (tag : Tag) (force : Bool) (hd : d ≠ 0) (hactive : (s.chan 0).state = .active)
    (hlen : (s.heldAnswer d).length + (s.forcedOn force d).length = (s.chan d).inFlight) :
    (drainEntered d tag force s).chan d = Channel.closed ∧
      (drainEntered d tag force s).chan 0 = { ((s.chan 0).answered 1) with exec := none } ∧
      (drainEntered d tag force s).takenBy = s.takenBy ++ s.heldAnswer d ++
        endings .cancelled s.store.storedThrough (s.forcedOn force d) ++
        [(0, drainedClose d { tag := tag, cancelled := (s.forcedOn force d).length })] := by
  have hcount : (s.heldAnswer d ++ endings .cancelled s.store.storedThrough (s.forcedOn force d)).length =
      (s.heldAnswer d).length + (s.forcedOn force d).length := by
    rw [List.length_append, length_endings]
  have hended := heldEnded_drainBegun (s := s) tag (s.forcedOn force d).length hd
  have hzero := heldEnded_drainBegun_zero (s := s) tag (s.forcedOn force d).length hd
  obtain ⟨y, hslots, heq⟩ := (drainBegun_cancels tag force (s.forcedOn force d).length hd hlen.le).drainCheck_eq
  obtain ⟨hchan, hchan0, htaken⟩ := drainCheck_closes hd hslots (by rw [hended])
    (by rw [hended, hcount]; exact hlen) (by rw [hended])
    (by rw [hzero]; exact live_of_active hactive)
  rw [drainEntered, heq]
  refine ⟨hchan, ?_, ?_⟩
  · rw [hchan0, hzero]
    rfl
  · rw [htaken, heldEnded_drainBegun_takenBy, ← List.append_assoc]

/-- The channels apart from the one that drains and channel 0 are as they were. -/
theorem drainEntered_chan_other {c : ChanId} (tag : Tag) (force : Bool) (s : State) (h0 : c ≠ 0) (hd : c ≠ d) :
    (drainEntered d tag force s).chan c = s.chan c := by
  rw [drainEntered, drainCheck_chan_other _ h0 hd, cancelForced_chan_other force _ h0 hd,
    cancelHeld_chan_other _ h0 hd, drainBegun_chan_other hd, endExecution_chan_other s h0]

/-- What the two requests held, this one and a held one of the channel, is returned. -/
theorem drainEntered_returned (tag : Tag) (force : Bool) (hd : d ≠ 0) :
    ReturnedFor (fun x => x == 0 || (x == d && !(s.heldAnswer d).isEmpty)) s (drainEntered d tag force s) := by
  have hheld := cancelHeld_returned d (drainBegun d tag (s.forcedOn force d).length s)
  rw [drainBegun_heldAnswer hd] at hheld
  refine ((drainBegun_returned d tag _ s).trans hheld).of_eq ?_ ?_ ?_ ?_ ?_ ?_ <;>
    simp [drainEntered, cancelForced, apply_ite]

theorem drainEntered_waiting (d : ChanId) (tag : Tag) (force : Bool) (s : State) :
    (drainEntered d tag force s).store.waiting = s.store.waiting.filter (fun w => !(force && w.chan == d)) := by
  have hbegun : (cancelHeld d (drainBegun d tag (s.forcedOn force d).length s)).store.waiting = s.store.waiting := by
    simp [drainBegun]
  rw [← hbegun, ← cancelForced_waiting]
  simp [drainEntered]

theorem drainEntered_sram (d : ChanId) (tag : Tag) (force : Bool) (s : State) :
    (drainEntered d tag force s).journal.sram =
      (endTxns (fun x => x == d) (markDraining d tag (s.forcedOn force d).length s)).journal.sram := by
  simp [drainEntered, cancelForced, drainBegun, apply_ite]

theorem drainEntered_voided (d : ChanId) (tag : Tag) (force : Bool) (s : State) :
    VoidedAll (fun x => x.chan == d) s (drainEntered d tag force s) :=
  (endTxns_voided (fun x => x == d) (markDraining d tag (s.forcedOn force d).length s)).congr (by simp) (by simp)
    (by simp) (by simp) (drainEntered_sram d tag force s)

theorem drainEntered_txns (d : ChanId) (tag : Tag) (force : Bool) (s : State) :
    (drainEntered d tag force s).txns =
      { s.txns with table := s.txns.table.filter (fun x => !(x.chan == d)) } := by
  have hbegun := endTxns_txns (fun x => x == d) (markDraining d tag (s.forcedOn force d).length s)
  have hmarked : (markDraining d tag (s.forcedOn force d).length s).txns = s.txns := by simp
  rw [hmarked] at hbegun
  rw [← hbegun]
  simp [drainEntered, cancelForced, drainBegun, apply_ite]

theorem drainEntered_array (d : ChanId) (tag : Tag) (force : Bool) (s : State) :
    (drainEntered d tag force s).array = { s.array with shadow := (drainEntered d tag force s).array.shadow } := by
  have hslots : (drainEntered d tag force s).array.slotA = s.array.slotA ∧
      (drainEntered d tag force s).array.slotB = s.array.slotB ∧
      (drainEntered d tag force s).array.closing = s.array.closing := by
    simp [drainEntered, cancelForced, drainBegun, apply_ite]
  obtain ⟨hA, hB, hclosing⟩ := hslots
  dsimp only
  rw [← hA, ← hB, ← hclosing]

/-- The log but for the VOID marks. -/
theorem drainEntered_journal (d : ChanId) (tag : Tag) (force : Bool) (s : State) :
    (drainEntered d tag force s).journal.segs = s.journal.segs ∧
      (drainEntered d tag force s).journal.chain = s.journal.chain ∧
      (drainEntered d tag force s).journal.nextSeq = s.journal.nextSeq ∧
      (drainEntered d tag force s).journal.head = s.journal.head ∧
      (drainEntered d tag force s).journal.format = s.journal.format ∧
      (drainEntered d tag force s).journal.formatted = s.journal.formatted ∧
      (drainEntered d tag force s).cc.fetch = s.cc.fetch := by
  simp [drainEntered, cancelForced, drainBegun, apply_ite]

theorem drainEntered_units (d : ChanId) (tag : Tag) (force : Bool) (s : State) :
    SameUnits { s with
      txns := (drainEntered d tag force s).txns, array.shadow := (drainEntered d tag force s).array.shadow,
      store.waiting := (drainEntered d tag force s).store.waiting } (drainEntered d tag force s) := by
  refine ⟨rfl, drainEntered_array d tag force s, ?_⟩
  cases force <;> simp [drainEntered, cancelForced, drainBegun]

end

/-- Settles O40: by the state of the channel that the request names. -/
theorem closeChannelRule : Obligations.CloseChannelRule := by
  rintro s r d h rfl hd
  have hzero : (s.chan 0).state = .active := h.1
  refine ⟨fun hclosed => onlyCompletes_withExec h (closeExecute_closed hclosed),
    fun hstate hforce => onlyCompletes_withExec h (closeExecute_busy hstate hforce), fun hstate hforce => ?_,
    close_faulted h rfl hd, fun hactive => ?_⟩
  · rw [exec_closeChannel h, closeExecute_forced hstate hforce]
    generalize r.req.completion .ok 0 Stamp.zero _ = x
    obtain ⟨hwaiting, hexec, hreturned, hothers, hlog, hunits⟩ := forced_completes x hzero _ rfl
    exact ⟨_, rfl, hwaiting, hexec, hreturned, hothers, hlog, hunits,
      fun hlen => forced_drains x hzero hd hstate hlen _ rfl,
      fun pc hpc hpos hlen => forced_closes x hzero hd hstate hpc hpos hlen _ rfl⟩
  · rw [exec_closeChannel h, closeExecute_active hactive, beginDrain_eq]
    obtain ⟨hsegs, hchain, hseq, hhead, hformat, hformatted, hfetch⟩ :=
      drainEntered_journal r.req.closeTarget r.req.tag r.req.forceFlag s
    exact ⟨drainEntered r.req.closeTarget r.req.tag r.req.forceFlag s, s.forcedOn r.req.forceFlag r.req.closeTarget,
      rfl, rfl, drainEntered_voided _ _ _ s, drainEntered_txns _ _ _ s, drainEntered_waiting _ _ _ s,
      drainEntered_returned _ _ hd, hfetch, fun c h0 hc => drainEntered_chan_other _ _ s h0 hc,
      fun i _ => SameSegments.of_segs hsegs i, hchain, hseq, hhead, hformat, hformatted, drainEntered_units _ _ _ s,
      drainEntered_drains _ _ hd, drainEntered_closes _ _ hd hzero⟩

end Sys2Proof.Machine
